-- ==== Sys2Proof/Word.lean ====
section
/-!
DEFINITION. Word.lean: the word types of Finrak 9 and the numbers of its parts.
-/
namespace Sys2Proof

/-- One byte (R2). -/
abbrev Byte := BitVec 8
/-- A 32-bit word: one slot of a bundle (R57), a serial, a count. -/
abbrev Word32 := BitVec 32
/-- A 64-bit scalar register or control register value (R69, R180). -/
abbrev Word := BitVec 64
/-- A 128-byte scratchpad row or vector register, byte 0 in bits [7:0] (R2, R4). -/
abbrev Row := BitVec 1024
/-- A lane mask, or the byte enables of a row (R61). -/
abbrev Mask := BitVec 128

/-- A core, die × 64 + cluster × 8 + core (00, Glossary). -/
abbrev CoreId := Fin 128
/-- A cluster, 0 to 15. -/
abbrev ClusterId := Fin 16
/-- An HBM4E stack, 0 to 7 (R399). -/
abbrev StackId := Fin 8
/-- A near-memory unit number (R337). -/
abbrev UnitId := Fin 128
/-- A port: 0 to 23 Clapel (R385), 24 to 55 the ports of the die bridge (R397). -/
abbrev PortId := Fin 56
/-- A clock region: die × 36 + region (R475). -/
abbrev RegionId := Fin 72
/-- A host-to-device mailbox slot (R496). -/
abbrev MailSlot := Fin 64

/-- Scalar register number (R69). -/
abbrev XReg := BitVec 6
/-- Predicate number (R69). -/
abbrev PReg := BitVec 4
/-- Lane mask number (R69). -/
abbrev MReg := BitVec 4
/-- Target register number (R69). -/
abbrev TReg := BitVec 3
/-- Vector selector: v, o, j or q registers (R69). -/
abbrev VSel := BitVec 6
/-- Stream register or tile-queue number. -/
abbrev QReg := BitVec 3
/-- Scale register number (R69). -/
abbrev GReg := BitVec 5

end Sys2Proof
end

