-- ==== Sys2Proof/Machine/Crypto.lean ====
section
/-!
DEFINITION. Machine/Crypto.lean: the random stream of R135, the CRCs of R345 and R388, and the SHAKE256 that R500 to
R503 call for (FIPS 202; the manual names the function only, assumption log 11).
-/
namespace Sys2Proof

/-! ### chacha8_block (R135) -/

def rotl32 (x n : Nat) : Nat := x * 2 ^ n % 2 ^ 32 + x / 2 ^ (32 - n)
def getW (w : List Nat) (i : Nat) : Nat := w.getD i 0
def quarter (a b c d : Nat) (w : List Nat) : List Nat :=
  let add := fun x y => (x + y) % 2 ^ 32
  let a1 := add (getW w a) (getW w b)
  let d1 := rotl32 (getW w d ^^^ a1) 16
  let c1 := add (getW w c) d1
  let b1 := rotl32 (getW w b ^^^ c1) 12
  let a2 := add a1 b1
  let d2 := rotl32 (d1 ^^^ a2) 8
  let c2 := add c1 d2
  let b2 := rotl32 (b1 ^^^ c2) 7
  ((((w.set a a2).set b b2).set c c2).set d d2)
def doubleRound (w : List Nat) : List Nat :=
  quarter 3 4 9 14 (quarter 2 7 8 13 (quarter 1 6 11 12 (quarter 0 5 10 15
    (quarter 3 7 11 15 (quarter 2 6 10 14 (quarter 1 5 9 13 (quarter 0 4 8 12 w)))))))
/-- The 16 words of a block: key of eight words, block counter, stream number. -/
def chacha8Words (key : List Nat) (ctr strm : Nat) : List Nat :=
  let lo := fun x => x % 2 ^ 32
  let s := [0x61707865, 0x3320646E, 0x79622D32, 0x6B206574] ++ (List.range 8).map (fun i => lo (getW key i)) ++
    [lo ctr, lo (ctr / 2 ^ 32), lo strm, lo (strm / 2 ^ 32)]
  let w := doubleRound (doubleRound (doubleRound (doubleRound s)))
  (w.zip s).map (fun p => (p.1 + p.2) % 2 ^ 32)
/-- The block as 64 bytes, word 0 first, little-endian. -/
def chacha8Block (key : List Nat) (ctr strm : Nat) : BitVec 512 :=
  BitVec.ofNat 512 ((chacha8Words key ctr strm).foldr (fun x r => x + 2 ^ 32 * r) 0)
/-- The key words of four key registers (R180). -/
def keyWords (k : Vector Word 4) : List Nat :=
  k.toList.foldr (fun w r => w.toNat % 2 ^ 32 :: w.toNat / 2 ^ 32 :: r) []

/-! ### CRC-64 (R345) and CRC-32 (R388), reflected -/

/-- n shifts of the reflected register with the reflected polynomial. -/
def crcShift (poly : Nat) : Nat → Nat → Nat
  | 0, c => c
  | n + 1, c => crcShift poly n (if c % 2 = 1 then c / 2 ^^^ poly else c / 2)
def crcBytes (poly : Nat) : List Byte → Nat → Nat
  | [], c => c
  | b :: r, c => crcBytes poly r (crcShift poly 8 (c ^^^ b.toNat))
/-- The CRC of ECMA-182 continued over bytes, as the XZ format continues it: the value before is a finished CRC. -/
def crc64 (c : Nat) (bs : List Byte) : Nat := crcBytes 0xC96C5795D7870F42 bs (c ^^^ (2 ^ 64 - 1)) ^^^ (2 ^ 64 - 1)
def crc32 (bs : List Byte) : Nat := crcBytes 0xEDB88320 bs (2 ^ 32 - 1) ^^^ (2 ^ 32 - 1)

/-! ### SHAKE256: the sponge over 25 lanes, lane x + 5 y at index x + 5 y -/

/-- A lane turned left by n places, as the sum of its two parts. -/
def turnLane (n v : Nat) : Nat := let k := 2 ^ (64 - n % 64); v % k * 2 ^ (n % 64) + v / k
/-- A power of the generator modulo x^8 + x^6 + x^5 + x^4 + 1, times the generator: the sequence behind the round
constants. -/
def nextRoundBit (r : Nat) : Nat := if 128 ≤ r then 2 * r ^^^ 0x171 else 2 * r
/-- One round's constant, gathered from k further powers: the j-th of them gives bit 2^j - 1. Also the power after. -/
def roundConstant : Nat → Nat → Nat → Nat × Nat
  | 0, _, r => (0, r)
  | k + 1, j, r =>
    let rest := roundConstant k (j + 1) (nextRoundBit r)
    (r % 2 * 2 ^ (2 ^ j - 1) + rest.1, rest.2)
/-- The lanes in the order in which the permutation's walk visits them: each step says which lane moves where and by how
many places it turns; the t-th turns by the t-th triangular number. -/
def laneWalk : Nat → Nat → Nat → Nat → List (Nat × Nat × Nat)
  | 0, _, _, _ => []
  | f + 1, t, x, y =>
    let y' := (2 * x + 3 * y) % 5
    (x + 5 * y, y + 5 * y', t * (t + 1) / 2) :: laneWalk f (t + 1) y y'
/-- The parity of column x. -/
def columnParity (a : List Nat) (x : Nat) : Nat := (List.range 5).foldl (fun p y => p ^^^ getW a (x % 5 + 5 * y)) 0
/-- Every lane with the parities of its neighbour columns. -/
def mixColumns (a : List Nat) : List Nat :=
  (List.range 25).map (fun i => getW a i ^^^ columnParity a (i + 4) ^^^ turnLane 1 (columnParity a (i + 1)))
/-- The lanes moved along the walk. -/
def moveLanes (a : List Nat) : List Nat :=
  (laneWalk 24 1 1 0).foldl (fun b m => b.set m.2.1 (turnLane m.2.2 (getW a m.1))) a
/-- Each lane with the product of the two lanes after it in its row, the first of them complemented. -/
def mixRows (a : List Nat) : List Nat :=
  (List.range 25).map (fun i =>
    let row := i / 5 * 5
    let q := getW a (row + (i + 2) % 5)
    getW a i ^^^ q ^^^ (q &&& getW a (row + (i + 1) % 5)))
/-- n rounds from the power r of the round constants' sequence. -/
def permute : Nat → Nat → List Nat → List Nat
  | 0, _, a => a
  | n + 1, r, a =>
    let c := roundConstant 7 0 r
    let b := mixRows (moveLanes (mixColumns a))
    permute n c.2 (b.set 0 (getW b 0 ^^^ c.1))
/-- The number that bytes spell, least significant first. -/
def leWord (bs : List Byte) : Nat := bs.foldr (fun b n => b.toNat + 256 * n) 0
/-- One block of 136 bytes taken into the lanes. -/
def takeBlock (a : List Nat) (block : List Byte) : List Nat :=
  let n := leWord block
  permute 24 1 ((List.range 25).map (fun i => getW a i ^^^ n / 2 ^ (64 * i) % 2 ^ 64))
/-- The message with the suffix and the padding of SHAKE, a whole number of blocks. -/
def shakePadded (bs : List Byte) : List Byte :=
  let gap := 135 - bs.length % 136
  if gap = 0 then bs ++ [0x9F] else bs ++ 0x1F :: List.replicate (gap - 1) 0 ++ [0x80]
/-- n blocks of the padded message. -/
def takeBlocks : Nat → List Byte → List Nat → List Nat
  | 0, _, a => a
  | n + 1, bs, a => takeBlocks n (bs.drop 136) (takeBlock a (bs.take 136))
/-- SHAKE256 with 32 bytes of output. -/
def shake256 (bs : List Byte) : List Byte :=
  let a := takeBlocks (bs.length / 136 + 1) (shakePadded bs) (List.replicate 25 0)
  let n := (a.take 4).foldr (fun v r => v + 2 ^ 64 * r) 0
  (List.range 32).map (fun i => BitVec.ofNat 8 (n / 256 ^ i))

end Sys2Proof
end

