-- ==== Sys2Proof/Config.lean ====
section
/-!
DEFINITION. Config.lean: the free values. Each is an opaque constant, so no proof can see a value of it; State.fresh
counts the draws (assumption log 3).
-/
namespace Sys2Proof

/-- Which of the untimed steps that could come about next does, if any: the manual bounds none of their times
(R246, R308, R350, R393, R424). -/
opaque Config.pick : Nat → Nat
/-- A word the manual leaves open. -/
opaque Config.freeWord : Nat → Word
/-- A row the manual leaves open. -/
opaque Config.freeRow : Nat → Row
/-- How many bundles past the one issued a stream has fetched (R162, R263). -/
opaque Config.prefetch : Nat → Nat
/-- Which port of a route takes a message (R400). -/
opaque Config.portOf : Nat → Nat → Nat
/-- Words that the physical entropy source delivers (R503). -/
opaque Config.entropy : Nat → Word
/-- Whether a Falcon-1024 signature over a message verifies under a key (R500): message, signature, key. -/
opaque Config.falconVerify : List Byte → List Byte → List Byte → Bool
/-- Kolov's public key (R500). -/
opaque Config.kolovKey : List Byte
/-- The report that ATTEST returns, from what R502 says it contains: its layout and its Falcon-1024 signature are open. -/
opaque Config.attestReport : List Byte → List Byte

end Sys2Proof
end

