-- ==== Sys2Proof/Syntax.lean ====
section
/-!
DEFINITION. Syntax.lean: the instructions of the opcode table, one constructor per row: the 232 slot
instructions with their operand fields (R72 to R82), and the 122 indivisible machine steps that carry no
encoding (spec/95_what_each_step_holds.md).
-/
namespace Sys2Proof

/-- What every C-slot instruction carries: guard [31:28] and hold count [27:24] (R73). -/
structure CHdr where
  g    : PReg
  hold : BitVec 4
  deriving DecidableEq, Repr

/-- The width field of a V slot (R76). -/
inductive VWidth where | w256 | w512 | w1024
  deriving DecidableEq, Repr

/-- The type field of a V slot (R76). -/
inductive VType where | i8 | i16 | i32 | i64 | f16 | bf16 | f32 | f64
  deriving DecidableEq, Repr

/-- Guard, width and type of a V slot (R59, R76). -/
structure VHdr where
  m : MReg
  w : VWidth
  t : VType
  deriving DecidableEq, Repr

/-- The fmt field of the scalar float instructions (R74). -/
inductive FFmt where | f16 | bf16 | f32 | f64
  deriving DecidableEq, Repr

/-- Rounding modes selected by an encoding (R110). -/
inductive Rm where | rne | rtz | rup | rdn
  deriving DecidableEq, Repr

/-- The rm field of VCVT: the four modes and stochastic rounding (R204). -/
inductive VRm where | rne | rtz | rup | rdn | sr
  deriving DecidableEq, Repr

/-- The cond field of FCMP (R74). -/
inductive FCond where | eq | lt | le | un
  deriving DecidableEq, Repr

/-- The from and to codes of FCVT (R74). -/
inductive CvtTy where | f16 | bf16 | f32 | f64 | i64
  deriving DecidableEq, Repr

/-- The operation of VSCAN (R213). -/
inductive ScanOp where | add | max | min
  deriving DecidableEq, Repr

/-- The format pair of an X slot (R79). -/
inductive XFmt where | i8i8 | f16f16 | bf16bf16 | f16u4 | bf16u4 | i8u4 | slice | i8u8
  deriving DecidableEq, Repr

/-- A matrix source that the map assigns (R69). -/
inductive MSrc where
  | q (k : QReg)
  | tq (k : QReg)
  deriving DecidableEq, Repr

/-- The drain field of an X slot (R79). -/
inductive XDrain where | none | shift | clear
  deriving DecidableEq, Repr

/-- The scope of a fence (R251). -/
inductive FScope where | core | cluster | package | domain | system
  deriving DecidableEq, Repr

/-- The sources of a freeze (R36). -/
inductive FreezeSrc where
  | streamRead | streamWrite | globalAccess | tqRead | tqWrite | weir | stretch | snapshot | replay | preempt
  deriving DecidableEq, Repr

/-- One flit as a port's receiver sees it: the FEC block that held it was lost (R386), or its 256 bytes. -/
structure RxFlit where
  blockLost : Bool
  corrected : Nat
  bytes     : List Byte
  deriving DecidableEq, Repr

/-- A message of R389 whose operation is the constructor that carries it: header fields and data units. -/
structure Msg where
  cls  : BitVec 2
  dst  : BitVec 10
  src  : BitVec 10
  len  : BitVec 4
  a    : Word32
  b    : Word
  data : List (BitVec 128)
  deriving DecidableEq, Repr

/-- The rows of the opcode table. -/
inductive Instr where
  /-- NOP (R63): An all-zero slot, which has no effect and weight 0. -/
  | nop
  /-- HOLD (R64): A hold-only C slot, which makes its stream issue nothing of its own for n cycles. -/
  | hold (n : BitVec 4)
  /-- ADD_C (R142): C-slot 64-bit add of two scalar registers. -/
  | addC (h : CHdr) (d : XReg) (a : XReg) (b : XReg)
  /-- ADD_S (R142): S-slot 64-bit add of two scalar registers. -/
  | addS (g : PReg) (d : XReg) (a : XReg) (b : XReg)
  /-- SUB_C (R142): C-slot 64-bit subtract. -/
  | subC (h : CHdr) (d : XReg) (a : XReg) (b : XReg)
  /-- SUB_S (R142): S-slot 64-bit subtract. -/
  | subS (g : PReg) (d : XReg) (a : XReg) (b : XReg)
  /-- AND_C (R142): C-slot bitwise and. -/
  | andC (h : CHdr) (d : XReg) (a : XReg) (b : XReg)
  /-- AND_S (R142): S-slot bitwise and. -/
  | andS (g : PReg) (d : XReg) (a : XReg) (b : XReg)
  /-- OR_C (R142): C-slot bitwise or. -/
  | orC (h : CHdr) (d : XReg) (a : XReg) (b : XReg)
  /-- OR_S (R142): S-slot bitwise or. -/
  | orS (g : PReg) (d : XReg) (a : XReg) (b : XReg)
  /-- XOR_C (R142): C-slot bitwise xor. -/
  | xorC (h : CHdr) (d : XReg) (a : XReg) (b : XReg)
  /-- XOR_S (R142): S-slot bitwise xor. -/
  | xorS (g : PReg) (d : XReg) (a : XReg) (b : XReg)
  /-- ANDN_C (R142): C-slot and-not. -/
  | andnC (h : CHdr) (d : XReg) (a : XReg) (b : XReg)
  /-- ANDN_S (R142): S-slot and-not. -/
  | andnS (g : PReg) (d : XReg) (a : XReg) (b : XReg)
  /-- SHL_C (R142): C-slot shift left by the low 6 bits of xb. -/
  | shlC (h : CHdr) (d : XReg) (a : XReg) (b : XReg)
  /-- SHL_S (R142): S-slot shift left. -/
  | shlS (g : PReg) (d : XReg) (a : XReg) (b : XReg)
  /-- SHR_C (R142): C-slot logical shift right. -/
  | shrC (h : CHdr) (d : XReg) (a : XReg) (b : XReg)
  /-- SHR_S (R142): S-slot logical shift right. -/
  | shrS (g : PReg) (d : XReg) (a : XReg) (b : XReg)
  /-- SRA_C (R142): C-slot arithmetic shift right. -/
  | sraC (h : CHdr) (d : XReg) (a : XReg) (b : XReg)
  /-- SRA_S (R142): S-slot arithmetic shift right. -/
  | sraS (g : PReg) (d : XReg) (a : XReg) (b : XReg)
  /-- MIN (R142): C-slot signed minimum. -/
  | minC (h : CHdr) (d : XReg) (a : XReg) (b : XReg)
  /-- MAX (R142): C-slot signed maximum. -/
  | maxC (h : CHdr) (d : XReg) (a : XReg) (b : XReg)
  /-- MINU (R142): C-slot unsigned minimum. -/
  | minuC (h : CHdr) (d : XReg) (a : XReg) (b : XReg)
  /-- MAXU (R142): C-slot unsigned maximum. -/
  | maxuC (h : CHdr) (d : XReg) (a : XReg) (b : XReg)
  /-- ROL (R142): S-slot rotate left. -/
  | rol (g : PReg) (d : XReg) (a : XReg) (b : XReg)
  /-- CLZ (R142): S-slot count of leading zero bits. -/
  | clz (g : PReg) (d : XReg) (a : XReg)
  /-- CTZ (R142): S-slot count of trailing zero bits. -/
  | ctz (g : PReg) (d : XReg) (a : XReg)
  /-- POPC (R142): S-slot population count. -/
  | popc (g : PReg) (d : XReg) (a : XReg)
  /-- LI_C (R143): C-slot load of a sign-extended 12-bit immediate. -/
  | liC (h : CHdr) (d : XReg) (imm : BitVec 12)
  /-- LI_S (R143): S-slot load of a sign-extended 16-bit immediate. -/
  | liS (g : PReg) (d : XReg) (imm : BitVec 16)
  /-- ADDI_C (R143): C-slot add of a 12-bit immediate to xd. -/
  | addiC (h : CHdr) (d : XReg) (imm : BitVec 12)
  /-- ADDI_S (R143): S-slot add of a 16-bit immediate to xd. -/
  | addiS (g : PReg) (d : XReg) (imm : BitVec 16)
  /-- LIH_C (R143): C-slot shift of xd left by 12 bits with the immediate inserted. -/
  | lihC (h : CHdr) (d : XReg) (imm : BitVec 12)
  /-- LIH_S (R143): S-slot shift of xd left by 16 bits with the immediate inserted. -/
  | lihS (g : PReg) (d : XReg) (imm : BitVec 16)
  /-- MUL (R144): Low 64 bits of a product. -/
  | mul (g : PReg) (d : XReg) (a : XReg) (b : XReg)
  /-- MULH (R144): High 64 bits of a signed product. -/
  | mulh (g : PReg) (d : XReg) (a : XReg) (b : XReg)
  /-- MULHU (R144): High 64 bits of an unsigned product. -/
  | mulhu (g : PReg) (d : XReg) (a : XReg) (b : XReg)
  /-- DIV (R144): Signed division, with INT_DIVZERO for a zero divisor. -/
  | div (g : PReg) (d : XReg) (a : XReg) (b : XReg)
  /-- DIVU (R144): Unsigned division. -/
  | divu (g : PReg) (d : XReg) (a : XReg) (b : XReg)
  /-- REM (R144): Signed remainder. -/
  | rem (g : PReg) (d : XReg) (a : XReg) (b : XReg)
  /-- REMU (R144): Unsigned remainder. -/
  | remu (g : PReg) (d : XReg) (a : XReg) (b : XReg)
  /-- CMPEQ_C (R145): C-slot equality compare into a predicate pair. -/
  | cmpeqC (h : CHdr) (pd : PReg) (a : XReg) (b : XReg)
  /-- CMPEQ_S (R145): S-slot equality compare into a predicate pair. -/
  | cmpeqS (g : PReg) (pd : PReg) (a : XReg) (b : XReg)
  /-- CMPLT_C (R145): C-slot signed less-than compare. -/
  | cmpltC (h : CHdr) (pd : PReg) (a : XReg) (b : XReg)
  /-- CMPLT_S (R145): S-slot signed less-than compare. -/
  | cmpltS (g : PReg) (pd : PReg) (a : XReg) (b : XReg)
  /-- CMPLTU_C (R145): C-slot unsigned less-than compare. -/
  | cmpltuC (h : CHdr) (pd : PReg) (a : XReg) (b : XReg)
  /-- CMPLTU_S (R145): S-slot unsigned less-than compare. -/
  | cmpltuS (g : PReg) (pd : PReg) (a : XReg) (b : XReg)
  /-- CMPLE_C (R145): C-slot signed less-or-equal compare. -/
  | cmpleC (h : CHdr) (pd : PReg) (a : XReg) (b : XReg)
  /-- CMPLE_S (R145): S-slot signed less-or-equal compare. -/
  | cmpleS (g : PReg) (pd : PReg) (a : XReg) (b : XReg)
  /-- CMPLEU_C (R145): C-slot unsigned less-or-equal compare. -/
  | cmpleuC (h : CHdr) (pd : PReg) (a : XReg) (b : XReg)
  /-- CMPLEU_S (R145): S-slot unsigned less-or-equal compare. -/
  | cmpleuS (g : PReg) (pd : PReg) (a : XReg) (b : XReg)
  /-- CMPEQI (R145): Compare a register with a signed 8-bit immediate for equality. -/
  | cmpeqi (h : CHdr) (pd : PReg) (a : XReg) (imm : BitVec 8)
  /-- CMPLTI (R145): Signed less-than compare against an 8-bit immediate. -/
  | cmplti (h : CHdr) (pd : PReg) (a : XReg) (imm : BitVec 8)
  /-- PAND (R146): Predicate and. -/
  | pand (h : CHdr) (pd : PReg) (pa : PReg) (pb : PReg)
  /-- POR (R146): Predicate or. -/
  | por (h : CHdr) (pd : PReg) (pa : PReg) (pb : PReg)
  /-- PXOR (R146): Predicate xor. -/
  | pxor (h : CHdr) (pd : PReg) (pa : PReg) (pb : PReg)
  /-- PANDN (R146): Predicate and-not. -/
  | pandn (h : CHdr) (pd : PReg) (pa : PReg) (pb : PReg)
  /-- SEL (R146): Scalar select by a predicate. -/
  | sel (g : PReg) (d : XReg) (a : XReg) (b : XReg) (pc : PReg)
  /-- MOVP (R146): Copy of a predicate into a scalar register. -/
  | movp (g : PReg) (d : XReg) (pa : PReg)
  /-- PMOV (R146): Copy of a scalar's bit 0 into a predicate. -/
  | pmov (g : PReg) (pd : PReg) (a : XReg)
  /-- FADD (R147): Scalar floating add with one rounding. -/
  | fadd (g : PReg) (f : FFmt) (rm : Rm) (d : XReg) (a : XReg) (b : XReg)
  /-- FSUB (R147): Scalar floating subtract. -/
  | fsub (g : PReg) (f : FFmt) (rm : Rm) (d : XReg) (a : XReg) (b : XReg)
  /-- FMUL (R147): Scalar floating multiply. -/
  | fmul (g : PReg) (f : FFmt) (rm : Rm) (d : XReg) (a : XReg) (b : XReg)
  /-- FFMA (R147): Scalar fused multiply-add into xd. -/
  | ffma (g : PReg) (f : FFmt) (rm : Rm) (d : XReg) (a : XReg) (b : XReg)
  /-- FCMP (R147): Scalar floating compare into a predicate pair. -/
  | fcmp (g : PReg) (f : FFmt) (c : FCond) (pd : PReg) (a : XReg) (b : XReg)
  /-- FCVT (R147): Scalar conversion between floating formats and i64. -/
  | fcvt (g : PReg) (fr : CvtTy) (ty : CvtTy) (rm : Rm) (d : XReg) (a : XReg)
  /-- XV (R148): Read of one vector lane into a scalar register. -/
  | xv (g : PReg) (t : VType) (lane : BitVec 7) (d : XReg) (va : VSel)
  /-- VX (R148): Write of one vector lane from a scalar register. -/
  | vx (g : PReg) (t : VType) (lane : BitVec 7) (vd : VSel) (a : XReg)
  /-- PBR (R149): Preparation of a target register from a PC-relative offset. -/
  | pbr (h : CHdr) (t : TReg) (off : BitVec 15)
  /-- PBRX (R149): Preparation of a target register from a scalar register. -/
  | pbrx (h : CHdr) (t : TReg) (a : XReg)
  /-- BR (R149): Branch through a target register. -/
  | br (h : CHdr) (t : TReg)
  /-- CALL (R149): Branch through a target register, pushing the return address. -/
  | call (h : CHdr) (t : TReg)
  /-- RET (R149): Return to the address popped from the return-address store. -/
  | ret (h : CHdr)
  /-- LOOP (R151): Start of a software-pipelined loop, setting LC, EC, RBASE and the stage predicates. -/
  | loop (h : CHdr) (a : XReg) (ec : BitVec 6)
  /-- BRL (R152): End of a loop iteration: rotation, count update and conditional branch. -/
  | brl (h : CHdr) (t : TReg)
  /-- SEGB (R156): Commit of the current segment and opening of a new one with a snapshot. -/
  | segb (h : CHdr)
  /-- PHEND (R157): End of the primary stream's phase body or start code. -/
  | phend (h : CHdr)
  /-- TEND (R158): End of a tile task, going on to the next tile or the launch's continuation. -/
  | tend (h : CHdr)
  /-- REALIGN (R159): Request to align CYC and the links across the job's packages. -/
  | realign (h : CHdr)
  /-- TRAP (R160): Raises TRAP_INSN with a code. -/
  | trap (h : CHdr) (code : BitVec 12)
  /-- RDC (R161): Read of a control register into a scalar register. -/
  | rdc (h : CHdr) (d : XReg) (n : BitVec 12)
  /-- WRC (R161): Write of a control register from a scalar register. -/
  | wrc (h : CHdr) (a : XReg) (n : BitVec 12)
  /-- IFENCE (R162): Discard of fetched bundles and fresh fetch. -/
  | ifence (h : CHdr)
  /-- UIRET (R165): Return from a user-level interrupt handler to UIEPC. -/
  | uiret (h : CHdr)
  /-- WAITI (R166): Companion wait until an interrupt record is delivered. -/
  | waiti (h : CHdr)
  /-- VADD_V0 (R195): Element-wise add in stage V0. -/
  | vaddV0 (h : VHdr) (d : VSel) (a : VSel) (b : VSel)
  /-- VADD_V1 (R195): Element-wise add in stage V1. -/
  | vaddV1 (h : VHdr) (d : VSel) (a : VSel) (b : VSel)
  /-- VADD_V2 (R195): Element-wise add in stage V2. -/
  | vaddV2 (h : VHdr) (d : VSel) (a : VSel) (b : VSel)
  /-- VSUB_V0 (R195): Element-wise subtract in V0. -/
  | vsubV0 (h : VHdr) (d : VSel) (a : VSel) (b : VSel)
  /-- VSUB_V1 (R195): Element-wise subtract in V1. -/
  | vsubV1 (h : VHdr) (d : VSel) (a : VSel) (b : VSel)
  /-- VSUB_V2 (R195): Element-wise subtract in V2. -/
  | vsubV2 (h : VHdr) (d : VSel) (a : VSel) (b : VSel)
  /-- VMUL_V0 (R195): Element-wise multiply in V0. -/
  | vmulV0 (h : VHdr) (d : VSel) (a : VSel) (b : VSel)
  /-- VMUL_V1 (R195): Element-wise multiply in V1. -/
  | vmulV1 (h : VHdr) (d : VSel) (a : VSel) (b : VSel)
  /-- VMUL_V2 (R195): Element-wise multiply in V2. -/
  | vmulV2 (h : VHdr) (d : VSel) (a : VSel) (b : VSel)
  /-- VFMA_V0 (R196): Fused a times b plus d in V0. -/
  | vfmaV0 (h : VHdr) (d : VSel) (a : VSel) (b : VSel)
  /-- VFMA_V1 (R196): Fused multiply-add in V1. -/
  | vfmaV1 (h : VHdr) (d : VSel) (a : VSel) (b : VSel)
  /-- VFMA_V2 (R196): Fused multiply-add in V2. -/
  | vfmaV2 (h : VHdr) (d : VSel) (a : VSel) (b : VSel)
  /-- VFMS_V0 (R196): Fused a times b minus d in V0. -/
  | vfmsV0 (h : VHdr) (d : VSel) (a : VSel) (b : VSel)
  /-- VFMS_V1 (R196): Fused multiply-subtract in V1. -/
  | vfmsV1 (h : VHdr) (d : VSel) (a : VSel) (b : VSel)
  /-- VMIN_V0 (R197): Element-wise minimum in V0. -/
  | vminV0 (h : VHdr) (d : VSel) (a : VSel) (b : VSel)
  /-- VMIN_V1 (R197): Element-wise minimum in V1. -/
  | vminV1 (h : VHdr) (d : VSel) (a : VSel) (b : VSel)
  /-- VMIN_V2 (R197): Element-wise minimum in V2. -/
  | vminV2 (h : VHdr) (d : VSel) (a : VSel) (b : VSel)
  /-- VMAX_V0 (R197): Element-wise maximum in V0. -/
  | vmaxV0 (h : VHdr) (d : VSel) (a : VSel) (b : VSel)
  /-- VMAX_V1 (R197): Element-wise maximum in V1. -/
  | vmaxV1 (h : VHdr) (d : VSel) (a : VSel) (b : VSel)
  /-- VMAX_V2 (R197): Element-wise maximum in V2. -/
  | vmaxV2 (h : VHdr) (d : VSel) (a : VSel) (b : VSel)
  /-- VMINU_V0 (R197): Unsigned minimum in V0. -/
  | vminuV0 (h : VHdr) (d : VSel) (a : VSel) (b : VSel)
  /-- VMINU_V1 (R197): Unsigned minimum in V1. -/
  | vminuV1 (h : VHdr) (d : VSel) (a : VSel) (b : VSel)
  /-- VMAXU_V0 (R197): Unsigned maximum in V0. -/
  | vmaxuV0 (h : VHdr) (d : VSel) (a : VSel) (b : VSel)
  /-- VMAXU_V1 (R197): Unsigned maximum in V1. -/
  | vmaxuV1 (h : VHdr) (d : VSel) (a : VSel) (b : VSel)
  /-- VAND_V0 (R198): Bitwise and in V0. -/
  | vandV0 (h : VHdr) (d : VSel) (a : VSel) (b : VSel)
  /-- VAND_V1 (R198): Bitwise and in V1. -/
  | vandV1 (h : VHdr) (d : VSel) (a : VSel) (b : VSel)
  /-- VOR_V0 (R198): Bitwise or in V0. -/
  | vorV0 (h : VHdr) (d : VSel) (a : VSel) (b : VSel)
  /-- VOR_V1 (R198): Bitwise or in V1. -/
  | vorV1 (h : VHdr) (d : VSel) (a : VSel) (b : VSel)
  /-- VXOR_V0 (R198): Bitwise xor in V0. -/
  | vxorV0 (h : VHdr) (d : VSel) (a : VSel) (b : VSel)
  /-- VXOR_V1 (R198): Bitwise xor in V1. -/
  | vxorV1 (h : VHdr) (d : VSel) (a : VSel) (b : VSel)
  /-- VANDN (R198): Bitwise and-not in V0. -/
  | vandn (h : VHdr) (d : VSel) (a : VSel) (b : VSel)
  /-- VSHL (R199): Per-lane shift left in V0. -/
  | vshl (h : VHdr) (d : VSel) (a : VSel) (b : VSel)
  /-- VSHR (R199): Per-lane logical shift right in V0. -/
  | vshr (h : VHdr) (d : VSel) (a : VSel) (b : VSel)
  /-- VSRA (R199): Per-lane arithmetic shift right in V0. -/
  | vsra (h : VHdr) (d : VSel) (a : VSel) (b : VSel)
  /-- VABS_V0 (R200): Absolute value in V0. -/
  | vabsV0 (h : VHdr) (d : VSel) (a : VSel)
  /-- VABS_V1 (R200): Absolute value in V1. -/
  | vabsV1 (h : VHdr) (d : VSel) (a : VSel)
  /-- VNEG_V0 (R200): Negation in V0. -/
  | vnegV0 (h : VHdr) (d : VSel) (a : VSel)
  /-- VNEG_V1 (R200): Negation in V1. -/
  | vnegV1 (h : VHdr) (d : VSel) (a : VSel)
  /-- VMOV_V0 (R200): Vector move in V0. -/
  | vmovV0 (h : VHdr) (d : VSel) (a : VSel)
  /-- VMOV_V1 (R200): Vector move in V1. -/
  | vmovV1 (h : VHdr) (d : VSel) (a : VSel)
  /-- VMOV_V2 (R200): Vector move in V2. -/
  | vmovV2 (h : VHdr) (d : VSel) (a : VSel)
  /-- VCMPEQ_V0 (R201): Equality compare into a mask pair in V0. -/
  | vcmpeqV0 (h : VHdr) (md : MReg) (a : VSel) (b : VSel)
  /-- VCMPEQ_V1 (R201): Equality compare in V1. -/
  | vcmpeqV1 (h : VHdr) (md : MReg) (a : VSel) (b : VSel)
  /-- VCMPEQ_V2 (R201): Equality compare in V2. -/
  | vcmpeqV2 (h : VHdr) (md : MReg) (a : VSel) (b : VSel)
  /-- VCMPLT_V0 (R201): Less-than compare in V0. -/
  | vcmpltV0 (h : VHdr) (md : MReg) (a : VSel) (b : VSel)
  /-- VCMPLT_V1 (R201): Less-than compare in V1. -/
  | vcmpltV1 (h : VHdr) (md : MReg) (a : VSel) (b : VSel)
  /-- VCMPLT_V2 (R201): Less-than compare in V2. -/
  | vcmpltV2 (h : VHdr) (md : MReg) (a : VSel) (b : VSel)
  /-- VCMPLE_V0 (R201): Less-or-equal compare in V0. -/
  | vcmpleV0 (h : VHdr) (md : MReg) (a : VSel) (b : VSel)
  /-- VCMPLE_V1 (R201): Less-or-equal compare in V1. -/
  | vcmpleV1 (h : VHdr) (md : MReg) (a : VSel) (b : VSel)
  /-- VSEL_V0 (R202): Select by the destination's lanes in V0. -/
  | vselV0 (h : VHdr) (d : VSel) (a : VSel) (b : VSel)
  /-- VSEL_V1 (R202): Select in V1. -/
  | vselV1 (h : VHdr) (d : VSel) (a : VSel) (b : VSel)
  /-- VSEL_V2 (R202): Select in V2. -/
  | vselV2 (h : VHdr) (d : VSel) (a : VSel) (b : VSel)
  /-- VCLAMP (R203): Clamp between the destination and vb in V1. -/
  | vclamp (h : VHdr) (d : VSel) (a : VSel) (b : VSel)
  /-- VCVT_V0 (R204): Lane type conversion in V0. -/
  | vcvtV0 (h : VHdr) (d : VSel) (a : VSel) (rm : VRm) (fr : VType)
  /-- VCVT_V1 (R204): Lane type conversion in V1. -/
  | vcvtV1 (h : VHdr) (d : VSel) (a : VSel) (rm : VRm) (fr : VType)
  /-- VCVT_V2 (R204): Lane type conversion in V2. -/
  | vcvtV2 (h : VHdr) (d : VSel) (a : VSel) (rm : VRm) (fr : VType)
  /-- VRND (R205): Rounding of floating lanes to integral values in V1. -/
  | vrnd (h : VHdr) (d : VSel) (a : VSel) (rm : Rm)
  /-- VLDEXP (R206): Scaling by a power of two in V2. -/
  | vldexp (h : VHdr) (d : VSel) (a : VSel) (b : VSel)
  /-- VEXPO (R207): Per-lane exponent extraction in V0. -/
  | vexpo (h : VHdr) (d : VSel) (a : VSel)
  /-- VMAXEXP (R208): Largest exponent over the lanes, broadcast, in V1. -/
  | vmaxexp (h : VHdr) (d : VSel) (a : VSel)
  /-- VSHUF (R209): Lane gather by indices in V0. -/
  | vshuf (h : VHdr) (d : VSel) (a : VSel) (b : VSel)
  /-- VROTL (R209): Lane rotation in V0. -/
  | vrotl (h : VHdr) (d : VSel) (a : VSel) (k : BitVec 6)
  /-- VBCL (R209): Broadcast of one lane in V0. -/
  | vbcl (h : VHdr) (d : VSel) (a : VSel) (k : BitVec 6)
  /-- VPACK (R210): Saturating narrowing of two registers into one in V0. -/
  | vpack (h : VHdr) (d : VSel) (a : VSel) (b : VSel)
  /-- VUNPK (R211): Widening of half a register in V0. -/
  | vunpk (h : VHdr) (d : VSel) (a : VSel) (hi : Bool) (zx : Bool)
  /-- VRADD_V1 (R212): Tree sum reduction in V1. -/
  | vraddV1 (h : VHdr) (d : VSel) (a : VSel)
  /-- VRADD_V2 (R212): Tree sum reduction in V2. -/
  | vraddV2 (h : VHdr) (d : VSel) (a : VSel)
  /-- VRMAX_V1 (R212): Maximum reduction in V1. -/
  | vrmaxV1 (h : VHdr) (d : VSel) (a : VSel)
  /-- VRMAX_V2 (R212): Maximum reduction in V2. -/
  | vrmaxV2 (h : VHdr) (d : VSel) (a : VSel)
  /-- VRMIN (R212): Minimum reduction in V1. -/
  | vrmin (h : VHdr) (d : VSel) (a : VSel)
  /-- VSCAN (R213): Inclusive prefix scan in V1. -/
  | vscan (h : VHdr) (d : VSel) (a : VSel) (op : ScanOp)
  /-- VEXP2 (R214): Correctly rounded 2^x in V2. -/
  | vexp2 (h : VHdr) (d : VSel) (a : VSel)
  /-- VLOG2 (R214): Correctly rounded log2 x in V2. -/
  | vlog2 (h : VHdr) (d : VSel) (a : VSel)
  /-- VRCP (R214): Reciprocal in V2. -/
  | vrcp (h : VHdr) (d : VSel) (a : VSel)
  /-- VRSQ (R214): Reciprocal square root in V2. -/
  | vrsq (h : VHdr) (d : VSel) (a : VSel)
  /-- VSQRT (R214): Square root in V2. -/
  | vsqrt (h : VHdr) (d : VSel) (a : VSel)
  /-- VTANH (R214): Hyperbolic tangent in V2. -/
  | vtanh (h : VHdr) (d : VSel) (a : VSel)
  /-- VSIGM (R214): Logistic sigmoid in V2. -/
  | vsigm (h : VHdr) (d : VSel) (a : VSel)
  /-- VSIN (R214): Sine of pi times x in V2. -/
  | vsin (h : VHdr) (d : VSel) (a : VSel)
  /-- VCOS (R214): Cosine of pi times x in V2. -/
  | vcos (h : VHdr) (d : VSel) (a : VSel)
  /-- VERF (R214): Error function in V2. -/
  | verf (h : VHdr) (d : VSel) (a : VSel)
  /-- XACC (R279): Matrix beat that accumulates an outer product into a bank, with an optional drain of the other. -/
  | xacc (g : PReg) (bank : Bool) (f : XFmt) (a : MSrc) (b : MSrc) (si : BitVec 3) (sj : BitVec 3) (dr : XDrain) (db : Bool)
  /-- XACCZ (R279): Matrix beat that clears the bank and then accumulates. -/
  | xaccz (g : PReg) (bank : Bool) (f : XFmt) (a : MSrc) (b : MSrc) (si : BitVec 3) (sj : BitVec 3) (dr : XDrain) (db : Bool)
  /-- XZERO (R279): Clear of an accumulator bank, with an optional drain. -/
  | xzero (g : PReg) (bank : Bool) (dr : XDrain) (db : Bool)
  /-- XDRN (R283): Drain of one edge row of a bank: decode, round and write to the destination. -/
  | xdrn (g : PReg) (dr : XDrain) (db : Bool)
  /-- LD (R228): Load of one scratchpad row into a vector register. -/
  | ld (g : PReg) (v : VSel) (a : XReg) (off : BitVec 10)
  /-- ST (R228): Store of a vector register to a scratchpad row. -/
  | st (g : PReg) (v : VSel) (a : XReg) (off : BitVec 10)
  /-- STM (R228): Store of the bytes that m7 enables. -/
  | stm (g : PReg) (v : VSel) (a : XReg) (off : BitVec 10)
  /-- LDT (R228): Load with an 8 by 8 transpose of 16-bit elements. -/
  | ldt (g : PReg) (v : VSel) (a : XReg) (off : BitVec 10)
  /-- LDB (R228): Load that broadcasts one 16-byte part of a row. -/
  | ldb (g : PReg) (v : VSel) (a : XReg) (off : BitVec 10)
  /-- LDX (R228): Indexed row load. -/
  | ldx (g : PReg) (v : VSel) (a : XReg) (b : XReg)
  /-- STX (R228): Indexed row store. -/
  | stx (g : PReg) (v : VSel) (a : XReg) (b : XReg)
  /-- RMRG (R229): Byte-shift merge of two registers. -/
  | rmrg (g : PReg) (vd : VSel) (va : VSel) (a : XReg)
  /-- GLD (R245): Untimed load of a global row; the register stays pending until the reply lands. -/
  | gld (g : PReg) (v : VSel) (a : XReg) (off : BitVec 10)
  /-- GST (R245): Untimed store of a row to its home write queue. -/
  | gst (g : PReg) (v : VSel) (a : XReg) (off : BitVec 10)
  /-- AOP_ADD (R248): Atomic add at the home write queue. -/
  | aopAdd (g : PReg) (d : XReg) (a : XReg) (b : XReg)
  /-- AOP_FADD32 (R248): Atomic FP32 add. -/
  | aopFadd32 (g : PReg) (d : XReg) (a : XReg) (b : XReg)
  /-- AOP_MIN (R248): Atomic signed minimum. -/
  | aopMin (g : PReg) (d : XReg) (a : XReg) (b : XReg)
  /-- AOP_MAX (R248): Atomic signed maximum. -/
  | aopMax (g : PReg) (d : XReg) (a : XReg) (b : XReg)
  /-- AOP_MINU (R248): Atomic unsigned minimum. -/
  | aopMinu (g : PReg) (d : XReg) (a : XReg) (b : XReg)
  /-- AOP_MAXU (R248): Atomic unsigned maximum. -/
  | aopMaxu (g : PReg) (d : XReg) (a : XReg) (b : XReg)
  /-- AOP_AND (R248): Atomic and. -/
  | aopAnd (g : PReg) (d : XReg) (a : XReg) (b : XReg)
  /-- AOP_OR (R248): Atomic or. -/
  | aopOr (g : PReg) (d : XReg) (a : XReg) (b : XReg)
  /-- AOP_XOR (R248): Atomic xor. -/
  | aopXor (g : PReg) (d : XReg) (a : XReg) (b : XReg)
  /-- AOP_XCHG (R248): Atomic exchange. -/
  | aopXchg (g : PReg) (d : XReg) (a : XReg) (b : XReg)
  /-- AOP_CAS (R248): Atomic compare-and-swap. -/
  | aopCas (g : PReg) (d : XReg) (a : XReg) (b : XReg)
  /-- RWL_RDACQ (R249): Try to take a read lock on a lock word. -/
  | rwlRdacq (g : PReg) (d : XReg) (a : XReg) (pd : PReg)
  /-- RWL_RDREL (R249): Release of a read lock. -/
  | rwlRdrel (g : PReg) (d : XReg) (a : XReg) (pd : PReg)
  /-- RWL_WRACQ (R249): Try to take the write lock, counting a waiting writer. -/
  | rwlWracq (g : PReg) (d : XReg) (a : XReg) (pd : PReg)
  /-- RWL_WRREL (R249): Release of the write lock. -/
  | rwlWrrel (g : PReg) (d : XReg) (a : XReg) (pd : PReg)
  /-- RWL_SETPREF (R249): Setting of the writer preference bit. -/
  | rwlSetpref (g : PReg) (d : XReg) (a : XReg) (pd : PReg)
  /-- FENCE_ACQ (R251): Acquire fence over a scope. -/
  | fenceAcq (g : PReg) (sc : FScope)
  /-- FENCE_REL (R251): Release fence over a scope. -/
  | fenceRel (g : PReg) (sc : FScope)
  /-- FENCE_FULL (R251): Full fence over a scope. -/
  | fenceFull (g : PReg) (sc : FScope)
  /-- SBIND (R240): Binding of a stream register from a descriptor read at c+1. -/
  | sbind (g : PReg) (q : QReg) (a : XReg)
  /-- SFREE (R241): Unbinding of a stream register. -/
  | sfree (g : PReg) (q : QReg)
  /-- SADV (R242): Consumption or skipping of n stream positions. -/
  | sadv (g : PReg) (q : QReg) (n : BitVec 8)
  /-- GLS (R273): Decode of one group's scale codes into a g register. -/
  | gls (g : PReg) (gd : GReg) (first : Bool) (va : VSel) (vb : VSel)
  /-- ZLD (R272): Load of zero points into a g register. -/
  | zld (g : PReg) (gd : GReg) (va : VSel)
  /-- ELD (R272): Load of exponents into a g register. -/
  | eld (g : PReg) (gd : GReg) (va : VSel) (vb : VSel)
  /-- XCFG (R271): Write of a bank configuration word. -/
  | xcfg (g : PReg) (bank : Bool) (a : XReg)
  /-- XMASK_ROW (R274): Write of one mask-block row. -/
  | xmaskRow (g : PReg) (ma : MReg) (a : XReg)
  /-- XMASK_FILL (R274): Fill of the mask block with ones and setting of MVALID. -/
  | xmaskFill (g : PReg)
  /-- XMASK_INV (R274): Invalidation of the mask block. -/
  | xmaskInv (g : PReg)
  /-- BTAKE (R226): Take of a buffer in transit to this core. -/
  | btake (g : PReg) (a : XReg)
  /-- BGIVE (R226): Give of an owned buffer to a core of the cluster. -/
  | bgive (g : PReg) (a : XReg) (b : XReg)
  /-- BPUB (R226): Publication of an owned buffer read-only to the cluster. -/
  | bpub (g : PReg) (a : XReg)
  /-- BRET (R226): Retraction of a published buffer. -/
  | bret (g : PReg) (a : XReg)
  /-- JSUB (R318): Submission of a job card to the cluster's transfer scheduler. -/
  | jsub (g : PReg) (d : XReg) (a : XReg)
  /-- JCAN (R319): Cancel of a job that has not started. -/
  | jcan (g : PReg) (a : XReg)
  /-- BARM_SET (R322): Arming of a named barrier with a count. -/
  | barmSet (g : PReg) (bar : BitVec 7) (a : XReg) (ui : Bool)
  /-- BARM_ADD (R322): Addition to a named barrier's count. -/
  | barmAdd (g : PReg) (bar : BitVec 7) (a : XReg) (ui : Bool)
  /-- BARQ (R322): Read of a barrier's state word. -/
  | barq (g : PReg) (d : XReg) (bar : BitVec 7)
  /-- UIEN (R327): Setting of the user-interrupt source enables. -/
  | uien (g : PReg) (a : XReg)
  /-- TQBIND (R410): Binding of a tile-queue endpoint from a binding word. -/
  | tqbind (g : PReg) (a : XReg)
  /-- TQFL (R410): Flush and unbinding of a tile-queue endpoint. -/
  | tqfl (g : PReg) (q : QReg)
  /-- NMSUB (R349): Submission of a near-memory command, returning a ticket. -/
  | nmsub (g : PReg) (d : XReg) (a : XReg)
  /-- NMFN (R352): Finish of near-memory commands up to a ticket, returning the status. -/
  | nmfn (g : PReg) (d : XReg) (a : XReg)
  /-- PHSEL (R364): Selection of the next phase's bank by a predicate. -/
  | phsel (g : PReg) (pk : PReg)
  /-- PHLD (R363): Start of a load of entries into a phase-table bank. -/
  | phld (g : PReg) (bank : Bool) (a : XReg) (n1 : BitVec 9)
  /-- LNCH (R371): Run of this core's slice of a launch. -/
  | lnch (g : PReg) (d : XReg) (a : XReg)
  /-- CANC_LAUNCH (R375): Cancel of a launch. -/
  | cancLaunch (g : PReg) (a : XReg)
  /-- CANC_GRAPH (R375): Cancel of a phase's graph. -/
  | cancGraph (g : PReg) (a : XReg)
  /-- CANC_PHASE (R375): Skip of a phase that has not started. -/
  | cancPhase (g : PReg) (a : XReg)
  /-- CANC_JOB (R375): Cancel of the job. -/
  | cancJob (g : PReg) (a : XReg)
  /-- SMPSUB (R421): Submission of a sampler request card, returning ITER. -/
  | smpsub (g : PReg) (d : XReg) (a : XReg)
  /-- SEEDQ (R445): Request for a fresh seed in the seed log. -/
  | seedq (g : PReg) (d : XReg)
  /-- UNTIMED_RESULT_LAND (R67): Landing of an untimed result (GLD, AOP, RWL, NMFN, SEEDQ) that clears its pending mark. -/
  | untimedResultLand (id : Nat)
  /-- HOME_ACCESS (R250): Performance of an access at its sector's home write queue in coherence order. -/
  | homeAccess (id : Nat)
  /-- WRITE_ACK (R246): Arrival of a home's acknowledgement of a write. -/
  | writeAck (id : Nat)
  /-- LOCAL_STREAM_FILL (R233): Fill of a local read stream's staging at its fill instant. -/
  | localStreamFill (k : CoreId) (q : QReg)
  /-- STREAM_REQUEST (R234): Request of a ring-kind stream position at d(p) minus LEAD. -/
  | streamRequest (k : CoreId) (q : QReg)
  /-- RING_LANDING (R234): Landing of a peer or global reply in a landing-ring row. -/
  | ringLanding (id : Nat)
  /-- RING_STAGE_FILL (R234): Fill of staging from the ring row at d(p) minus 8. -/
  | ringStageFill (k : CoreId) (q : QReg)
  /-- TRANSPOSER_READ (R236): Read of a transposed group's source rows, four per instant. -/
  | transposerRead (k : CoreId)
  /-- PEER_READ_SERVE (R235): Read of a row by the home core's peer port, unicast or multicast. -/
  | peerReadServe (k : CoreId)
  /-- FREEZE_ANNOUNCE (R37): Test at instant c minus H of a detection point, announcing a freeze to the group. -/
  | freezeAnnounce (k : CoreId) (src : FreezeSrc) (inst : Nat)
  /-- FREEZE_TAKE_EFFECT (R37): Stop of every group member at the announced instant. -/
  | freezeTakeEffect (k : CoreId)
  /-- FREEZE_RESUME (R38): Resumption of the group H cycles after the last condition clears. -/
  | freezeResume (k : CoreId)
  /-- FREEZE_TIMEOUT (R41): Stop of the group when a freeze run reaches FRZMAX. -/
  | freezeTimeout (k : CoreId)
  /-- GROUP_STOP (R43): Stop of the other group members at f plus H after a fault. -/
  | groupStop (k : CoreId)
  /-- BODY_LENGTH_EXCEEDED (R45): PHASE_TABLE when a core reaches instant 65,536 of its body without PHEND. -/
  | bodyLengthExceeded (k : CoreId)
  /-- WEIR_FREEZE_REQUEST (R485): Weir window test at a timetable instant, inserting one frozen cycle before instant t plus H when it fails. -/
  | weirFreezeRequest (k : CoreId)
  /-- CLOCK_STRETCH (R476): Lengthening of a region's cycle on low monitor margin. -/
  | clockStretch (r : RegionId)
  /-- STRETCH_FREEZE (R478): Freeze request for a region's cores when a stretch is not allowed. -/
  | stretchFreeze (r : RegionId)
  /-- CRITICAL_MARGIN (R478): Stop with MACHINE of every group in a region at critical margin. -/
  | criticalMargin (r : RegionId)
  /-- OPCTL_GO_SYNC (R480): Arming of a synchronised operating-point change at OPAT. -/
  | opctlGoSync
  /-- OPCTL_GO_RUNNING (R482): Start of a running frequency change. -/
  | opctlGoRunning
  /-- OP_SWITCH (R480): Stop of all clocks for 1 us and restart at the new period at cycle OPAT. -/
  | opSwitch
  /-- RUNNING_RAMP_STEP (R482): Step of the clock period toward the target every 256 cycles. -/
  | runningRampStep
  /-- POWER_LOOP (R486): Health controller's power and thermal loop every 100 us. -/
  | powerLoop (watts : Nat) (temp : Nat)
  /-- PF_WINDOW_END (R488): End of a measurement window: undervolt withdrawal or predictive failure. -/
  | pfWindowEnd
  /-- TRAPACT_CONTINUE (R170): Firmware's CONTINUE to a trapped stream. -/
  | trapactContinue (k : CoreId) (comp : Bool)
  /-- TRAPACT_ABORT (R170): Firmware's ABORT of a trapped stream's job. -/
  | trapactAbort (k : CoreId) (comp : Bool)
  /-- GROUP_RESUME (R170): Issue of a stopped group H cycles after its last CONTINUE. -/
  | groupResume (k : CoreId)
  /-- UI_DELIVER (R163): Delivery of an interrupt record to the companion at a bundle boundary. -/
  | uiDeliver (k : CoreId)
  /-- SLOT_START (R378): Start of a slot-table slot, switching contexts. -/
  | slotStart
  /-- PREEMPT_STOP (R173): Stop of a group at its next instant H cycles after the pre-emption request. -/
  | preemptStop (k : CoreId)
  /-- PREEMPT_SAVE (R175): Writing of each member's pre-emption record once untimed companion results land. -/
  | preemptSave (k : CoreId)
  /-- PREEMPT_RESUME (R178): Restore and first issue of a group from its records. -/
  | preemptResume (k : CoreId)
  /-- PHLD_LOAD_DONE (R363): Completion or failure of a phase-table bank load. -/
  | phldLoadDone (bank : Bool)
  /-- PHASE_LATCH (R365): Latch of the selected phase into the agents once its bank is loaded. -/
  | phaseLatch
  /-- PAGE_REQUEST_ANSWER (R361): Firmware's answer to a pre-translation page request. -/
  | pageRequestAnswer (va : Nat)
  /-- REFRESH_DEBT_REPAID (R46): Arrival of the refresh slack task. -/
  | refreshDebtRepaid
  /-- SLUICE_LAST_ARRIVAL (R47): Last arrival at a boundary, fixing L and announcing start instants. -/
  | sluiceLastArrival
  /-- SLACK_OVERRUN (R47): Hold of the boundary when F plus SLACKMAX passes. -/
  | slackOverrun
  /-- PHASE_START (R368): Issue of core k's entry bundle at L plus Dk. -/
  | phaseStart (k : CoreId)
  /-- SEQCTL_GO (R369): Firmware's start of a held phase. -/
  | seqctlGo
  /-- SEQCTL_ABORT (R369): Firmware's end of a held job. -/
  | seqctlAbort
  /-- PARTITION_PERIOD (R382): Millisecond update of the prompt and decode split. -/
  | partitionPeriod
  /-- JCOPY (R312): Copy job in its parallel, broadcast or concatenate shape. -/
  | jcopy (cl : ClusterId) (serial : Word32)
  /-- JCOPYT (R313): Copy job with transposition. -/
  | jcopyt (cl : ClusterId) (serial : Word32)
  /-- JGATHER (R314): Indexed gather job. -/
  | jgather (cl : ClusterId) (serial : Word32)
  /-- JSCATTER (R314): Indexed scatter job. -/
  | jscatter (cl : ClusterId) (serial : Word32)
  /-- JRED (R315): Fixed-order reduction of replicas. -/
  | jred (cl : ClusterId) (serial : Word32)
  /-- JSNAP (R316): Snapshot job that marks source blocks. -/
  | jsnap (cl : ClusterId) (serial : Word32)
  /-- JOB_COMPLETE (R308): Completion of a job once every write is acknowledged. -/
  | jobComplete (cl : ClusterId) (serial : Word32)
  /-- SNAPSHOT_BLOCK_COPY (R332): Copy of one marked block at its home, releasing writes held on it. -/
  | snapshotBlockCopy (stack : StackId)
  /-- NADD (R341): Near-memory element-wise add. -/
  | nadd (u : UnitId)
  /-- NAXPY (R341): Near-memory a·x plus d. -/
  | naxpy (u : UnitId)
  /-- NSCAL (R341): Near-memory scaling. -/
  | nscal (u : UnitId)
  /-- NSGDW (R341): Near-memory SGD with weight decay. -/
  | nsgdw (u : UnitId)
  /-- NADAMW (R342): Near-memory AdamW step using a parameter block. -/
  | nadamw (u : UnitId)
  /-- NFILL (R341): Near-memory fill with a pattern. -/
  | nfill (u : UnitId)
  /-- NRED (R344): Near-memory exact reduction into one element. -/
  | nred (u : UnitId)
  /-- NCOPY (R341): Near-memory copy. -/
  | ncopy (u : UnitId)
  /-- NCVT (R343): Near-memory conversion or slicing. -/
  | ncvt (u : UnitId)
  /-- NCHK (R345): Near-memory CRC-64 and poison count. -/
  | nchk (u : UnitId)
  /-- NM_STEP (R339): One row step of a near-memory command: reads, compute, row write. -/
  | nmStep (u : UnitId)
  /-- NM_COMMAND_COMPLETE (R350): Completion of a near-memory command, updating NMSTAT on a fault. -/
  | nmCommandComplete (u : UnitId)
  /-- SAMPLER_FETCH (R423): Start of a sampler request's fetch of descriptors, tables and programs. -/
  | samplerFetch (cl : ClusterId)
  /-- SAMPLER_EXECUTE (R439): Fixed-length execute stage running the walks of the members. -/
  | samplerExecute (cl : ClusterId)
  /-- SAMPLER_COMMIT (R442): Commit of accepted tokens, entries, counts and result records. -/
  | samplerCommit (cl : ClusterId)
  /-- SAMPLER_COMPLETE (R420): Completion of a sampler request: barrier decrement and arrival. -/
  | samplerComplete (cl : ClusterId)
  /-- KV_LOST (R431): Marking of a sequence as lost on an error in a committed key-value entry. -/
  | kvLost (pa : Nat)
  /-- FLIT_RECEIVE (R392): Receipt of a flit from a decoded FEC block: accept or discard, NAK, credits. -/
  | flitReceive (port : PortId) (flit : RxFlit)
  /-- NAK_REPEAT (R392): Repeat of a NAK after 512 cycles without an accepted flit. -/
  | nakRepeat (port : PortId)
  /-- REPLAY_WINDOW_END (R394): End of a replay-count window, clearing WINRPL. -/
  | replayWindowEnd (port : PortId)
  /-- TRAINING_COMPLETE (R394): End of a port training, resending held flits. -/
  | trainingComplete (port : PortId) (ok : Bool)
  /-- PCTL_RETRAIN (R396): Firmware's request to train a port now. -/
  | pctlRetrain (port : PortId)
  /-- TQROW (R412): Arrival of a tile-queue row at its inbound endpoint. -/
  | tqrow (msg : Msg)
  /-- RD (R390): Remote read request message. -/
  | rd (msg : Msg)
  /-- WR (R390): Remote write or reduction message. -/
  | wr (msg : Msg)
  /-- RSP (R390): Response message completing a request. -/
  | rsp (msg : Msg)
  /-- ATOM (R390): Remote atomic or lock message. -/
  | atom (msg : Msg)
  /-- SLUICE_ARRIVAL (R406): Cross-package arrival message with a package's F and L. -/
  | sluiceArrival (msg : Msg)
  /-- SLUICE_START (R406): Cross-package start message carrying L. -/
  | sluiceStart (msg : Msg)
  /-- TIME_REQUEST (R404): TIME request of a REALIGN exchange. -/
  | timeRequest (msg : Msg)
  /-- TIME_REPLY (R404): TIME reply of an exchange. -/
  | timeReply (msg : Msg)
  /-- TIME_STEP (R404): TIME step message naming s and SPANDLY. -/
  | timeStep (msg : Msg)
  /-- TIME_REPORT (R404): TIME report of offset and latency up the timing tree. -/
  | timeReport (msg : Msg)
  /-- TQCLOSE (R410): Close message of a flushed outbound endpoint. -/
  | tqclose (msg : Msg)
  /-- TQACK (R413): Acknowledgement of rows landed and credit for rows freed. -/
  | tqack (msg : Msg)
  /-- FREEZE_MESSAGE (R398): Receipt of a freeze announcement or resumption across the bridge. -/
  | freezeMessage (k : CoreId) (resume : Bool) (inst : Nat)
  /-- FREEZE_MESSAGE_LATE (R398): MACHINE when no copy arrives 4 cycles before the effect instant. -/
  | freezeMessageLate (k : CoreId)
  /-- REALIGN_BEGIN (R404): Start of a package's REALIGN once every core has issued REALIGN. -/
  | realignBegin
  /-- TIME_EXCHANGE_SEND (R404): Send of a TIME request every 4,096 cycles. -/
  | timeExchangeSend
  /-- CYC_STEP (R404): Step of CYC by the accumulated offset at cycle s. -/
  | cycStep
  /-- REALIGN_TIMEOUT (R405): REALIGN_FAIL when an exchange or the root's collection times out. -/
  | realignTimeout
  /-- REPLAY_END (R460): Replaying core reaches instant i_s, clearing the replay freeze. -/
  | replayEnd (k : CoreId)
  /-- AUDIT_LOG_COPY (R469): Background copy of the scratchpad image into the audit log. -/
  | auditLogCopy (k : CoreId)
  /-- AUDIT_REPLAY (R470): Replay of a logged slice on another core in an audit slot. -/
  | auditReplay (blk : Nat)
  /-- AUDIT_COMPARE (R472): Comparison of store signatures after a replay. -/
  | auditCompare (blk : Nat)
  /-- RCVMARK_WRITE (R464): Request for a recovery point at the next boundary. -/
  | rcvmarkWrite (v : Word32)
  /-- RECOVERY_RECORD_WRITE (R466): Writing and posting of the recovery record once all writes are acknowledged. -/
  | recoveryRecordWrite
  /-- REGISTER_WRITE (R7): Write of a register with no behaviour of its own under its access codes. -/
  | registerWrite (k : CoreId) (comp : Bool) (n : BitVec 12) (v : Word)
  /-- HOST_READ (R493): Host read through HW1. -/
  | hostRead (off : Nat) (len : Nat)
  /-- HOST_WRITE (R493): Host posted write through HW1. -/
  | hostWrite (off : Nat) (data : List Byte)
  /-- HOST_FETCHADD (R493): Host FetchAdd performed as AOP ADD. -/
  | hostFetchadd (off : Nat) (wide : Bool) (v : Word)
  /-- HOST_SWAP (R493): Host Swap performed as XCHG. -/
  | hostSwap (off : Nat) (wide : Bool) (v : Word)
  /-- HOST_CAS (R493): Host CAS performed at the home. -/
  | hostCas (off : Nat) (wide : Bool) (cmp : Word) (v : Word)
  /-- LOAD (R501): Mailbox command that loads and verifies a firmware image. -/
  | load (slot : MailSlot)
  /-- ATTEST (R502): Mailbox command that returns a signed attestation report. -/
  | attest (slot : MailSlot)
  /-- SEED (R503): Mailbox command that issues a seed to the host. -/
  | seed (slot : MailSlot)
  /-- ABORT (R497): Mailbox command that starts a context's fallback. -/
  | abort (slot : MailSlot)
  /-- TLBINV_WRITE (R495): Start of a translation invalidation. -/
  | tlbinvWrite (v : Word)
  /-- TLBINV_DONE (R495): End of an invalidation, clearing BUSY. -/
  | tlbinvDone
  /-- START_GO (R498): Write of START.GO that begins a start. -/
  | startGo
  /-- START_CLR (R499): Write of START.CLR that clears FAILS and MIN. -/
  | startClr
  /-- FUNDAMENTAL_RESET (R498): PCIe fundamental reset that begins a start. -/
  | fundamentalReset
  /-- POWER_ON (R498): Power-on of the package, clearing FAILS and starting. -/
  | powerOn
  /-- POWER_LOSS (R490): Loss of package power, ending every job. -/
  | powerLoss
  /-- START_TIMEOUT (R498): Failure of a start not at step 8 within 2 s. -/
  | startTimeout
  /-- ENTROPY_HEALTH_FAIL (R503): Stop of the entropy source on a failed health test. -/
  | entropyHealthFail
  /-- ENTROPY_PASS (R503): Resumption of seed issuing once the source passes again. -/
  | entropyPass
  /-- IN_FLIGHT_RESULT_LANDING (R65): A timed result, pending store, drain row or accumulator beat lands or performs at its stated instant c+n, counted in unfrozen cycles. -/
  | inFlightResultLanding (k : CoreId)
  /-- PRE_TRANSLATION_ARRIVAL (R361): The cluster agents finish the walks for the next phase's footprints, and the pre-translation slack task arrives at the Sluice tree. -/
  | preTranslationArrival
  /-- REALIGN_COMPLETE (R404): Every core of every package resumes issuing at one CYC value, 64 cycles after the root's step, or 64 cycles after a single-package REALIGN begins. -/
  | realignComplete
  /-- STBASE_WRITE (R378): Firmware writes STBASE, which ends the extension of the current slot that a SLOT_TABLE fault held. -/
  | stbaseWrite (v : Word)
  deriving DecidableEq, Repr

end Sys2Proof
end

