-- ==== Sys2Proof/WellFormed.lean ====
section
/-!
DEFINITION. WellFormed.lean: the limits the encoding puts on an instruction's operands (R69 to R83 and the entries
of 04 to 12). An instruction outside them has no legal word and traps with ILLEGAL at issue.
-/
namespace Sys2Proof

/-- Selector classes of R69. -/
def VSel.isV (s : VSel) : Bool := s.toNat < 0x20
def VSel.isO (s : VSel) : Bool := 0x20 ≤ s.toNat && s.toNat < 0x30
def VSel.isJ (s : VSel) : Bool := 0x30 ≤ s.toNat && s.toNat < 0x38
def VSel.isQ (s : VSel) : Bool := 0x38 ≤ s.toNat

/-- Lane width in bits (R186). -/
def VType.bits : VType → Nat
  | .i8 => 8 | .i16 | .f16 | .bf16 => 16 | .i32 | .f32 => 32 | .i64 | .f64 => 64
def VType.isInt : VType → Bool
  | .i8 | .i16 | .i32 | .i64 => true
  | .f16 | .bf16 | .f32 | .f64 => false
def VWidth.bits : VWidth → Nat
  | .w256 => 256 | .w512 => 512 | .w1024 => 1024
/-- The processed lanes n = W / w (R186). -/
def VHdr.lanes (h : VHdr) : Nat := h.w.bits / h.t.bits

/-- A predicate or mask pair destination is even, 2 to 14 (R69, R70). -/
def pairOk (p : BitVec 4) : Bool := p.toNat % 2 = 0 && p.toNat ≠ 0
/-- A single predicate destination is p1 to p15 (R70). -/
def predOk (p : BitVec 4) : Bool := p ≠ 0
/-- A vector destination of a V slot: not the j file (R70). -/
def dstOk (d : VSel) : Bool := !d.isJ
/-- A vector destination that is also read: neither j nor q (R190, R196). -/
def dstReadOk (d : VSel) : Bool := !d.isJ && !d.isQ

/-- The lane of XV and VX lies below the lane count of the full register (R75). -/
def laneOk (t : VType) (lane : BitVec 7) : Bool := lane.toNat < 1024 / t.bits

/-- VCVT's combinations of types and rounding modes (R204). -/
def vcvtOk (fr ty : VType) (rm : VRm) : Bool :=
  fr ≠ ty &&
  match fr.isInt, ty.isInt with
  | true, true => rm = .rne
  | true, false => rm ≠ .sr
  | false, true => true
  | false, false => if fr.bits < ty.bits then rm = .rne else (rm ≠ .sr || ty.bits < fr.bits)

/-- The beat and drain fields of XACC and XACCZ (R80). -/
def xaccOk (bank : Bool) (f : XFmt) (si sj : BitVec 3) (dr : XDrain) (db : Bool) : Bool :=
  (if f = .slice then si.toNat ≤ 4 && sj.toNat ≤ 4 else si = 0 && sj = 0) && (dr = .none || db ≠ bank)

/-- The encoding limits of each instruction; the machine steps without an encoding have none. -/
def Instr.wf : Instr → Bool
  | .nop => true
  | .hold n => n ≠ 0
  | .addC _ _ _ _ => true
  | .addS _ _ _ _ => true
  | .subC _ _ _ _ => true
  | .subS _ _ _ _ => true
  | .andC _ _ _ _ => true
  | .andS _ _ _ _ => true
  | .orC _ _ _ _ => true
  | .orS _ _ _ _ => true
  | .xorC _ _ _ _ => true
  | .xorS _ _ _ _ => true
  | .andnC _ _ _ _ => true
  | .andnS _ _ _ _ => true
  | .shlC _ _ _ _ => true
  | .shlS _ _ _ _ => true
  | .shrC _ _ _ _ => true
  | .shrS _ _ _ _ => true
  | .sraC _ _ _ _ => true
  | .sraS _ _ _ _ => true
  | .minC _ _ _ _ => true
  | .maxC _ _ _ _ => true
  | .minuC _ _ _ _ => true
  | .maxuC _ _ _ _ => true
  | .rol _ _ _ _ => true
  | .clz _ _ _ => true
  | .ctz _ _ _ => true
  | .popc _ _ _ => true
  | .liC _ _ _ => true
  | .liS _ _ _ => true
  | .addiC _ _ _ => true
  | .addiS _ _ _ => true
  | .lihC _ _ _ => true
  | .lihS _ _ _ => true
  | .mul _ _ _ _ => true
  | .mulh _ _ _ _ => true
  | .mulhu _ _ _ _ => true
  | .div _ _ _ _ => true
  | .divu _ _ _ _ => true
  | .rem _ _ _ _ => true
  | .remu _ _ _ _ => true
  | .cmpeqC _ pd _ _ => pairOk pd
  | .cmpeqS _ pd _ _ => pairOk pd
  | .cmpltC _ pd _ _ => pairOk pd
  | .cmpltS _ pd _ _ => pairOk pd
  | .cmpltuC _ pd _ _ => pairOk pd
  | .cmpltuS _ pd _ _ => pairOk pd
  | .cmpleC _ pd _ _ => pairOk pd
  | .cmpleS _ pd _ _ => pairOk pd
  | .cmpleuC _ pd _ _ => pairOk pd
  | .cmpleuS _ pd _ _ => pairOk pd
  | .cmpeqi _ pd _ _ => pairOk pd
  | .cmplti _ pd _ _ => pairOk pd
  | .pand _ pd _ _ => predOk pd
  | .por _ pd _ _ => predOk pd
  | .pxor _ pd _ _ => predOk pd
  | .pandn _ pd _ _ => predOk pd
  | .sel _ _ _ _ _ => true
  | .movp _ _ _ => true
  | .pmov _ pd _ => predOk pd
  | .fadd _ _ _ _ _ _ => true
  | .fsub _ _ _ _ _ _ => true
  | .fmul _ _ _ _ _ _ => true
  | .ffma _ _ _ _ _ _ => true
  | .fcmp _ _ _ pd _ _ => pairOk pd
  | .fcvt _ fr ty _ _ _ => fr ≠ ty
  | .xv _ t lane _ va => laneOk t lane && !va.isQ
  | .vx _ t lane vd _ => laneOk t lane && (vd.isV || vd.isO)
  | .pbr _ _ _ => true
  | .pbrx _ _ _ => true
  | .br _ _ => true
  | .call _ _ => true
  | .ret _ => true
  | .loop _ _ _ => true
  | .brl _ _ => true
  | .segb _ => true
  | .phend _ => true
  | .tend _ => true
  | .realign _ => true
  | .trap _ _ => true
  | .rdc _ _ _ => true
  | .wrc _ _ _ => true
  | .ifence _ => true
  | .uiret _ => true
  | .waiti _ => true
  | .vaddV0 _ d _ _ => dstOk d
  | .vaddV1 _ d _ _ => dstOk d
  | .vaddV2 _ d _ _ => dstOk d
  | .vsubV0 _ d _ _ => dstOk d
  | .vsubV1 _ d _ _ => dstOk d
  | .vsubV2 _ d _ _ => dstOk d
  | .vmulV0 _ d _ _ => dstOk d
  | .vmulV1 _ d _ _ => dstOk d
  | .vmulV2 _ d _ _ => dstOk d
  | .vfmaV0 _ d _ _ => dstReadOk d
  | .vfmaV1 _ d _ _ => dstReadOk d
  | .vfmaV2 _ d _ _ => dstReadOk d
  | .vfmsV0 _ d _ _ => dstReadOk d
  | .vfmsV1 _ d _ _ => dstReadOk d
  | .vminV0 _ d _ _ => dstOk d
  | .vminV1 _ d _ _ => dstOk d
  | .vminV2 _ d _ _ => dstOk d
  | .vmaxV0 _ d _ _ => dstOk d
  | .vmaxV1 _ d _ _ => dstOk d
  | .vmaxV2 _ d _ _ => dstOk d
  | .vminuV0 h d _ _ => dstOk d && h.t.isInt
  | .vminuV1 h d _ _ => dstOk d && h.t.isInt
  | .vmaxuV0 h d _ _ => dstOk d && h.t.isInt
  | .vmaxuV1 h d _ _ => dstOk d && h.t.isInt
  | .vandV0 _ d _ _ => dstOk d
  | .vandV1 _ d _ _ => dstOk d
  | .vorV0 _ d _ _ => dstOk d
  | .vorV1 _ d _ _ => dstOk d
  | .vxorV0 _ d _ _ => dstOk d
  | .vxorV1 _ d _ _ => dstOk d
  | .vandn _ d _ _ => dstOk d
  | .vshl h d _ _ => dstOk d && h.t.isInt
  | .vshr h d _ _ => dstOk d && h.t.isInt
  | .vsra h d _ _ => dstOk d && h.t.isInt
  | .vabsV0 _ d _ => dstOk d
  | .vabsV1 _ d _ => dstOk d
  | .vnegV0 _ d _ => dstOk d
  | .vnegV1 _ d _ => dstOk d
  | .vmovV0 _ d _ => dstOk d
  | .vmovV1 _ d _ => dstOk d
  | .vmovV2 _ d _ => dstOk d
  | .vcmpeqV0 _ md _ _ => pairOk md
  | .vcmpeqV1 _ md _ _ => pairOk md
  | .vcmpeqV2 _ md _ _ => pairOk md
  | .vcmpltV0 _ md _ _ => pairOk md
  | .vcmpltV1 _ md _ _ => pairOk md
  | .vcmpltV2 _ md _ _ => pairOk md
  | .vcmpleV0 _ md _ _ => pairOk md
  | .vcmpleV1 _ md _ _ => pairOk md
  | .vselV0 _ d _ _ => dstReadOk d
  | .vselV1 _ d _ _ => dstReadOk d
  | .vselV2 _ d _ _ => dstReadOk d
  | .vclamp _ d _ _ => dstReadOk d
  | .vcvtV0 h d _ rm fr => dstOk d && vcvtOk fr h.t rm
  | .vcvtV1 h d _ rm fr => dstOk d && vcvtOk fr h.t rm
  | .vcvtV2 h d _ rm fr => dstOk d && vcvtOk fr h.t rm
  | .vrnd h d _ _ => dstOk d && !h.t.isInt
  | .vldexp h d _ _ => dstOk d && !h.t.isInt
  | .vexpo h d _ => dstOk d && !h.t.isInt
  | .vmaxexp h d _ => dstOk d && !h.t.isInt
  | .vshuf _ d _ _ => dstOk d
  | .vrotl h d _ k => dstOk d && k.toNat < h.lanes
  | .vbcl h d _ k => dstOk d && k.toNat < 1024 / h.t.bits
  | .vpack h d _ _ => dstOk d && (h.t = .i16 || h.t = .i32 || h.t = .i64)
  | .vunpk h d _ _ _ => dstOk d && (h.t = .i8 || h.t = .i16 || h.t = .i32)
  | .vraddV1 _ d _ => dstOk d
  | .vraddV2 _ d _ => dstOk d
  | .vrmaxV1 _ d _ => dstOk d
  | .vrmaxV2 _ d _ => dstOk d
  | .vrmin _ d _ => dstOk d
  | .vscan _ d _ _ => dstOk d
  | .vexp2 h d _ => dstOk d && (h.t = .f16 || h.t = .bf16 || h.t = .f32)
  | .vlog2 h d _ => dstOk d && (h.t = .f16 || h.t = .bf16 || h.t = .f32)
  | .vrcp h d _ => dstOk d && (h.t = .f16 || h.t = .bf16 || h.t = .f32)
  | .vrsq h d _ => dstOk d && (h.t = .f16 || h.t = .bf16 || h.t = .f32)
  | .vsqrt h d _ => dstOk d && (h.t = .f16 || h.t = .bf16 || h.t = .f32)
  | .vtanh h d _ => dstOk d && (h.t = .f16 || h.t = .bf16 || h.t = .f32)
  | .vsigm h d _ => dstOk d && (h.t = .f16 || h.t = .bf16 || h.t = .f32)
  | .vsin h d _ => dstOk d && (h.t = .f16 || h.t = .bf16 || h.t = .f32)
  | .vcos h d _ => dstOk d && (h.t = .f16 || h.t = .bf16 || h.t = .f32)
  | .verf h d _ => dstOk d && (h.t = .f16 || h.t = .bf16 || h.t = .f32)
  | .xacc _ bank f _ _ si sj dr db => xaccOk bank f si sj dr db
  | .xaccz _ bank f _ _ si sj dr db => xaccOk bank f si sj dr db
  | .xzero _ bank dr db => (dr = .none || db ≠ bank)
  | .xdrn _ dr _ => dr ≠ .none
  | .ld _ v _ _ => (v.isV || v.isO)
  | .st _ v _ _ => !v.isQ
  | .stm _ v _ _ => !v.isQ
  | .ldt _ v _ _ => (v.isV || v.isO)
  | .ldb _ v _ _ => (v.isV || v.isO)
  | .ldx _ v _ _ => (v.isV || v.isO)
  | .stx _ v _ _ => !v.isQ
  | .rmrg _ vd va _ => (vd.isV || vd.isO) && !va.isQ
  | .gld _ v _ _ => (v.isV || v.isO)
  | .gst _ v _ _ => !v.isQ
  | .aopAdd _ _ _ _ => true
  | .aopFadd32 _ _ _ _ => true
  | .aopMin _ _ _ _ => true
  | .aopMax _ _ _ _ => true
  | .aopMinu _ _ _ _ => true
  | .aopMaxu _ _ _ _ => true
  | .aopAnd _ _ _ _ => true
  | .aopOr _ _ _ _ => true
  | .aopXor _ _ _ _ => true
  | .aopXchg _ _ _ _ => true
  | .aopCas _ _ _ _ => true
  | .rwlRdacq _ _ _ pd => predOk pd
  | .rwlRdrel _ _ _ pd => predOk pd
  | .rwlWracq _ _ _ pd => predOk pd
  | .rwlWrrel _ _ _ pd => predOk pd
  | .rwlSetpref _ _ _ pd => predOk pd
  | .fenceAcq _ _ => true
  | .fenceRel _ _ => true
  | .fenceFull _ _ => true
  | .sbind _ _ _ => true
  | .sfree _ _ => true
  | .sadv _ _ n => n ≠ 0
  | .gls _ _ _ va vb => !va.isQ && !vb.isQ
  | .zld _ _ va => !va.isQ
  | .eld _ _ va vb => !va.isQ && !vb.isQ
  | .xcfg _ _ _ => true
  | .xmaskRow _ _ _ => true
  | .xmaskFill _ => true
  | .xmaskInv _ => true
  | .btake _ _ => true
  | .bgive _ _ _ => true
  | .bpub _ _ => true
  | .bret _ _ => true
  | .jsub _ _ _ => true
  | .jcan _ _ => true
  | .barmSet _ _ _ _ => true
  | .barmAdd _ _ _ _ => true
  | .barq _ _ _ => true
  | .uien _ _ => true
  | .tqbind _ _ => true
  | .tqfl _ _ => true
  | .nmsub _ _ _ => true
  | .nmfn _ _ _ => true
  | .phsel _ _ => true
  | .phld _ _ _ _ => true
  | .lnch _ _ _ => true
  | .cancLaunch _ _ => true
  | .cancGraph _ _ => true
  | .cancPhase _ _ => true
  | .cancJob _ _ => true
  | .smpsub _ _ _ => true
  | .seedq _ _ => true
  | .untimedResultLand _ => true
  | .homeAccess _ => true
  | .writeAck _ => true
  | .localStreamFill _ _ => true
  | .streamRequest _ _ => true
  | .ringLanding _ => true
  | .ringStageFill _ _ => true
  | .transposerRead _ => true
  | .peerReadServe _ => true
  | .freezeAnnounce _ _ _ => true
  | .freezeTakeEffect _ => true
  | .freezeResume _ => true
  | .freezeTimeout _ => true
  | .groupStop _ => true
  | .bodyLengthExceeded _ => true
  | .weirFreezeRequest _ => true
  | .clockStretch _ => true
  | .stretchFreeze _ => true
  | .criticalMargin _ => true
  | .opctlGoSync => true
  | .opctlGoRunning => true
  | .opSwitch => true
  | .runningRampStep => true
  | .powerLoop _ _ => true
  | .pfWindowEnd => true
  | .trapactContinue _ _ => true
  | .trapactAbort _ _ => true
  | .groupResume _ => true
  | .uiDeliver _ => true
  | .slotStart => true
  | .preemptStop _ => true
  | .preemptSave _ => true
  | .preemptResume _ => true
  | .phldLoadDone _ => true
  | .phaseLatch => true
  | .pageRequestAnswer _ => true
  | .refreshDebtRepaid => true
  | .sluiceLastArrival => true
  | .slackOverrun => true
  | .phaseStart _ => true
  | .seqctlGo => true
  | .seqctlAbort => true
  | .partitionPeriod => true
  | .jcopy _ _ => true
  | .jcopyt _ _ => true
  | .jgather _ _ => true
  | .jscatter _ _ => true
  | .jred _ _ => true
  | .jsnap _ _ => true
  | .jobComplete _ _ => true
  | .snapshotBlockCopy _ => true
  | .nadd _ => true
  | .naxpy _ => true
  | .nscal _ => true
  | .nsgdw _ => true
  | .nadamw _ => true
  | .nfill _ => true
  | .nred _ => true
  | .ncopy _ => true
  | .ncvt _ => true
  | .nchk _ => true
  | .nmStep _ => true
  | .nmCommandComplete _ => true
  | .samplerFetch _ => true
  | .samplerExecute _ => true
  | .samplerCommit _ => true
  | .samplerComplete _ => true
  | .kvLost _ => true
  | .flitReceive _ _ => true
  | .nakRepeat _ => true
  | .replayWindowEnd _ => true
  | .trainingComplete _ _ => true
  | .pctlRetrain _ => true
  | .tqrow _ => true
  | .rd _ => true
  | .wr _ => true
  | .rsp _ => true
  | .atom _ => true
  | .sluiceArrival _ => true
  | .sluiceStart _ => true
  | .timeRequest _ => true
  | .timeReply _ => true
  | .timeStep _ => true
  | .timeReport _ => true
  | .tqclose _ => true
  | .tqack _ => true
  | .freezeMessage _ _ _ => true
  | .freezeMessageLate _ => true
  | .realignBegin => true
  | .timeExchangeSend => true
  | .cycStep => true
  | .realignTimeout => true
  | .replayEnd _ => true
  | .auditLogCopy _ => true
  | .auditReplay _ => true
  | .auditCompare _ => true
  | .rcvmarkWrite _ => true
  | .recoveryRecordWrite => true
  | .registerWrite _ _ _ _ => true
  | .hostRead _ _ => true
  | .hostWrite _ _ => true
  | .hostFetchadd _ _ _ => true
  | .hostSwap _ _ _ => true
  | .hostCas _ _ _ _ => true
  | .load _ => true
  | .attest _ => true
  | .seed _ => true
  | .abort _ => true
  | .tlbinvWrite _ => true
  | .tlbinvDone => true
  | .startGo => true
  | .startClr => true
  | .fundamentalReset => true
  | .powerOn => true
  | .powerLoss => true
  | .startTimeout => true
  | .entropyHealthFail => true
  | .entropyPass => true
  | .inFlightResultLanding _ => true
  | .preTranslationArrival => true
  | .realignComplete => true
  | .stbaseWrite _ => true

end Sys2Proof
end

