-- ==== Sys2Proof/Decode.lean ====
section
/-!
DEFINITION. Decode.lean: decoding of slot words and bundles (R57 to R83), and the encoder written from the same
tables. Every word that no form assigns is rejected by name; the core turns a rejection into ILLEGAL (0x01).
-/
namespace Sys2Proof

/-- Why a slot word stands for no instruction (R63, R73 to R83). -/
inductive Reject where
  /-- An opcode the slot's map does not assign (R73, R75, R78, R80 to R82). -/
  | unassigned
  /-- A NOP code with other bits set (R63). -/
  | nopBits
  /-- A field that must be zero is not (R10, R83). -/
  | mustBeZero
  /-- A field holds a reserved code: width 11, a matrix source above 15, a rounding code above 4 (R10). -/
  | reserved
  /-- An operand outside the limits of R69, R70 or its entry. -/
  | operand
  deriving DecidableEq, Repr

/-- The field [lo+n-1:lo] of a slot word. -/
def fld (lo n : Nat) (w : Word32) : BitVec n := BitVec.ofNat n (w.toNat / 2 ^ lo)
/-- The field as a truth value. -/
def bit (lo : Nat) (w : Word32) : Bool := w.toNat / 2 ^ lo % 2 = 1

def VType.ofCode (c : BitVec 3) : VType :=
  match c.toNat with
  | 0 => .i8 | 1 => .i16 | 2 => .i32 | 3 => .i64 | 4 => .f16 | 5 => .bf16 | 6 => .f32 | _ => .f64
def VType.code : VType → Nat
  | .i8 => 0 | .i16 => 1 | .i32 => 2 | .i64 => 3 | .f16 => 4 | .bf16 => 5 | .f32 => 6 | .f64 => 7
def VWidth.ofCode (c : BitVec 2) : Except Reject VWidth :=
  match c.toNat with
  | 0 => .ok .w256 | 1 => .ok .w512 | 2 => .ok .w1024 | _ => .error .reserved
def VWidth.code : VWidth → Nat
  | .w256 => 0 | .w512 => 1 | .w1024 => 2
def FFmt.ofCode (c : BitVec 2) : FFmt :=
  match c.toNat with
  | 0 => .f16 | 1 => .bf16 | 2 => .f32 | _ => .f64
def FFmt.code : FFmt → Nat
  | .f16 => 0 | .bf16 => 1 | .f32 => 2 | .f64 => 3
def Rm.ofCode (c : BitVec 2) : Rm :=
  match c.toNat with
  | 0 => .rne | 1 => .rtz | 2 => .rup | _ => .rdn
def Rm.code : Rm → Nat
  | .rne => 0 | .rtz => 1 | .rup => 2 | .rdn => 3
def VRm.ofCode (c : BitVec 3) : Except Reject VRm :=
  match c.toNat with
  | 0 => .ok .rne | 1 => .ok .rtz | 2 => .ok .rup | 3 => .ok .rdn | 4 => .ok .sr | _ => .error .reserved
def VRm.code : VRm → Nat
  | .rne => 0 | .rtz => 1 | .rup => 2 | .rdn => 3 | .sr => 4
def FCond.ofCode (c : BitVec 2) : FCond :=
  match c.toNat with
  | 0 => .eq | 1 => .lt | 2 => .le | _ => .un
def FCond.code : FCond → Nat
  | .eq => 0 | .lt => 1 | .le => 2 | .un => 3
def CvtTy.ofCode (c : BitVec 3) : Except Reject CvtTy :=
  match c.toNat with
  | 0 => .ok .f16 | 1 => .ok .bf16 | 2 => .ok .f32 | 3 => .ok .f64 | 4 => .ok .i64 | _ => .error .reserved
def CvtTy.code : CvtTy → Nat
  | .f16 => 0 | .bf16 => 1 | .f32 => 2 | .f64 => 3 | .i64 => 4
def ScanOp.ofCode (c : BitVec 6) : Except Reject ScanOp :=
  match c.toNat with
  | 0 => .ok .add | 1 => .ok .max | 2 => .ok .min | _ => .error .reserved
def ScanOp.code : ScanOp → Nat
  | .add => 0 | .max => 1 | .min => 2
def XFmt.ofCode (c : BitVec 3) : XFmt :=
  match c.toNat with
  | 0 => .i8i8 | 1 => .f16f16 | 2 => .bf16bf16 | 3 => .f16u4 | 4 => .bf16u4 | 5 => .i8u4 | 6 => .slice | _ => .i8u8
def XFmt.code : XFmt → Nat
  | .i8i8 => 0 | .f16f16 => 1 | .bf16bf16 => 2 | .f16u4 => 3 | .bf16u4 => 4 | .i8u4 => 5 | .slice => 6 | .i8u8 => 7
def MSrc.ofCode (c : BitVec 5) : Except Reject MSrc :=
  if c.toNat < 8 then .ok (.q (BitVec.ofNat 3 c.toNat))
  else if c.toNat < 16 then .ok (.tq (BitVec.ofNat 3 c.toNat)) else .error .reserved
def MSrc.code : MSrc → Nat
  | .q k => k.toNat
  | .tq k => 8 + k.toNat
def XDrain.ofCode (c : BitVec 2) : Except Reject XDrain :=
  match c.toNat with
  | 0 => .ok .none | 1 => .ok .shift | 2 => .ok .clear | _ => .error .reserved
def XDrain.code : XDrain → Nat
  | .none => 0 | .shift => 1 | .clear => 2
def FScope.ofCode (c : BitVec 3) : Except Reject FScope :=
  match c.toNat with
  | 0 => .ok .core | 1 => .ok .cluster | 2 => .ok .package | 3 => .ok .domain | 4 => .ok .system | _ => .error .reserved
def FScope.code : FScope → Nat
  | .core => 0 | .cluster => 1 | .package => 2 | .domain => 3 | .system => 4

/-- The last two tests of every form: the bits the form does not assign are zero (R83) and the operands keep
their limits (R69, R70). Each pair is a low bit and a width. -/
def finish (zeros : List (Nat × Nat)) (w : Word32) (i : Instr) : Except Reject Instr :=
  if zeros.all (fun z => fld z.1 z.2 w = 0) then (if i.wf then .ok i else .error .operand) else .error .mustBeZero

/-- Decoder of the C slot (R72, R73). -/
def decodeC (w : Word32) : Except Reject Instr :=
  let h : CHdr := ⟨fld 28 4 w, fld 24 4 w⟩
  match (fld 18 6 w).toNat with
  | 0x00 => if w = 0 then .ok .nop else do let _ ← finish [(0, 18), (28, 4)] w .nop; .ok (.hold (fld 24 4 w))
  | 0x01 => finish [] w (.addC h (fld 12 6 w) (fld 6 6 w) (fld 0 6 w))
  | 0x02 => finish [] w (.subC h (fld 12 6 w) (fld 6 6 w) (fld 0 6 w))
  | 0x03 => finish [] w (.andC h (fld 12 6 w) (fld 6 6 w) (fld 0 6 w))
  | 0x04 => finish [] w (.orC h (fld 12 6 w) (fld 6 6 w) (fld 0 6 w))
  | 0x05 => finish [] w (.xorC h (fld 12 6 w) (fld 6 6 w) (fld 0 6 w))
  | 0x06 => finish [] w (.andnC h (fld 12 6 w) (fld 6 6 w) (fld 0 6 w))
  | 0x07 => finish [] w (.shlC h (fld 12 6 w) (fld 6 6 w) (fld 0 6 w))
  | 0x08 => finish [] w (.shrC h (fld 12 6 w) (fld 6 6 w) (fld 0 6 w))
  | 0x09 => finish [] w (.sraC h (fld 12 6 w) (fld 6 6 w) (fld 0 6 w))
  | 0x0A => finish [] w (.minC h (fld 12 6 w) (fld 6 6 w) (fld 0 6 w))
  | 0x0B => finish [] w (.maxC h (fld 12 6 w) (fld 6 6 w) (fld 0 6 w))
  | 0x0C => finish [] w (.minuC h (fld 12 6 w) (fld 6 6 w) (fld 0 6 w))
  | 0x0D => finish [] w (.maxuC h (fld 12 6 w) (fld 6 6 w) (fld 0 6 w))
  | 0x0E => finish [] w (.addiC h (fld 12 6 w) (fld 0 12 w))
  | 0x0F => finish [] w (.liC h (fld 12 6 w) (fld 0 12 w))
  | 0x10 => finish [] w (.lihC h (fld 12 6 w) (fld 0 12 w))
  | 0x12 => finish [(12, 2)] w (.cmpeqC h (fld 14 4 w) (fld 6 6 w) (fld 0 6 w))
  | 0x13 => finish [(12, 2)] w (.cmpltC h (fld 14 4 w) (fld 6 6 w) (fld 0 6 w))
  | 0x14 => finish [(12, 2)] w (.cmpltuC h (fld 14 4 w) (fld 6 6 w) (fld 0 6 w))
  | 0x15 => finish [(12, 2)] w (.cmpleC h (fld 14 4 w) (fld 6 6 w) (fld 0 6 w))
  | 0x16 => finish [(12, 2)] w (.cmpleuC h (fld 14 4 w) (fld 6 6 w) (fld 0 6 w))
  | 0x17 => finish [] w (.cmpeqi h (fld 14 4 w) (fld 8 6 w) (fld 0 8 w))
  | 0x18 => finish [] w (.cmplti h (fld 14 4 w) (fld 8 6 w) (fld 0 8 w))
  | 0x19 => finish [(0, 6)] w (.pand h (fld 14 4 w) (fld 10 4 w) (fld 6 4 w))
  | 0x1A => finish [(0, 6)] w (.por h (fld 14 4 w) (fld 10 4 w) (fld 6 4 w))
  | 0x1B => finish [(0, 6)] w (.pxor h (fld 14 4 w) (fld 10 4 w) (fld 6 4 w))
  | 0x1C => finish [(0, 6)] w (.pandn h (fld 14 4 w) (fld 10 4 w) (fld 6 4 w))
  | 0x20 => finish [(0, 15)] w (.br h (fld 15 3 w))
  | 0x21 => finish [(0, 15)] w (.call h (fld 15 3 w))
  | 0x22 => finish [(0, 18)] w (.ret h)
  | 0x23 => finish [] w (.pbr h (fld 15 3 w) (fld 0 15 w))
  | 0x24 => finish [(0, 9)] w (.pbrx h (fld 15 3 w) (fld 9 6 w))
  | 0x25 => finish [(6, 6)] w (.loop h (fld 12 6 w) (fld 0 6 w))
  | 0x26 => finish [(0, 15)] w (.brl h (fld 15 3 w))
  | 0x27 => finish [(0, 18)] w (.segb h)
  | 0x28 => finish [(0, 18)] w (.phend h)
  | 0x29 => finish [(0, 18)] w (.tend h)
  | 0x2A => finish [(0, 18)] w (.realign h)
  | 0x2B => finish [(12, 6)] w (.trap h (fld 0 12 w))
  | 0x2C => finish [(0, 18)] w (.uiret h)
  | 0x2D => finish [(0, 18)] w (.waiti h)
  | 0x2E => finish [] w (.rdc h (fld 12 6 w) (fld 0 12 w))
  | 0x2F => finish [] w (.wrc h (fld 12 6 w) (fld 0 12 w))
  | 0x30 => finish [(0, 18)] w (.ifence h)
  | _ => .error .unassigned

/-- Decoder of the S slot (R74, R75). -/
def decodeS (w : Word32) : Except Reject Instr :=
  let g : PReg := fld 28 4 w
  match (fld 22 6 w).toNat with
  | 0x00 => if w = 0 then .ok .nop else .error .nopBits
  | 0x01 => finish [(0, 4)] w (.addS g (fld 16 6 w) (fld 10 6 w) (fld 4 6 w))
  | 0x02 => finish [(0, 4)] w (.subS g (fld 16 6 w) (fld 10 6 w) (fld 4 6 w))
  | 0x03 => finish [(0, 4)] w (.mul g (fld 16 6 w) (fld 10 6 w) (fld 4 6 w))
  | 0x04 => finish [(0, 4)] w (.mulh g (fld 16 6 w) (fld 10 6 w) (fld 4 6 w))
  | 0x05 => finish [(0, 4)] w (.mulhu g (fld 16 6 w) (fld 10 6 w) (fld 4 6 w))
  | 0x06 => finish [(0, 4)] w (.div g (fld 16 6 w) (fld 10 6 w) (fld 4 6 w))
  | 0x07 => finish [(0, 4)] w (.divu g (fld 16 6 w) (fld 10 6 w) (fld 4 6 w))
  | 0x08 => finish [(0, 4)] w (.rem g (fld 16 6 w) (fld 10 6 w) (fld 4 6 w))
  | 0x09 => finish [(0, 4)] w (.remu g (fld 16 6 w) (fld 10 6 w) (fld 4 6 w))
  | 0x0A => finish [(0, 4)] w (.andS g (fld 16 6 w) (fld 10 6 w) (fld 4 6 w))
  | 0x0B => finish [(0, 4)] w (.orS g (fld 16 6 w) (fld 10 6 w) (fld 4 6 w))
  | 0x0C => finish [(0, 4)] w (.xorS g (fld 16 6 w) (fld 10 6 w) (fld 4 6 w))
  | 0x0D => finish [(0, 4)] w (.andnS g (fld 16 6 w) (fld 10 6 w) (fld 4 6 w))
  | 0x0E => finish [(0, 4)] w (.shlS g (fld 16 6 w) (fld 10 6 w) (fld 4 6 w))
  | 0x0F => finish [(0, 4)] w (.shrS g (fld 16 6 w) (fld 10 6 w) (fld 4 6 w))
  | 0x10 => finish [(0, 4)] w (.sraS g (fld 16 6 w) (fld 10 6 w) (fld 4 6 w))
  | 0x11 => finish [(0, 4)] w (.rol g (fld 16 6 w) (fld 10 6 w) (fld 4 6 w))
  | 0x12 => finish [(0, 10)] w (.clz g (fld 16 6 w) (fld 10 6 w))
  | 0x13 => finish [(0, 10)] w (.ctz g (fld 16 6 w) (fld 10 6 w))
  | 0x14 => finish [(0, 10)] w (.popc g (fld 16 6 w) (fld 10 6 w))
  | 0x15 => finish [] w (.sel g (fld 16 6 w) (fld 10 6 w) (fld 4 6 w) (fld 0 4 w))
  | 0x16 => finish [] w (.addiS g (fld 16 6 w) (fld 0 16 w))
  | 0x17 => finish [] w (.liS g (fld 16 6 w) (fld 0 16 w))
  | 0x18 => finish [] w (.lihS g (fld 16 6 w) (fld 0 16 w))
  | 0x19 => finish [(0, 12)] w (.movp g (fld 16 6 w) (fld 12 4 w))
  | 0x1A => finish [(0, 10), (16, 2)] w (.pmov g (fld 18 4 w) (fld 10 6 w))
  | 0x1B => finish [(0, 4), (16, 2)] w (.cmpeqS g (fld 18 4 w) (fld 10 6 w) (fld 4 6 w))
  | 0x1C => finish [(0, 4), (16, 2)] w (.cmpltS g (fld 18 4 w) (fld 10 6 w) (fld 4 6 w))
  | 0x1D => finish [(0, 4), (16, 2)] w (.cmpltuS g (fld 18 4 w) (fld 10 6 w) (fld 4 6 w))
  | 0x1E => finish [(0, 4), (16, 2)] w (.cmpleS g (fld 18 4 w) (fld 10 6 w) (fld 4 6 w))
  | 0x1F => finish [(0, 4), (16, 2)] w (.cmpleuS g (fld 18 4 w) (fld 10 6 w) (fld 4 6 w))
  | 0x20 => finish [] w (.fadd g (FFmt.ofCode (fld 2 2 w)) (Rm.ofCode (fld 0 2 w)) (fld 16 6 w) (fld 10 6 w) (fld 4 6 w))
  | 0x21 => finish [] w (.fsub g (FFmt.ofCode (fld 2 2 w)) (Rm.ofCode (fld 0 2 w)) (fld 16 6 w) (fld 10 6 w) (fld 4 6 w))
  | 0x22 => finish [] w (.fmul g (FFmt.ofCode (fld 2 2 w)) (Rm.ofCode (fld 0 2 w)) (fld 16 6 w) (fld 10 6 w) (fld 4 6 w))
  | 0x23 => finish [] w (.ffma g (FFmt.ofCode (fld 2 2 w)) (Rm.ofCode (fld 0 2 w)) (fld 16 6 w) (fld 10 6 w) (fld 4 6 w))
  | 0x24 => finish [(16, 2)] w (.fcmp g (FFmt.ofCode (fld 2 2 w)) (FCond.ofCode (fld 0 2 w)) (fld 18 4 w) (fld 10 6 w) (fld 4 6 w))
  | 0x25 => do let fr ← CvtTy.ofCode (fld 7 3 w); let ty ← CvtTy.ofCode (fld 4 3 w); finish [(2, 2)] w (.fcvt g fr ty (Rm.ofCode (fld 0 2 w)) (fld 16 6 w) (fld 10 6 w))
  | 0x26 => finish [] w (.xv g (VType.ofCode (fld 0 3 w)) (fld 3 7 w) (fld 16 6 w) (fld 10 6 w))
  | 0x27 => finish [] w (.vx g (VType.ofCode (fld 0 3 w)) (fld 3 7 w) (fld 16 6 w) (fld 10 6 w))
  | _ => .error .unassigned

/-- Decoder of the V0 slot (R76 to R78). -/
def decodeV0 (w : Word32) : Except Reject Instr :=
  do let wd ← VWidth.ofCode (fld 21 2 w); let h : VHdr := ⟨fld 28 4 w, wd, VType.ofCode (fld 18 3 w)⟩
     match (fld 23 5 w).toNat with
     | 0x00 => if w = 0 then .ok .nop else .error .nopBits
     | 0x01 => finish [] w (.vaddV0 h (fld 12 6 w) (fld 6 6 w) (fld 0 6 w))
     | 0x02 => finish [] w (.vsubV0 h (fld 12 6 w) (fld 6 6 w) (fld 0 6 w))
     | 0x03 => finish [] w (.vmulV0 h (fld 12 6 w) (fld 6 6 w) (fld 0 6 w))
     | 0x04 => finish [] w (.vfmaV0 h (fld 12 6 w) (fld 6 6 w) (fld 0 6 w))
     | 0x05 => finish [] w (.vfmsV0 h (fld 12 6 w) (fld 6 6 w) (fld 0 6 w))
     | 0x06 => finish [] w (.vminV0 h (fld 12 6 w) (fld 6 6 w) (fld 0 6 w))
     | 0x07 => finish [] w (.vmaxV0 h (fld 12 6 w) (fld 6 6 w) (fld 0 6 w))
     | 0x08 => finish [] w (.vminuV0 h (fld 12 6 w) (fld 6 6 w) (fld 0 6 w))
     | 0x09 => finish [] w (.vmaxuV0 h (fld 12 6 w) (fld 6 6 w) (fld 0 6 w))
     | 0x0A => finish [] w (.vandV0 h (fld 12 6 w) (fld 6 6 w) (fld 0 6 w))
     | 0x0B => finish [] w (.vorV0 h (fld 12 6 w) (fld 6 6 w) (fld 0 6 w))
     | 0x0C => finish [] w (.vxorV0 h (fld 12 6 w) (fld 6 6 w) (fld 0 6 w))
     | 0x0D => finish [] w (.vandn h (fld 12 6 w) (fld 6 6 w) (fld 0 6 w))
     | 0x0E => finish [] w (.vshl h (fld 12 6 w) (fld 6 6 w) (fld 0 6 w))
     | 0x0F => finish [] w (.vshr h (fld 12 6 w) (fld 6 6 w) (fld 0 6 w))
     | 0x10 => finish [] w (.vsra h (fld 12 6 w) (fld 6 6 w) (fld 0 6 w))
     | 0x11 => finish [(0, 6)] w (.vabsV0 h (fld 12 6 w) (fld 6 6 w))
     | 0x12 => finish [(0, 6)] w (.vnegV0 h (fld 12 6 w) (fld 6 6 w))
     | 0x13 => finish [(16, 2)] w (.vcmpeqV0 h (fld 12 4 w) (fld 6 6 w) (fld 0 6 w))
     | 0x14 => finish [(16, 2)] w (.vcmpltV0 h (fld 12 4 w) (fld 6 6 w) (fld 0 6 w))
     | 0x15 => finish [(16, 2)] w (.vcmpleV0 h (fld 12 4 w) (fld 6 6 w) (fld 0 6 w))
     | 0x16 => finish [] w (.vselV0 h (fld 12 6 w) (fld 6 6 w) (fld 0 6 w))
     | 0x17 => do let rm ← VRm.ofCode (fld 3 3 w); finish [] w (.vcvtV0 h (fld 12 6 w) (fld 6 6 w) rm (VType.ofCode (fld 0 3 w)))
     | 0x18 => finish [] w (.vshuf h (fld 12 6 w) (fld 6 6 w) (fld 0 6 w))
     | 0x19 => finish [] w (.vrotl h (fld 12 6 w) (fld 6 6 w) (fld 0 6 w))
     | 0x1A => finish [] w (.vbcl h (fld 12 6 w) (fld 6 6 w) (fld 0 6 w))
     | 0x1B => finish [(0, 6)] w (.vmovV0 h (fld 12 6 w) (fld 6 6 w))
     | 0x1C => finish [(0, 6)] w (.vexpo h (fld 12 6 w) (fld 6 6 w))
     | 0x1D => finish [] w (.vpack h (fld 12 6 w) (fld 6 6 w) (fld 0 6 w))
     | 0x1E => finish [(2, 4)] w (.vunpk h (fld 12 6 w) (fld 6 6 w) (bit 0 w) (bit 1 w))
     | _ => .error .unassigned

/-- Decoder of the V1 slot (R76 to R78). -/
def decodeV1 (w : Word32) : Except Reject Instr :=
  do let wd ← VWidth.ofCode (fld 21 2 w); let h : VHdr := ⟨fld 28 4 w, wd, VType.ofCode (fld 18 3 w)⟩
     match (fld 23 5 w).toNat with
     | 0x00 => if w = 0 then .ok .nop else .error .nopBits
     | 0x01 => finish [] w (.vaddV1 h (fld 12 6 w) (fld 6 6 w) (fld 0 6 w))
     | 0x02 => finish [] w (.vsubV1 h (fld 12 6 w) (fld 6 6 w) (fld 0 6 w))
     | 0x03 => finish [] w (.vmulV1 h (fld 12 6 w) (fld 6 6 w) (fld 0 6 w))
     | 0x04 => finish [] w (.vfmaV1 h (fld 12 6 w) (fld 6 6 w) (fld 0 6 w))
     | 0x05 => finish [] w (.vfmsV1 h (fld 12 6 w) (fld 6 6 w) (fld 0 6 w))
     | 0x06 => finish [] w (.vminV1 h (fld 12 6 w) (fld 6 6 w) (fld 0 6 w))
     | 0x07 => finish [] w (.vmaxV1 h (fld 12 6 w) (fld 6 6 w) (fld 0 6 w))
     | 0x08 => finish [] w (.vminuV1 h (fld 12 6 w) (fld 6 6 w) (fld 0 6 w))
     | 0x09 => finish [] w (.vmaxuV1 h (fld 12 6 w) (fld 6 6 w) (fld 0 6 w))
     | 0x0A => finish [] w (.vandV1 h (fld 12 6 w) (fld 6 6 w) (fld 0 6 w))
     | 0x0B => finish [] w (.vorV1 h (fld 12 6 w) (fld 6 6 w) (fld 0 6 w))
     | 0x0C => finish [] w (.vxorV1 h (fld 12 6 w) (fld 6 6 w) (fld 0 6 w))
     | 0x0D => finish [] w (.vselV1 h (fld 12 6 w) (fld 6 6 w) (fld 0 6 w))
     | 0x0E => finish [(16, 2)] w (.vcmpeqV1 h (fld 12 4 w) (fld 6 6 w) (fld 0 6 w))
     | 0x0F => finish [(16, 2)] w (.vcmpltV1 h (fld 12 4 w) (fld 6 6 w) (fld 0 6 w))
     | 0x10 => finish [(16, 2)] w (.vcmpleV1 h (fld 12 4 w) (fld 6 6 w) (fld 0 6 w))
     | 0x11 => finish [(0, 6)] w (.vraddV1 h (fld 12 6 w) (fld 6 6 w))
     | 0x12 => finish [(0, 6)] w (.vrmaxV1 h (fld 12 6 w) (fld 6 6 w))
     | 0x13 => finish [(0, 6)] w (.vrmin h (fld 12 6 w) (fld 6 6 w))
     | 0x14 => do let op ← ScanOp.ofCode (fld 0 6 w); finish [] w (.vscan h (fld 12 6 w) (fld 6 6 w) op)
     | 0x15 => finish [(0, 6)] w (.vmaxexp h (fld 12 6 w) (fld 6 6 w))
     | 0x16 => finish [] w (.vclamp h (fld 12 6 w) (fld 6 6 w) (fld 0 6 w))
     | 0x17 => finish [(2, 4)] w (.vrnd h (fld 12 6 w) (fld 6 6 w) (Rm.ofCode (fld 0 2 w)))
     | 0x18 => do let rm ← VRm.ofCode (fld 3 3 w); finish [] w (.vcvtV1 h (fld 12 6 w) (fld 6 6 w) rm (VType.ofCode (fld 0 3 w)))
     | 0x19 => finish [(0, 6)] w (.vabsV1 h (fld 12 6 w) (fld 6 6 w))
     | 0x1A => finish [(0, 6)] w (.vnegV1 h (fld 12 6 w) (fld 6 6 w))
     | 0x1B => finish [(0, 6)] w (.vmovV1 h (fld 12 6 w) (fld 6 6 w))
     | _ => .error .unassigned

/-- Decoder of the V2 slot (R76 to R78). -/
def decodeV2 (w : Word32) : Except Reject Instr :=
  do let wd ← VWidth.ofCode (fld 21 2 w); let h : VHdr := ⟨fld 28 4 w, wd, VType.ofCode (fld 18 3 w)⟩
     match (fld 23 5 w).toNat with
     | 0x00 => if w = 0 then .ok .nop else .error .nopBits
     | 0x01 => finish [] w (.vaddV2 h (fld 12 6 w) (fld 6 6 w) (fld 0 6 w))
     | 0x02 => finish [] w (.vsubV2 h (fld 12 6 w) (fld 6 6 w) (fld 0 6 w))
     | 0x03 => finish [] w (.vmulV2 h (fld 12 6 w) (fld 6 6 w) (fld 0 6 w))
     | 0x04 => finish [] w (.vfmaV2 h (fld 12 6 w) (fld 6 6 w) (fld 0 6 w))
     | 0x05 => finish [] w (.vminV2 h (fld 12 6 w) (fld 6 6 w) (fld 0 6 w))
     | 0x06 => finish [] w (.vmaxV2 h (fld 12 6 w) (fld 6 6 w) (fld 0 6 w))
     | 0x07 => finish [] w (.vselV2 h (fld 12 6 w) (fld 6 6 w) (fld 0 6 w))
     | 0x08 => do let rm ← VRm.ofCode (fld 3 3 w); finish [] w (.vcvtV2 h (fld 12 6 w) (fld 6 6 w) rm (VType.ofCode (fld 0 3 w)))
     | 0x09 => finish [(0, 6)] w (.vmovV2 h (fld 12 6 w) (fld 6 6 w))
     | 0x0A => finish [(0, 6)] w (.vexp2 h (fld 12 6 w) (fld 6 6 w))
     | 0x0B => finish [(0, 6)] w (.vlog2 h (fld 12 6 w) (fld 6 6 w))
     | 0x0C => finish [(0, 6)] w (.vrcp h (fld 12 6 w) (fld 6 6 w))
     | 0x0D => finish [(0, 6)] w (.vrsq h (fld 12 6 w) (fld 6 6 w))
     | 0x0E => finish [(0, 6)] w (.vsqrt h (fld 12 6 w) (fld 6 6 w))
     | 0x0F => finish [(0, 6)] w (.vtanh h (fld 12 6 w) (fld 6 6 w))
     | 0x10 => finish [(0, 6)] w (.vsigm h (fld 12 6 w) (fld 6 6 w))
     | 0x11 => finish [(0, 6)] w (.vsin h (fld 12 6 w) (fld 6 6 w))
     | 0x12 => finish [(0, 6)] w (.vcos h (fld 12 6 w) (fld 6 6 w))
     | 0x13 => finish [(0, 6)] w (.verf h (fld 12 6 w) (fld 6 6 w))
     | 0x14 => finish [] w (.vldexp h (fld 12 6 w) (fld 6 6 w) (fld 0 6 w))
     | 0x15 => finish [(0, 6)] w (.vraddV2 h (fld 12 6 w) (fld 6 6 w))
     | 0x16 => finish [(0, 6)] w (.vrmaxV2 h (fld 12 6 w) (fld 6 6 w))
     | 0x17 => finish [(16, 2)] w (.vcmpltV2 h (fld 12 4 w) (fld 6 6 w) (fld 0 6 w))
     | 0x18 => finish [(16, 2)] w (.vcmpeqV2 h (fld 12 4 w) (fld 6 6 w) (fld 0 6 w))
     | _ => .error .unassigned

/-- Decoder of the X slot (R79, R80). -/
def decodeX (w : Word32) : Except Reject Instr :=
  let g : PReg := fld 28 4 w
  match (fld 25 3 w).toNat with
  | 0x00 => if w = 0 then .ok .nop else .error .nopBits
  | 0x01 => do let a ← MSrc.ofCode (fld 16 5 w); let b ← MSrc.ofCode (fld 11 5 w); let dr ← XDrain.ofCode (fld 9 2 w); finish [(0, 2)] w (.xacc g (bit 24 w) (XFmt.ofCode (fld 21 3 w)) a b (fld 5 3 w) (fld 2 3 w) dr (bit 8 w))
  | 0x02 => do let a ← MSrc.ofCode (fld 16 5 w); let b ← MSrc.ofCode (fld 11 5 w); let dr ← XDrain.ofCode (fld 9 2 w); finish [(0, 2)] w (.xaccz g (bit 24 w) (XFmt.ofCode (fld 21 3 w)) a b (fld 5 3 w) (fld 2 3 w) dr (bit 8 w))
  | 0x03 => do let dr ← XDrain.ofCode (fld 9 2 w); finish [(0, 8), (11, 13)] w (.xzero g (bit 24 w) dr (bit 8 w))
  | 0x04 => do let dr ← XDrain.ofCode (fld 9 2 w); finish [(0, 8), (11, 14)] w (.xdrn g dr (bit 8 w))
  | _ => .error .unassigned

/-- Decoder of the L slot (R81). -/
def decodeL (w : Word32) : Except Reject Instr :=
  let g : PReg := fld 28 4 w
  match (fld 22 6 w).toNat with
  | 0x00 => if w = 0 then .ok .nop else .error .nopBits
  | 0x01 => finish [] w (.ld g (fld 16 6 w) (fld 10 6 w) (fld 0 10 w))
  | 0x02 => finish [] w (.st g (fld 16 6 w) (fld 10 6 w) (fld 0 10 w))
  | 0x03 => finish [] w (.stm g (fld 16 6 w) (fld 10 6 w) (fld 0 10 w))
  | 0x04 => finish [] w (.ldt g (fld 16 6 w) (fld 10 6 w) (fld 0 10 w))
  | 0x05 => finish [] w (.ldb g (fld 16 6 w) (fld 10 6 w) (fld 0 10 w))
  | 0x06 => finish [(0, 4)] w (.rmrg g (fld 16 6 w) (fld 10 6 w) (fld 4 6 w))
  | 0x07 => finish [] w (.gld g (fld 16 6 w) (fld 10 6 w) (fld 0 10 w))
  | 0x08 => finish [] w (.gst g (fld 16 6 w) (fld 10 6 w) (fld 0 10 w))
  | 0x09 =>
    match (fld 0 4 w).toNat with
    | 0 => finish [] w (.aopAdd g (fld 16 6 w) (fld 10 6 w) (fld 4 6 w))
    | 1 => finish [] w (.aopFadd32 g (fld 16 6 w) (fld 10 6 w) (fld 4 6 w))
    | 2 => finish [] w (.aopMin g (fld 16 6 w) (fld 10 6 w) (fld 4 6 w))
    | 3 => finish [] w (.aopMax g (fld 16 6 w) (fld 10 6 w) (fld 4 6 w))
    | 4 => finish [] w (.aopMinu g (fld 16 6 w) (fld 10 6 w) (fld 4 6 w))
    | 5 => finish [] w (.aopMaxu g (fld 16 6 w) (fld 10 6 w) (fld 4 6 w))
    | 6 => finish [] w (.aopAnd g (fld 16 6 w) (fld 10 6 w) (fld 4 6 w))
    | 7 => finish [] w (.aopOr g (fld 16 6 w) (fld 10 6 w) (fld 4 6 w))
    | 8 => finish [] w (.aopXor g (fld 16 6 w) (fld 10 6 w) (fld 4 6 w))
    | 9 => finish [] w (.aopXchg g (fld 16 6 w) (fld 10 6 w) (fld 4 6 w))
    | 10 => finish [] w (.aopCas g (fld 16 6 w) (fld 10 6 w) (fld 4 6 w))
    | _ => .error .reserved
  | 0x0A =>
    match (fld 3 3 w).toNat with
    | 0 => finish [(0, 3)] w (.rwlRdacq g (fld 16 6 w) (fld 10 6 w) (fld 6 4 w))
    | 1 => finish [(0, 3)] w (.rwlRdrel g (fld 16 6 w) (fld 10 6 w) (fld 6 4 w))
    | 2 => finish [(0, 3)] w (.rwlWracq g (fld 16 6 w) (fld 10 6 w) (fld 6 4 w))
    | 3 => finish [(0, 3)] w (.rwlWrrel g (fld 16 6 w) (fld 10 6 w) (fld 6 4 w))
    | 4 => finish [(0, 3)] w (.rwlSetpref g (fld 16 6 w) (fld 10 6 w) (fld 6 4 w))
    | _ => .error .reserved
  | 0x0B =>
    match (fld 17 2 w).toNat with
    | 0 => do let sc ← FScope.ofCode (fld 19 3 w); finish [(0, 17)] w (.fenceAcq g sc)
    | 1 => do let sc ← FScope.ofCode (fld 19 3 w); finish [(0, 17)] w (.fenceRel g sc)
    | 2 => do let sc ← FScope.ofCode (fld 19 3 w); finish [(0, 17)] w (.fenceFull g sc)
    | _ => .error .reserved
  | 0x0C => finish [(0, 4)] w (.ldx g (fld 16 6 w) (fld 10 6 w) (fld 4 6 w))
  | 0x0D => finish [(0, 4)] w (.stx g (fld 16 6 w) (fld 10 6 w) (fld 4 6 w))
  | _ => .error .unassigned

/-- Decoder of the Q slot (R82). -/
def decodeQ (w : Word32) : Except Reject Instr :=
  let g : PReg := fld 28 4 w
  match (fld 22 6 w).toNat with
  | 0x00 => if w = 0 then .ok .nop else .error .nopBits
  | 0x01 => finish [(0, 13)] w (.sbind g (fld 19 3 w) (fld 13 6 w))
  | 0x02 => finish [(0, 19)] w (.sfree g (fld 19 3 w))
  | 0x03 => finish [(0, 11)] w (.sadv g (fld 19 3 w) (fld 11 8 w))
  | 0x04 => finish [(0, 4)] w (.gls g (fld 17 5 w) (bit 16 w) (fld 10 6 w) (fld 4 6 w))
  | 0x05 => finish [(0, 10), (16, 1)] w (.zld g (fld 17 5 w) (fld 10 6 w))
  | 0x06 => finish [(0, 4), (16, 1)] w (.eld g (fld 17 5 w) (fld 10 6 w) (fld 4 6 w))
  | 0x07 => finish [(0, 15)] w (.xcfg g (bit 21 w) (fld 15 6 w))
  | 0x08 =>
    match (fld 20 2 w).toNat with
    | 0 => finish [(0, 10)] w (.xmaskRow g (fld 16 4 w) (fld 10 6 w))
    | 1 => finish [(0, 20)] w (.xmaskFill g)
    | 2 => finish [(0, 20)] w (.xmaskInv g)
    | _ => .error .reserved
  | 0x09 => finish [(0, 10)] w (.jsub g (fld 16 6 w) (fld 10 6 w))
  | 0x0A => finish [(0, 10), (16, 6)] w (.jcan g (fld 10 6 w))
  | 0x0B =>
    match (fld 8 1 w).toNat with
    | 0 => finish [(0, 7)] w (.barmSet g (fld 15 7 w) (fld 9 6 w) (bit 7 w))
    | _ => finish [(0, 7)] w (.barmAdd g (fld 15 7 w) (fld 9 6 w) (bit 7 w))
  | 0x0C => finish [(0, 9)] w (.barq g (fld 16 6 w) (fld 9 7 w))
  | 0x0D => finish [(0, 10), (16, 6)] w (.uien g (fld 10 6 w))
  | 0x0E => finish [(0, 10), (16, 6)] w (.btake g (fld 10 6 w))
  | 0x0F => finish [(0, 4), (16, 6)] w (.bgive g (fld 10 6 w) (fld 4 6 w))
  | 0x10 => finish [(0, 10), (16, 6)] w (.bpub g (fld 10 6 w))
  | 0x11 => finish [(0, 10), (16, 6)] w (.bret g (fld 10 6 w))
  | 0x12 => finish [(0, 16)] w (.tqbind g (fld 16 6 w))
  | 0x13 => finish [(0, 19)] w (.tqfl g (fld 19 3 w))
  | 0x14 => finish [(0, 10)] w (.nmsub g (fld 16 6 w) (fld 10 6 w))
  | 0x15 => finish [(0, 10)] w (.nmfn g (fld 16 6 w) (fld 10 6 w))
  | 0x16 => finish [(0, 18)] w (.phsel g (fld 18 4 w))
  | 0x17 => finish [(0, 6)] w (.phld g (bit 21 w) (fld 15 6 w) (fld 6 9 w))
  | 0x18 => finish [(0, 10)] w (.lnch g (fld 16 6 w) (fld 10 6 w))
  | 0x19 =>
    match (fld 19 3 w).toNat with
    | 1 => finish [(0, 13)] w (.cancLaunch g (fld 13 6 w))
    | 2 => finish [(0, 13)] w (.cancGraph g (fld 13 6 w))
    | 3 => finish [(0, 13)] w (.cancPhase g (fld 13 6 w))
    | 4 => finish [(0, 13)] w (.cancJob g (fld 13 6 w))
    | _ => .error .reserved
  | 0x1A => finish [(0, 10)] w (.smpsub g (fld 16 6 w) (fld 10 6 w))
  | 0x1B => finish [(0, 16)] w (.seedq g (fld 16 6 w))
  | _ => .error .unassigned

/-- Decoder of slot number k (R57). -/
def decodeSlot (k : Nat) (w : Word32) : Except Reject Instr :=
  match k with
  | 0 => decodeC w
  | 1 => decodeS w
  | 2 => decodeV0 w
  | 3 => decodeV1 w
  | 4 => decodeV2 w
  | 5 => decodeX w
  | 6 => decodeL w
  | _ => decodeQ w

/-- Slot word k of a bundle (R57). -/
def slotWord (b : BitVec 256) (k : Nat) : Word32 := BitVec.ofNat 32 (b.toNat / 2 ^ (32 * k))

/-- The eight slots of a bundle in slot order. -/
def decodeBundle (b : BitVec 256) : List (Except Reject Instr) :=
  [0, 1, 2, 3, 4, 5, 6, 7].map (fun k => decodeSlot k (slotWord b k))

/-- The little-endian number a list of bytes stands for (R2). -/
def leNat : List Byte → Nat
  | [] => 0
  | b :: bs => b.toNat + 256 * leNat bs

/-- Decoding of bytes: 32 bytes are a bundle; a shorter list is read with zero bytes above it (R57, R58). -/
def decodeBytes (bs : List Byte) : List (Except Reject Instr) := decodeBundle (BitVec.ofNat 256 (leNat bs))

/-- The occupied slots' decodings (R20). -/
def occupied (b : BitVec 256) : List (Except Reject Instr) :=
  ([0, 1, 2, 3, 4, 5, 6, 7].filter (fun k => slotWord b k ≠ 0)).map (fun k => decodeSlot k (slotWord b k))

/-- The bundle whose bits are w, numbered from bit 0 of slot 0; bits from nbits up are zero. -/
def tableBundle (nbits w : Nat) : BitVec 256 := BitVec.ofNat 256 (w % 2 ^ nbits)

/-- The instruction the decoder reads from a bundle with at most one occupied slot; none where it refuses. -/
def decodeTableWord (nbits w : Nat) : Option Instr :=
  match occupied (tableBundle nbits w) with
  | [] => some .nop
  | [.ok i] => some i
  | _ => none

/-- The slot an instruction stands in (R17, R57); none for NOP, which stands in any, and for machine steps. -/
def Instr.slot : Instr → Option Nat
  | .nop => none
  | .hold _ => some 0
  | .addC _ _ _ _ => some 0
  | .addS _ _ _ _ => some 1
  | .subC _ _ _ _ => some 0
  | .subS _ _ _ _ => some 1
  | .andC _ _ _ _ => some 0
  | .andS _ _ _ _ => some 1
  | .orC _ _ _ _ => some 0
  | .orS _ _ _ _ => some 1
  | .xorC _ _ _ _ => some 0
  | .xorS _ _ _ _ => some 1
  | .andnC _ _ _ _ => some 0
  | .andnS _ _ _ _ => some 1
  | .shlC _ _ _ _ => some 0
  | .shlS _ _ _ _ => some 1
  | .shrC _ _ _ _ => some 0
  | .shrS _ _ _ _ => some 1
  | .sraC _ _ _ _ => some 0
  | .sraS _ _ _ _ => some 1
  | .minC _ _ _ _ => some 0
  | .maxC _ _ _ _ => some 0
  | .minuC _ _ _ _ => some 0
  | .maxuC _ _ _ _ => some 0
  | .rol _ _ _ _ => some 1
  | .clz _ _ _ => some 1
  | .ctz _ _ _ => some 1
  | .popc _ _ _ => some 1
  | .liC _ _ _ => some 0
  | .liS _ _ _ => some 1
  | .addiC _ _ _ => some 0
  | .addiS _ _ _ => some 1
  | .lihC _ _ _ => some 0
  | .lihS _ _ _ => some 1
  | .mul _ _ _ _ => some 1
  | .mulh _ _ _ _ => some 1
  | .mulhu _ _ _ _ => some 1
  | .div _ _ _ _ => some 1
  | .divu _ _ _ _ => some 1
  | .rem _ _ _ _ => some 1
  | .remu _ _ _ _ => some 1
  | .cmpeqC _ _ _ _ => some 0
  | .cmpeqS _ _ _ _ => some 1
  | .cmpltC _ _ _ _ => some 0
  | .cmpltS _ _ _ _ => some 1
  | .cmpltuC _ _ _ _ => some 0
  | .cmpltuS _ _ _ _ => some 1
  | .cmpleC _ _ _ _ => some 0
  | .cmpleS _ _ _ _ => some 1
  | .cmpleuC _ _ _ _ => some 0
  | .cmpleuS _ _ _ _ => some 1
  | .cmpeqi _ _ _ _ => some 0
  | .cmplti _ _ _ _ => some 0
  | .pand _ _ _ _ => some 0
  | .por _ _ _ _ => some 0
  | .pxor _ _ _ _ => some 0
  | .pandn _ _ _ _ => some 0
  | .sel _ _ _ _ _ => some 1
  | .movp _ _ _ => some 1
  | .pmov _ _ _ => some 1
  | .fadd _ _ _ _ _ _ => some 1
  | .fsub _ _ _ _ _ _ => some 1
  | .fmul _ _ _ _ _ _ => some 1
  | .ffma _ _ _ _ _ _ => some 1
  | .fcmp _ _ _ _ _ _ => some 1
  | .fcvt _ _ _ _ _ _ => some 1
  | .xv _ _ _ _ _ => some 1
  | .vx _ _ _ _ _ => some 1
  | .pbr _ _ _ => some 0
  | .pbrx _ _ _ => some 0
  | .br _ _ => some 0
  | .call _ _ => some 0
  | .ret _ => some 0
  | .loop _ _ _ => some 0
  | .brl _ _ => some 0
  | .segb _ => some 0
  | .phend _ => some 0
  | .tend _ => some 0
  | .realign _ => some 0
  | .trap _ _ => some 0
  | .rdc _ _ _ => some 0
  | .wrc _ _ _ => some 0
  | .ifence _ => some 0
  | .uiret _ => some 0
  | .waiti _ => some 0
  | .vaddV0 _ _ _ _ => some 2
  | .vaddV1 _ _ _ _ => some 3
  | .vaddV2 _ _ _ _ => some 4
  | .vsubV0 _ _ _ _ => some 2
  | .vsubV1 _ _ _ _ => some 3
  | .vsubV2 _ _ _ _ => some 4
  | .vmulV0 _ _ _ _ => some 2
  | .vmulV1 _ _ _ _ => some 3
  | .vmulV2 _ _ _ _ => some 4
  | .vfmaV0 _ _ _ _ => some 2
  | .vfmaV1 _ _ _ _ => some 3
  | .vfmaV2 _ _ _ _ => some 4
  | .vfmsV0 _ _ _ _ => some 2
  | .vfmsV1 _ _ _ _ => some 3
  | .vminV0 _ _ _ _ => some 2
  | .vminV1 _ _ _ _ => some 3
  | .vminV2 _ _ _ _ => some 4
  | .vmaxV0 _ _ _ _ => some 2
  | .vmaxV1 _ _ _ _ => some 3
  | .vmaxV2 _ _ _ _ => some 4
  | .vminuV0 _ _ _ _ => some 2
  | .vminuV1 _ _ _ _ => some 3
  | .vmaxuV0 _ _ _ _ => some 2
  | .vmaxuV1 _ _ _ _ => some 3
  | .vandV0 _ _ _ _ => some 2
  | .vandV1 _ _ _ _ => some 3
  | .vorV0 _ _ _ _ => some 2
  | .vorV1 _ _ _ _ => some 3
  | .vxorV0 _ _ _ _ => some 2
  | .vxorV1 _ _ _ _ => some 3
  | .vandn _ _ _ _ => some 2
  | .vshl _ _ _ _ => some 2
  | .vshr _ _ _ _ => some 2
  | .vsra _ _ _ _ => some 2
  | .vabsV0 _ _ _ => some 2
  | .vabsV1 _ _ _ => some 3
  | .vnegV0 _ _ _ => some 2
  | .vnegV1 _ _ _ => some 3
  | .vmovV0 _ _ _ => some 2
  | .vmovV1 _ _ _ => some 3
  | .vmovV2 _ _ _ => some 4
  | .vcmpeqV0 _ _ _ _ => some 2
  | .vcmpeqV1 _ _ _ _ => some 3
  | .vcmpeqV2 _ _ _ _ => some 4
  | .vcmpltV0 _ _ _ _ => some 2
  | .vcmpltV1 _ _ _ _ => some 3
  | .vcmpltV2 _ _ _ _ => some 4
  | .vcmpleV0 _ _ _ _ => some 2
  | .vcmpleV1 _ _ _ _ => some 3
  | .vselV0 _ _ _ _ => some 2
  | .vselV1 _ _ _ _ => some 3
  | .vselV2 _ _ _ _ => some 4
  | .vclamp _ _ _ _ => some 3
  | .vcvtV0 _ _ _ _ _ => some 2
  | .vcvtV1 _ _ _ _ _ => some 3
  | .vcvtV2 _ _ _ _ _ => some 4
  | .vrnd _ _ _ _ => some 3
  | .vldexp _ _ _ _ => some 4
  | .vexpo _ _ _ => some 2
  | .vmaxexp _ _ _ => some 3
  | .vshuf _ _ _ _ => some 2
  | .vrotl _ _ _ _ => some 2
  | .vbcl _ _ _ _ => some 2
  | .vpack _ _ _ _ => some 2
  | .vunpk _ _ _ _ _ => some 2
  | .vraddV1 _ _ _ => some 3
  | .vraddV2 _ _ _ => some 4
  | .vrmaxV1 _ _ _ => some 3
  | .vrmaxV2 _ _ _ => some 4
  | .vrmin _ _ _ => some 3
  | .vscan _ _ _ _ => some 3
  | .vexp2 _ _ _ => some 4
  | .vlog2 _ _ _ => some 4
  | .vrcp _ _ _ => some 4
  | .vrsq _ _ _ => some 4
  | .vsqrt _ _ _ => some 4
  | .vtanh _ _ _ => some 4
  | .vsigm _ _ _ => some 4
  | .vsin _ _ _ => some 4
  | .vcos _ _ _ => some 4
  | .verf _ _ _ => some 4
  | .xacc _ _ _ _ _ _ _ _ _ => some 5
  | .xaccz _ _ _ _ _ _ _ _ _ => some 5
  | .xzero _ _ _ _ => some 5
  | .xdrn _ _ _ => some 5
  | .ld _ _ _ _ => some 6
  | .st _ _ _ _ => some 6
  | .stm _ _ _ _ => some 6
  | .ldt _ _ _ _ => some 6
  | .ldb _ _ _ _ => some 6
  | .ldx _ _ _ _ => some 6
  | .stx _ _ _ _ => some 6
  | .rmrg _ _ _ _ => some 6
  | .gld _ _ _ _ => some 6
  | .gst _ _ _ _ => some 6
  | .aopAdd _ _ _ _ => some 6
  | .aopFadd32 _ _ _ _ => some 6
  | .aopMin _ _ _ _ => some 6
  | .aopMax _ _ _ _ => some 6
  | .aopMinu _ _ _ _ => some 6
  | .aopMaxu _ _ _ _ => some 6
  | .aopAnd _ _ _ _ => some 6
  | .aopOr _ _ _ _ => some 6
  | .aopXor _ _ _ _ => some 6
  | .aopXchg _ _ _ _ => some 6
  | .aopCas _ _ _ _ => some 6
  | .rwlRdacq _ _ _ _ => some 6
  | .rwlRdrel _ _ _ _ => some 6
  | .rwlWracq _ _ _ _ => some 6
  | .rwlWrrel _ _ _ _ => some 6
  | .rwlSetpref _ _ _ _ => some 6
  | .fenceAcq _ _ => some 6
  | .fenceRel _ _ => some 6
  | .fenceFull _ _ => some 6
  | .sbind _ _ _ => some 7
  | .sfree _ _ => some 7
  | .sadv _ _ _ => some 7
  | .gls _ _ _ _ _ => some 7
  | .zld _ _ _ => some 7
  | .eld _ _ _ _ => some 7
  | .xcfg _ _ _ => some 7
  | .xmaskRow _ _ _ => some 7
  | .xmaskFill _ => some 7
  | .xmaskInv _ => some 7
  | .btake _ _ => some 7
  | .bgive _ _ _ => some 7
  | .bpub _ _ => some 7
  | .bret _ _ => some 7
  | .jsub _ _ _ => some 7
  | .jcan _ _ => some 7
  | .barmSet _ _ _ _ => some 7
  | .barmAdd _ _ _ _ => some 7
  | .barq _ _ _ => some 7
  | .uien _ _ => some 7
  | .tqbind _ _ => some 7
  | .tqfl _ _ => some 7
  | .nmsub _ _ _ => some 7
  | .nmfn _ _ _ => some 7
  | .phsel _ _ => some 7
  | .phld _ _ _ _ => some 7
  | .lnch _ _ _ => some 7
  | .cancLaunch _ _ => some 7
  | .cancGraph _ _ => some 7
  | .cancPhase _ _ => some 7
  | .cancJob _ _ => some 7
  | .smpsub _ _ _ => some 7
  | .seedq _ _ => some 7
  | .untimedResultLand _ => none
  | .homeAccess _ => none
  | .writeAck _ => none
  | .localStreamFill _ _ => none
  | .streamRequest _ _ => none
  | .ringLanding _ => none
  | .ringStageFill _ _ => none
  | .transposerRead _ => none
  | .peerReadServe _ => none
  | .freezeAnnounce _ _ _ => none
  | .freezeTakeEffect _ => none
  | .freezeResume _ => none
  | .freezeTimeout _ => none
  | .groupStop _ => none
  | .bodyLengthExceeded _ => none
  | .weirFreezeRequest _ => none
  | .clockStretch _ => none
  | .stretchFreeze _ => none
  | .criticalMargin _ => none
  | .opctlGoSync => none
  | .opctlGoRunning => none
  | .opSwitch => none
  | .runningRampStep => none
  | .powerLoop _ _ => none
  | .pfWindowEnd => none
  | .trapactContinue _ _ => none
  | .trapactAbort _ _ => none
  | .groupResume _ => none
  | .uiDeliver _ => none
  | .slotStart => none
  | .preemptStop _ => none
  | .preemptSave _ => none
  | .preemptResume _ => none
  | .phldLoadDone _ => none
  | .phaseLatch => none
  | .pageRequestAnswer _ => none
  | .refreshDebtRepaid => none
  | .sluiceLastArrival => none
  | .slackOverrun => none
  | .phaseStart _ => none
  | .seqctlGo => none
  | .seqctlAbort => none
  | .partitionPeriod => none
  | .jcopy _ _ => none
  | .jcopyt _ _ => none
  | .jgather _ _ => none
  | .jscatter _ _ => none
  | .jred _ _ => none
  | .jsnap _ _ => none
  | .jobComplete _ _ => none
  | .snapshotBlockCopy _ => none
  | .nadd _ => none
  | .naxpy _ => none
  | .nscal _ => none
  | .nsgdw _ => none
  | .nadamw _ => none
  | .nfill _ => none
  | .nred _ => none
  | .ncopy _ => none
  | .ncvt _ => none
  | .nchk _ => none
  | .nmStep _ => none
  | .nmCommandComplete _ => none
  | .samplerFetch _ => none
  | .samplerExecute _ => none
  | .samplerCommit _ => none
  | .samplerComplete _ => none
  | .kvLost _ => none
  | .flitReceive _ _ => none
  | .nakRepeat _ => none
  | .replayWindowEnd _ => none
  | .trainingComplete _ _ => none
  | .pctlRetrain _ => none
  | .tqrow _ => none
  | .rd _ => none
  | .wr _ => none
  | .rsp _ => none
  | .atom _ => none
  | .sluiceArrival _ => none
  | .sluiceStart _ => none
  | .timeRequest _ => none
  | .timeReply _ => none
  | .timeStep _ => none
  | .timeReport _ => none
  | .tqclose _ => none
  | .tqack _ => none
  | .freezeMessage _ _ _ => none
  | .freezeMessageLate _ => none
  | .realignBegin => none
  | .timeExchangeSend => none
  | .cycStep => none
  | .realignTimeout => none
  | .replayEnd _ => none
  | .auditLogCopy _ => none
  | .auditReplay _ => none
  | .auditCompare _ => none
  | .rcvmarkWrite _ => none
  | .recoveryRecordWrite => none
  | .registerWrite _ _ _ _ => none
  | .hostRead _ _ => none
  | .hostWrite _ _ => none
  | .hostFetchadd _ _ _ => none
  | .hostSwap _ _ _ => none
  | .hostCas _ _ _ _ => none
  | .load _ => none
  | .attest _ => none
  | .seed _ => none
  | .abort _ => none
  | .tlbinvWrite _ => none
  | .tlbinvDone => none
  | .startGo => none
  | .startClr => none
  | .fundamentalReset => none
  | .powerOn => none
  | .powerLoss => none
  | .startTimeout => none
  | .entropyHealthFail => none
  | .entropyPass => none
  | .inFlightResultLanding _ => none
  | .preTranslationArrival => none
  | .realignComplete => none
  | .stbaseWrite _ => none

/-- The number whose fields at the given low bits hold the given values. -/
def place : List (Nat × Nat) → Nat
  | [] => 0
  | (v, lo) :: r => v * 2 ^ lo + place r
def wordC (h : CHdr) (op : Nat) (fs : List (Nat × Nat)) : Nat := place ((h.g.toNat, 28) :: (h.hold.toNat, 24) :: (op, 18) :: fs)
def wordG (g : PReg) (lo op : Nat) (fs : List (Nat × Nat)) : Nat := place ((g.toNat, 28) :: (op, lo) :: fs)
def wordV (h : VHdr) (op : Nat) (fs : List (Nat × Nat)) : Nat :=
  place ((h.m.toNat, 28) :: (op, 23) :: (h.w.code, 21) :: (h.t.code, 18) :: fs)

/-- The bits of an instruction's slot word, as a number (R72 to R82); 0 for NOP and for machine steps. -/
def encodeNat : Instr → Nat
  | .nop => 0
  | .hold n => n.toNat * 2 ^ 24
  | .addC h d a b => wordC h 0x01 [(d.toNat, 12), (a.toNat, 6), (b.toNat, 0)]
  | .addS g d a b => wordG g 22 0x01 [(d.toNat, 16), (a.toNat, 10), (b.toNat, 4)]
  | .subC h d a b => wordC h 0x02 [(d.toNat, 12), (a.toNat, 6), (b.toNat, 0)]
  | .subS g d a b => wordG g 22 0x02 [(d.toNat, 16), (a.toNat, 10), (b.toNat, 4)]
  | .andC h d a b => wordC h 0x03 [(d.toNat, 12), (a.toNat, 6), (b.toNat, 0)]
  | .andS g d a b => wordG g 22 0x0A [(d.toNat, 16), (a.toNat, 10), (b.toNat, 4)]
  | .orC h d a b => wordC h 0x04 [(d.toNat, 12), (a.toNat, 6), (b.toNat, 0)]
  | .orS g d a b => wordG g 22 0x0B [(d.toNat, 16), (a.toNat, 10), (b.toNat, 4)]
  | .xorC h d a b => wordC h 0x05 [(d.toNat, 12), (a.toNat, 6), (b.toNat, 0)]
  | .xorS g d a b => wordG g 22 0x0C [(d.toNat, 16), (a.toNat, 10), (b.toNat, 4)]
  | .andnC h d a b => wordC h 0x06 [(d.toNat, 12), (a.toNat, 6), (b.toNat, 0)]
  | .andnS g d a b => wordG g 22 0x0D [(d.toNat, 16), (a.toNat, 10), (b.toNat, 4)]
  | .shlC h d a b => wordC h 0x07 [(d.toNat, 12), (a.toNat, 6), (b.toNat, 0)]
  | .shlS g d a b => wordG g 22 0x0E [(d.toNat, 16), (a.toNat, 10), (b.toNat, 4)]
  | .shrC h d a b => wordC h 0x08 [(d.toNat, 12), (a.toNat, 6), (b.toNat, 0)]
  | .shrS g d a b => wordG g 22 0x0F [(d.toNat, 16), (a.toNat, 10), (b.toNat, 4)]
  | .sraC h d a b => wordC h 0x09 [(d.toNat, 12), (a.toNat, 6), (b.toNat, 0)]
  | .sraS g d a b => wordG g 22 0x10 [(d.toNat, 16), (a.toNat, 10), (b.toNat, 4)]
  | .minC h d a b => wordC h 0x0A [(d.toNat, 12), (a.toNat, 6), (b.toNat, 0)]
  | .maxC h d a b => wordC h 0x0B [(d.toNat, 12), (a.toNat, 6), (b.toNat, 0)]
  | .minuC h d a b => wordC h 0x0C [(d.toNat, 12), (a.toNat, 6), (b.toNat, 0)]
  | .maxuC h d a b => wordC h 0x0D [(d.toNat, 12), (a.toNat, 6), (b.toNat, 0)]
  | .rol g d a b => wordG g 22 0x11 [(d.toNat, 16), (a.toNat, 10), (b.toNat, 4)]
  | .clz g d a => wordG g 22 0x12 [(d.toNat, 16), (a.toNat, 10)]
  | .ctz g d a => wordG g 22 0x13 [(d.toNat, 16), (a.toNat, 10)]
  | .popc g d a => wordG g 22 0x14 [(d.toNat, 16), (a.toNat, 10)]
  | .liC h d imm => wordC h 0x0F [(d.toNat, 12), (imm.toNat, 0)]
  | .liS g d imm => wordG g 22 0x17 [(d.toNat, 16), (imm.toNat, 0)]
  | .addiC h d imm => wordC h 0x0E [(d.toNat, 12), (imm.toNat, 0)]
  | .addiS g d imm => wordG g 22 0x16 [(d.toNat, 16), (imm.toNat, 0)]
  | .lihC h d imm => wordC h 0x10 [(d.toNat, 12), (imm.toNat, 0)]
  | .lihS g d imm => wordG g 22 0x18 [(d.toNat, 16), (imm.toNat, 0)]
  | .mul g d a b => wordG g 22 0x03 [(d.toNat, 16), (a.toNat, 10), (b.toNat, 4)]
  | .mulh g d a b => wordG g 22 0x04 [(d.toNat, 16), (a.toNat, 10), (b.toNat, 4)]
  | .mulhu g d a b => wordG g 22 0x05 [(d.toNat, 16), (a.toNat, 10), (b.toNat, 4)]
  | .div g d a b => wordG g 22 0x06 [(d.toNat, 16), (a.toNat, 10), (b.toNat, 4)]
  | .divu g d a b => wordG g 22 0x07 [(d.toNat, 16), (a.toNat, 10), (b.toNat, 4)]
  | .rem g d a b => wordG g 22 0x08 [(d.toNat, 16), (a.toNat, 10), (b.toNat, 4)]
  | .remu g d a b => wordG g 22 0x09 [(d.toNat, 16), (a.toNat, 10), (b.toNat, 4)]
  | .cmpeqC h pd a b => wordC h 0x12 [(pd.toNat, 14), (a.toNat, 6), (b.toNat, 0)]
  | .cmpeqS g pd a b => wordG g 22 0x1B [(pd.toNat, 18), (a.toNat, 10), (b.toNat, 4)]
  | .cmpltC h pd a b => wordC h 0x13 [(pd.toNat, 14), (a.toNat, 6), (b.toNat, 0)]
  | .cmpltS g pd a b => wordG g 22 0x1C [(pd.toNat, 18), (a.toNat, 10), (b.toNat, 4)]
  | .cmpltuC h pd a b => wordC h 0x14 [(pd.toNat, 14), (a.toNat, 6), (b.toNat, 0)]
  | .cmpltuS g pd a b => wordG g 22 0x1D [(pd.toNat, 18), (a.toNat, 10), (b.toNat, 4)]
  | .cmpleC h pd a b => wordC h 0x15 [(pd.toNat, 14), (a.toNat, 6), (b.toNat, 0)]
  | .cmpleS g pd a b => wordG g 22 0x1E [(pd.toNat, 18), (a.toNat, 10), (b.toNat, 4)]
  | .cmpleuC h pd a b => wordC h 0x16 [(pd.toNat, 14), (a.toNat, 6), (b.toNat, 0)]
  | .cmpleuS g pd a b => wordG g 22 0x1F [(pd.toNat, 18), (a.toNat, 10), (b.toNat, 4)]
  | .cmpeqi h pd a imm => wordC h 0x17 [(pd.toNat, 14), (a.toNat, 8), (imm.toNat, 0)]
  | .cmplti h pd a imm => wordC h 0x18 [(pd.toNat, 14), (a.toNat, 8), (imm.toNat, 0)]
  | .pand h pd pa pb => wordC h 0x19 [(pd.toNat, 14), (pa.toNat, 10), (pb.toNat, 6)]
  | .por h pd pa pb => wordC h 0x1A [(pd.toNat, 14), (pa.toNat, 10), (pb.toNat, 6)]
  | .pxor h pd pa pb => wordC h 0x1B [(pd.toNat, 14), (pa.toNat, 10), (pb.toNat, 6)]
  | .pandn h pd pa pb => wordC h 0x1C [(pd.toNat, 14), (pa.toNat, 10), (pb.toNat, 6)]
  | .sel g d a b pc => wordG g 22 0x15 [(d.toNat, 16), (a.toNat, 10), (b.toNat, 4), (pc.toNat, 0)]
  | .movp g d pa => wordG g 22 0x19 [(d.toNat, 16), (pa.toNat, 12)]
  | .pmov g pd a => wordG g 22 0x1A [(pd.toNat, 18), (a.toNat, 10)]
  | .fadd g f rm d a b => wordG g 22 0x20 [(d.toNat, 16), (a.toNat, 10), (b.toNat, 4), (f.code, 2), (rm.code, 0)]
  | .fsub g f rm d a b => wordG g 22 0x21 [(d.toNat, 16), (a.toNat, 10), (b.toNat, 4), (f.code, 2), (rm.code, 0)]
  | .fmul g f rm d a b => wordG g 22 0x22 [(d.toNat, 16), (a.toNat, 10), (b.toNat, 4), (f.code, 2), (rm.code, 0)]
  | .ffma g f rm d a b => wordG g 22 0x23 [(d.toNat, 16), (a.toNat, 10), (b.toNat, 4), (f.code, 2), (rm.code, 0)]
  | .fcmp g f c pd a b => wordG g 22 0x24 [(pd.toNat, 18), (a.toNat, 10), (b.toNat, 4), (f.code, 2), (c.code, 0)]
  | .fcvt g fr ty rm d a => wordG g 22 0x25 [(d.toNat, 16), (a.toNat, 10), (fr.code, 7), (ty.code, 4), (rm.code, 0)]
  | .xv g t lane d va => wordG g 22 0x26 [(d.toNat, 16), (va.toNat, 10), (lane.toNat, 3), (t.code, 0)]
  | .vx g t lane vd a => wordG g 22 0x27 [(vd.toNat, 16), (a.toNat, 10), (lane.toNat, 3), (t.code, 0)]
  | .pbr h t off => wordC h 0x23 [(t.toNat, 15), (off.toNat, 0)]
  | .pbrx h t a => wordC h 0x24 [(t.toNat, 15), (a.toNat, 9)]
  | .br h t => wordC h 0x20 [(t.toNat, 15)]
  | .call h t => wordC h 0x21 [(t.toNat, 15)]
  | .ret h => wordC h 0x22 []
  | .loop h a ec => wordC h 0x25 [(a.toNat, 12), (ec.toNat, 0)]
  | .brl h t => wordC h 0x26 [(t.toNat, 15)]
  | .segb h => wordC h 0x27 []
  | .phend h => wordC h 0x28 []
  | .tend h => wordC h 0x29 []
  | .realign h => wordC h 0x2A []
  | .trap h code => wordC h 0x2B [(code.toNat, 0)]
  | .rdc h d n => wordC h 0x2E [(d.toNat, 12), (n.toNat, 0)]
  | .wrc h a n => wordC h 0x2F [(a.toNat, 12), (n.toNat, 0)]
  | .ifence h => wordC h 0x30 []
  | .uiret h => wordC h 0x2C []
  | .waiti h => wordC h 0x2D []
  | .vaddV0 h d a b => wordV h 0x01 [(d.toNat, 12), (a.toNat, 6), (b.toNat, 0)]
  | .vaddV1 h d a b => wordV h 0x01 [(d.toNat, 12), (a.toNat, 6), (b.toNat, 0)]
  | .vaddV2 h d a b => wordV h 0x01 [(d.toNat, 12), (a.toNat, 6), (b.toNat, 0)]
  | .vsubV0 h d a b => wordV h 0x02 [(d.toNat, 12), (a.toNat, 6), (b.toNat, 0)]
  | .vsubV1 h d a b => wordV h 0x02 [(d.toNat, 12), (a.toNat, 6), (b.toNat, 0)]
  | .vsubV2 h d a b => wordV h 0x02 [(d.toNat, 12), (a.toNat, 6), (b.toNat, 0)]
  | .vmulV0 h d a b => wordV h 0x03 [(d.toNat, 12), (a.toNat, 6), (b.toNat, 0)]
  | .vmulV1 h d a b => wordV h 0x03 [(d.toNat, 12), (a.toNat, 6), (b.toNat, 0)]
  | .vmulV2 h d a b => wordV h 0x03 [(d.toNat, 12), (a.toNat, 6), (b.toNat, 0)]
  | .vfmaV0 h d a b => wordV h 0x04 [(d.toNat, 12), (a.toNat, 6), (b.toNat, 0)]
  | .vfmaV1 h d a b => wordV h 0x04 [(d.toNat, 12), (a.toNat, 6), (b.toNat, 0)]
  | .vfmaV2 h d a b => wordV h 0x04 [(d.toNat, 12), (a.toNat, 6), (b.toNat, 0)]
  | .vfmsV0 h d a b => wordV h 0x05 [(d.toNat, 12), (a.toNat, 6), (b.toNat, 0)]
  | .vfmsV1 h d a b => wordV h 0x05 [(d.toNat, 12), (a.toNat, 6), (b.toNat, 0)]
  | .vminV0 h d a b => wordV h 0x06 [(d.toNat, 12), (a.toNat, 6), (b.toNat, 0)]
  | .vminV1 h d a b => wordV h 0x06 [(d.toNat, 12), (a.toNat, 6), (b.toNat, 0)]
  | .vminV2 h d a b => wordV h 0x05 [(d.toNat, 12), (a.toNat, 6), (b.toNat, 0)]
  | .vmaxV0 h d a b => wordV h 0x07 [(d.toNat, 12), (a.toNat, 6), (b.toNat, 0)]
  | .vmaxV1 h d a b => wordV h 0x07 [(d.toNat, 12), (a.toNat, 6), (b.toNat, 0)]
  | .vmaxV2 h d a b => wordV h 0x06 [(d.toNat, 12), (a.toNat, 6), (b.toNat, 0)]
  | .vminuV0 h d a b => wordV h 0x08 [(d.toNat, 12), (a.toNat, 6), (b.toNat, 0)]
  | .vminuV1 h d a b => wordV h 0x08 [(d.toNat, 12), (a.toNat, 6), (b.toNat, 0)]
  | .vmaxuV0 h d a b => wordV h 0x09 [(d.toNat, 12), (a.toNat, 6), (b.toNat, 0)]
  | .vmaxuV1 h d a b => wordV h 0x09 [(d.toNat, 12), (a.toNat, 6), (b.toNat, 0)]
  | .vandV0 h d a b => wordV h 0x0A [(d.toNat, 12), (a.toNat, 6), (b.toNat, 0)]
  | .vandV1 h d a b => wordV h 0x0A [(d.toNat, 12), (a.toNat, 6), (b.toNat, 0)]
  | .vorV0 h d a b => wordV h 0x0B [(d.toNat, 12), (a.toNat, 6), (b.toNat, 0)]
  | .vorV1 h d a b => wordV h 0x0B [(d.toNat, 12), (a.toNat, 6), (b.toNat, 0)]
  | .vxorV0 h d a b => wordV h 0x0C [(d.toNat, 12), (a.toNat, 6), (b.toNat, 0)]
  | .vxorV1 h d a b => wordV h 0x0C [(d.toNat, 12), (a.toNat, 6), (b.toNat, 0)]
  | .vandn h d a b => wordV h 0x0D [(d.toNat, 12), (a.toNat, 6), (b.toNat, 0)]
  | .vshl h d a b => wordV h 0x0E [(d.toNat, 12), (a.toNat, 6), (b.toNat, 0)]
  | .vshr h d a b => wordV h 0x0F [(d.toNat, 12), (a.toNat, 6), (b.toNat, 0)]
  | .vsra h d a b => wordV h 0x10 [(d.toNat, 12), (a.toNat, 6), (b.toNat, 0)]
  | .vabsV0 h d a => wordV h 0x11 [(d.toNat, 12), (a.toNat, 6)]
  | .vabsV1 h d a => wordV h 0x19 [(d.toNat, 12), (a.toNat, 6)]
  | .vnegV0 h d a => wordV h 0x12 [(d.toNat, 12), (a.toNat, 6)]
  | .vnegV1 h d a => wordV h 0x1A [(d.toNat, 12), (a.toNat, 6)]
  | .vmovV0 h d a => wordV h 0x1B [(d.toNat, 12), (a.toNat, 6)]
  | .vmovV1 h d a => wordV h 0x1B [(d.toNat, 12), (a.toNat, 6)]
  | .vmovV2 h d a => wordV h 0x09 [(d.toNat, 12), (a.toNat, 6)]
  | .vcmpeqV0 h md a b => wordV h 0x13 [(md.toNat, 12), (a.toNat, 6), (b.toNat, 0)]
  | .vcmpeqV1 h md a b => wordV h 0x0E [(md.toNat, 12), (a.toNat, 6), (b.toNat, 0)]
  | .vcmpeqV2 h md a b => wordV h 0x18 [(md.toNat, 12), (a.toNat, 6), (b.toNat, 0)]
  | .vcmpltV0 h md a b => wordV h 0x14 [(md.toNat, 12), (a.toNat, 6), (b.toNat, 0)]
  | .vcmpltV1 h md a b => wordV h 0x0F [(md.toNat, 12), (a.toNat, 6), (b.toNat, 0)]
  | .vcmpltV2 h md a b => wordV h 0x17 [(md.toNat, 12), (a.toNat, 6), (b.toNat, 0)]
  | .vcmpleV0 h md a b => wordV h 0x15 [(md.toNat, 12), (a.toNat, 6), (b.toNat, 0)]
  | .vcmpleV1 h md a b => wordV h 0x10 [(md.toNat, 12), (a.toNat, 6), (b.toNat, 0)]
  | .vselV0 h d a b => wordV h 0x16 [(d.toNat, 12), (a.toNat, 6), (b.toNat, 0)]
  | .vselV1 h d a b => wordV h 0x0D [(d.toNat, 12), (a.toNat, 6), (b.toNat, 0)]
  | .vselV2 h d a b => wordV h 0x07 [(d.toNat, 12), (a.toNat, 6), (b.toNat, 0)]
  | .vclamp h d a b => wordV h 0x16 [(d.toNat, 12), (a.toNat, 6), (b.toNat, 0)]
  | .vcvtV0 h d a rm fr => wordV h 0x17 [(d.toNat, 12), (a.toNat, 6), (rm.code, 3), (fr.code, 0)]
  | .vcvtV1 h d a rm fr => wordV h 0x18 [(d.toNat, 12), (a.toNat, 6), (rm.code, 3), (fr.code, 0)]
  | .vcvtV2 h d a rm fr => wordV h 0x08 [(d.toNat, 12), (a.toNat, 6), (rm.code, 3), (fr.code, 0)]
  | .vrnd h d a rm => wordV h 0x17 [(d.toNat, 12), (a.toNat, 6), (rm.code, 0)]
  | .vldexp h d a b => wordV h 0x14 [(d.toNat, 12), (a.toNat, 6), (b.toNat, 0)]
  | .vexpo h d a => wordV h 0x1C [(d.toNat, 12), (a.toNat, 6)]
  | .vmaxexp h d a => wordV h 0x15 [(d.toNat, 12), (a.toNat, 6)]
  | .vshuf h d a b => wordV h 0x18 [(d.toNat, 12), (a.toNat, 6), (b.toNat, 0)]
  | .vrotl h d a k => wordV h 0x19 [(d.toNat, 12), (a.toNat, 6), (k.toNat, 0)]
  | .vbcl h d a k => wordV h 0x1A [(d.toNat, 12), (a.toNat, 6), (k.toNat, 0)]
  | .vpack h d a b => wordV h 0x1D [(d.toNat, 12), (a.toNat, 6), (b.toNat, 0)]
  | .vunpk h d a hi zx => wordV h 0x1E [(d.toNat, 12), (a.toNat, 6), (zx.toNat, 1), (hi.toNat, 0)]
  | .vraddV1 h d a => wordV h 0x11 [(d.toNat, 12), (a.toNat, 6)]
  | .vraddV2 h d a => wordV h 0x15 [(d.toNat, 12), (a.toNat, 6)]
  | .vrmaxV1 h d a => wordV h 0x12 [(d.toNat, 12), (a.toNat, 6)]
  | .vrmaxV2 h d a => wordV h 0x16 [(d.toNat, 12), (a.toNat, 6)]
  | .vrmin h d a => wordV h 0x13 [(d.toNat, 12), (a.toNat, 6)]
  | .vscan h d a op => wordV h 0x14 [(d.toNat, 12), (a.toNat, 6), (op.code, 0)]
  | .vexp2 h d a => wordV h 0x0A [(d.toNat, 12), (a.toNat, 6)]
  | .vlog2 h d a => wordV h 0x0B [(d.toNat, 12), (a.toNat, 6)]
  | .vrcp h d a => wordV h 0x0C [(d.toNat, 12), (a.toNat, 6)]
  | .vrsq h d a => wordV h 0x0D [(d.toNat, 12), (a.toNat, 6)]
  | .vsqrt h d a => wordV h 0x0E [(d.toNat, 12), (a.toNat, 6)]
  | .vtanh h d a => wordV h 0x0F [(d.toNat, 12), (a.toNat, 6)]
  | .vsigm h d a => wordV h 0x10 [(d.toNat, 12), (a.toNat, 6)]
  | .vsin h d a => wordV h 0x11 [(d.toNat, 12), (a.toNat, 6)]
  | .vcos h d a => wordV h 0x12 [(d.toNat, 12), (a.toNat, 6)]
  | .verf h d a => wordV h 0x13 [(d.toNat, 12), (a.toNat, 6)]
  | .xacc g bank f a b si sj dr db => wordG g 25 0x01 [(bank.toNat, 24), (f.code, 21), (a.code, 16), (b.code, 11), (dr.code, 9), (db.toNat, 8), (si.toNat, 5), (sj.toNat, 2)]
  | .xaccz g bank f a b si sj dr db => wordG g 25 0x02 [(bank.toNat, 24), (f.code, 21), (a.code, 16), (b.code, 11), (dr.code, 9), (db.toNat, 8), (si.toNat, 5), (sj.toNat, 2)]
  | .xzero g bank dr db => wordG g 25 0x03 [(bank.toNat, 24), (dr.code, 9), (db.toNat, 8)]
  | .xdrn g dr db => wordG g 25 0x04 [(dr.code, 9), (db.toNat, 8)]
  | .ld g v a off => wordG g 22 0x01 [(v.toNat, 16), (a.toNat, 10), (off.toNat, 0)]
  | .st g v a off => wordG g 22 0x02 [(v.toNat, 16), (a.toNat, 10), (off.toNat, 0)]
  | .stm g v a off => wordG g 22 0x03 [(v.toNat, 16), (a.toNat, 10), (off.toNat, 0)]
  | .ldt g v a off => wordG g 22 0x04 [(v.toNat, 16), (a.toNat, 10), (off.toNat, 0)]
  | .ldb g v a off => wordG g 22 0x05 [(v.toNat, 16), (a.toNat, 10), (off.toNat, 0)]
  | .ldx g v a b => wordG g 22 0x0C [(v.toNat, 16), (a.toNat, 10), (b.toNat, 4)]
  | .stx g v a b => wordG g 22 0x0D [(v.toNat, 16), (a.toNat, 10), (b.toNat, 4)]
  | .rmrg g vd va a => wordG g 22 0x06 [(vd.toNat, 16), (va.toNat, 10), (a.toNat, 4)]
  | .gld g v a off => wordG g 22 0x07 [(v.toNat, 16), (a.toNat, 10), (off.toNat, 0)]
  | .gst g v a off => wordG g 22 0x08 [(v.toNat, 16), (a.toNat, 10), (off.toNat, 0)]
  | .aopAdd g d a b => wordG g 22 0x09 [(d.toNat, 16), (a.toNat, 10), (b.toNat, 4)]
  | .aopFadd32 g d a b => wordG g 22 0x09 [(d.toNat, 16), (a.toNat, 10), (b.toNat, 4), (1, 0)]
  | .aopMin g d a b => wordG g 22 0x09 [(d.toNat, 16), (a.toNat, 10), (b.toNat, 4), (2, 0)]
  | .aopMax g d a b => wordG g 22 0x09 [(d.toNat, 16), (a.toNat, 10), (b.toNat, 4), (3, 0)]
  | .aopMinu g d a b => wordG g 22 0x09 [(d.toNat, 16), (a.toNat, 10), (b.toNat, 4), (4, 0)]
  | .aopMaxu g d a b => wordG g 22 0x09 [(d.toNat, 16), (a.toNat, 10), (b.toNat, 4), (5, 0)]
  | .aopAnd g d a b => wordG g 22 0x09 [(d.toNat, 16), (a.toNat, 10), (b.toNat, 4), (6, 0)]
  | .aopOr g d a b => wordG g 22 0x09 [(d.toNat, 16), (a.toNat, 10), (b.toNat, 4), (7, 0)]
  | .aopXor g d a b => wordG g 22 0x09 [(d.toNat, 16), (a.toNat, 10), (b.toNat, 4), (8, 0)]
  | .aopXchg g d a b => wordG g 22 0x09 [(d.toNat, 16), (a.toNat, 10), (b.toNat, 4), (9, 0)]
  | .aopCas g d a b => wordG g 22 0x09 [(d.toNat, 16), (a.toNat, 10), (b.toNat, 4), (10, 0)]
  | .rwlRdacq g d a pd => wordG g 22 0x0A [(d.toNat, 16), (a.toNat, 10), (pd.toNat, 6)]
  | .rwlRdrel g d a pd => wordG g 22 0x0A [(d.toNat, 16), (a.toNat, 10), (pd.toNat, 6), (1, 3)]
  | .rwlWracq g d a pd => wordG g 22 0x0A [(d.toNat, 16), (a.toNat, 10), (pd.toNat, 6), (2, 3)]
  | .rwlWrrel g d a pd => wordG g 22 0x0A [(d.toNat, 16), (a.toNat, 10), (pd.toNat, 6), (3, 3)]
  | .rwlSetpref g d a pd => wordG g 22 0x0A [(d.toNat, 16), (a.toNat, 10), (pd.toNat, 6), (4, 3)]
  | .fenceAcq g sc => wordG g 22 0x0B [(sc.code, 19)]
  | .fenceRel g sc => wordG g 22 0x0B [(sc.code, 19), (1, 17)]
  | .fenceFull g sc => wordG g 22 0x0B [(sc.code, 19), (2, 17)]
  | .sbind g q a => wordG g 22 0x01 [(q.toNat, 19), (a.toNat, 13)]
  | .sfree g q => wordG g 22 0x02 [(q.toNat, 19)]
  | .sadv g q n => wordG g 22 0x03 [(q.toNat, 19), (n.toNat, 11)]
  | .gls g gd first va vb => wordG g 22 0x04 [(gd.toNat, 17), (first.toNat, 16), (va.toNat, 10), (vb.toNat, 4)]
  | .zld g gd va => wordG g 22 0x05 [(gd.toNat, 17), (va.toNat, 10)]
  | .eld g gd va vb => wordG g 22 0x06 [(gd.toNat, 17), (va.toNat, 10), (vb.toNat, 4)]
  | .xcfg g bank a => wordG g 22 0x07 [(bank.toNat, 21), (a.toNat, 15)]
  | .xmaskRow g ma a => wordG g 22 0x08 [(ma.toNat, 16), (a.toNat, 10)]
  | .xmaskFill g => wordG g 22 0x08 [(1, 20)]
  | .xmaskInv g => wordG g 22 0x08 [(2, 20)]
  | .btake g a => wordG g 22 0x0E [(a.toNat, 10)]
  | .bgive g a b => wordG g 22 0x0F [(a.toNat, 10), (b.toNat, 4)]
  | .bpub g a => wordG g 22 0x10 [(a.toNat, 10)]
  | .bret g a => wordG g 22 0x11 [(a.toNat, 10)]
  | .jsub g d a => wordG g 22 0x09 [(d.toNat, 16), (a.toNat, 10)]
  | .jcan g a => wordG g 22 0x0A [(a.toNat, 10)]
  | .barmSet g bar a ui => wordG g 22 0x0B [(bar.toNat, 15), (a.toNat, 9), (ui.toNat, 7)]
  | .barmAdd g bar a ui => wordG g 22 0x0B [(bar.toNat, 15), (a.toNat, 9), (1, 8), (ui.toNat, 7)]
  | .barq g d bar => wordG g 22 0x0C [(d.toNat, 16), (bar.toNat, 9)]
  | .uien g a => wordG g 22 0x0D [(a.toNat, 10)]
  | .tqbind g a => wordG g 22 0x12 [(a.toNat, 16)]
  | .tqfl g q => wordG g 22 0x13 [(q.toNat, 19)]
  | .nmsub g d a => wordG g 22 0x14 [(d.toNat, 16), (a.toNat, 10)]
  | .nmfn g d a => wordG g 22 0x15 [(d.toNat, 16), (a.toNat, 10)]
  | .phsel g pk => wordG g 22 0x16 [(pk.toNat, 18)]
  | .phld g bank a n1 => wordG g 22 0x17 [(bank.toNat, 21), (a.toNat, 15), (n1.toNat, 6)]
  | .lnch g d a => wordG g 22 0x18 [(d.toNat, 16), (a.toNat, 10)]
  | .cancLaunch g a => wordG g 22 0x19 [(1, 19), (a.toNat, 13)]
  | .cancGraph g a => wordG g 22 0x19 [(2, 19), (a.toNat, 13)]
  | .cancPhase g a => wordG g 22 0x19 [(3, 19), (a.toNat, 13)]
  | .cancJob g a => wordG g 22 0x19 [(4, 19), (a.toNat, 13)]
  | .smpsub g d a => wordG g 22 0x1A [(d.toNat, 16), (a.toNat, 10)]
  | .seedq g d => wordG g 22 0x1B [(d.toNat, 16)]
  | .untimedResultLand _ => 0
  | .homeAccess _ => 0
  | .writeAck _ => 0
  | .localStreamFill _ _ => 0
  | .streamRequest _ _ => 0
  | .ringLanding _ => 0
  | .ringStageFill _ _ => 0
  | .transposerRead _ => 0
  | .peerReadServe _ => 0
  | .freezeAnnounce _ _ _ => 0
  | .freezeTakeEffect _ => 0
  | .freezeResume _ => 0
  | .freezeTimeout _ => 0
  | .groupStop _ => 0
  | .bodyLengthExceeded _ => 0
  | .weirFreezeRequest _ => 0
  | .clockStretch _ => 0
  | .stretchFreeze _ => 0
  | .criticalMargin _ => 0
  | .opctlGoSync => 0
  | .opctlGoRunning => 0
  | .opSwitch => 0
  | .runningRampStep => 0
  | .powerLoop _ _ => 0
  | .pfWindowEnd => 0
  | .trapactContinue _ _ => 0
  | .trapactAbort _ _ => 0
  | .groupResume _ => 0
  | .uiDeliver _ => 0
  | .slotStart => 0
  | .preemptStop _ => 0
  | .preemptSave _ => 0
  | .preemptResume _ => 0
  | .phldLoadDone _ => 0
  | .phaseLatch => 0
  | .pageRequestAnswer _ => 0
  | .refreshDebtRepaid => 0
  | .sluiceLastArrival => 0
  | .slackOverrun => 0
  | .phaseStart _ => 0
  | .seqctlGo => 0
  | .seqctlAbort => 0
  | .partitionPeriod => 0
  | .jcopy _ _ => 0
  | .jcopyt _ _ => 0
  | .jgather _ _ => 0
  | .jscatter _ _ => 0
  | .jred _ _ => 0
  | .jsnap _ _ => 0
  | .jobComplete _ _ => 0
  | .snapshotBlockCopy _ => 0
  | .nadd _ => 0
  | .naxpy _ => 0
  | .nscal _ => 0
  | .nsgdw _ => 0
  | .nadamw _ => 0
  | .nfill _ => 0
  | .nred _ => 0
  | .ncopy _ => 0
  | .ncvt _ => 0
  | .nchk _ => 0
  | .nmStep _ => 0
  | .nmCommandComplete _ => 0
  | .samplerFetch _ => 0
  | .samplerExecute _ => 0
  | .samplerCommit _ => 0
  | .samplerComplete _ => 0
  | .kvLost _ => 0
  | .flitReceive _ _ => 0
  | .nakRepeat _ => 0
  | .replayWindowEnd _ => 0
  | .trainingComplete _ _ => 0
  | .pctlRetrain _ => 0
  | .tqrow _ => 0
  | .rd _ => 0
  | .wr _ => 0
  | .rsp _ => 0
  | .atom _ => 0
  | .sluiceArrival _ => 0
  | .sluiceStart _ => 0
  | .timeRequest _ => 0
  | .timeReply _ => 0
  | .timeStep _ => 0
  | .timeReport _ => 0
  | .tqclose _ => 0
  | .tqack _ => 0
  | .freezeMessage _ _ _ => 0
  | .freezeMessageLate _ => 0
  | .realignBegin => 0
  | .timeExchangeSend => 0
  | .cycStep => 0
  | .realignTimeout => 0
  | .replayEnd _ => 0
  | .auditLogCopy _ => 0
  | .auditReplay _ => 0
  | .auditCompare _ => 0
  | .rcvmarkWrite _ => 0
  | .recoveryRecordWrite => 0
  | .registerWrite _ _ _ _ => 0
  | .hostRead _ _ => 0
  | .hostWrite _ _ => 0
  | .hostFetchadd _ _ _ => 0
  | .hostSwap _ _ _ => 0
  | .hostCas _ _ _ _ => 0
  | .load _ => 0
  | .attest _ => 0
  | .seed _ => 0
  | .abort _ => 0
  | .tlbinvWrite _ => 0
  | .tlbinvDone => 0
  | .startGo => 0
  | .startClr => 0
  | .fundamentalReset => 0
  | .powerOn => 0
  | .powerLoss => 0
  | .startTimeout => 0
  | .entropyHealthFail => 0
  | .entropyPass => 0
  | .inFlightResultLanding _ => 0
  | .preTranslationArrival => 0
  | .realignComplete => 0
  | .stbaseWrite _ => 0

/-- The slot word of an instruction. -/
def encode (i : Instr) : Word32 := BitVec.ofNat 32 (encodeNat i)

/-- The bundle that holds one instruction in its slot and nothing else. -/
def encodeBundle (i : Instr) : BitVec 256 :=
  BitVec.ofNat 256 (encodeNat i * 2 ^ (32 * (i.slot.getD 0)))

end Sys2Proof
end

