-- ==== Sys2Proof/Machine/Flags.lean ====
section
/-!
DEFINITION. Machine/Flags.lean: the floating formats, the single rounding of R110 and R114, and the arithmetic causes
of R112 that every operation computes beside its result.
-/
namespace Sys2Proof

/-- A set of arithmetic causes: bit k stands for cause 0x10 + k (R112, R113). -/
abbrev Causes := BitVec 6

def Causes.none : Causes := 0x00
def Causes.invalid : Causes := 0x01
def Causes.divzero : Causes := 0x02
def Causes.overflow : Causes := 0x04
def Causes.underflow : Causes := 0x08
def Causes.inexact : Causes := 0x10
def Causes.intDivzero : Causes := 0x20

/-- The set with one cause, or none. -/
def causeIf (b : Bool) (c : Causes) : Causes := if b then c else Causes.none

/-! ### Formats (R105) -/

/-- Precision p: significand bits with the leading one. -/
def FFmt.prec : FFmt → Nat
  | .f16 => 11 | .bf16 => 8 | .f32 => 24 | .f64 => 53
/-- Width of the exponent field. -/
def FFmt.ebits : FFmt → Nat
  | .f16 => 5 | .bf16 => 8 | .f32 => 8 | .f64 => 11
def FFmt.bits (f : FFmt) : Nat := f.prec + f.ebits
/-- The largest biased exponent, that of infinities and NaNs. -/
def FFmt.emax (f : FFmt) : Nat := 2 ^ f.ebits - 1
def FFmt.bias (f : FFmt) : Nat := 2 ^ (f.ebits - 1) - 1
/-- The exponent of the smallest normal number. -/
def FFmt.emin (f : FFmt) : Int := 1 - (f.bias : Int)
/-- The encoding of +∞. -/
def FFmt.infBits (f : FFmt) : Nat := f.emax * 2 ^ (f.prec - 1)
/-- The canonical NaN (R106). -/
def FFmt.nanBits (f : FFmt) : Nat := f.infBits + 2 ^ (f.prec - 2)
/-- The sign bit's weight. -/
def FFmt.signBit (f : FFmt) : Nat := 2 ^ (f.bits - 1)

/-- The floating format of a floating lane type. -/
def VType.ffmt : VType → FFmt
  | .f16 => .f16 | .bf16 => .bf16 | .f32 => .f32 | _ => .f64

/-- A decoded floating value: finite non-zero values are ± m · 2^e with m > 0. -/
inductive FVal where
  | nan (signalling : Bool)
  | inf (neg : Bool)
  | zero (neg : Bool)
  | fin (neg : Bool) (m : Nat) (e : Int)
  deriving DecidableEq, Repr

/-- The value an encoding stands for (R105). -/
def FFmt.decode (f : FFmt) (x : Nat) : FVal :=
  let neg := x / f.signBit % 2 = 1
  let ef := x / 2 ^ (f.prec - 1) % 2 ^ f.ebits
  let fr := x % 2 ^ (f.prec - 1)
  if ef = f.emax then
    if fr = 0 then .inf neg else .nan (fr < 2 ^ (f.prec - 2))
  else if ef = 0 then
    if fr = 0 then .zero neg else .fin neg fr (f.emin - (f.prec : Int) + 1)
  else .fin neg (2 ^ (f.prec - 1) + fr) ((ef : Int) - f.bias - (f.prec : Int) + 1)

def FVal.isNan : FVal → Bool
  | .nan _ => true
  | _ => false
def FVal.isSnan : FVal → Bool
  | .nan s => s
  | _ => false
def FVal.isInf : FVal → Bool
  | .inf _ => true
  | _ => false
def FVal.isZero : FVal → Bool
  | .zero _ => true
  | _ => false
def FVal.neg : FVal → Bool
  | .nan _ => false
  | .inf n => n
  | .zero n => n
  | .fin n _ _ => n
/-- The value with its sign inverted. -/
def FVal.negate : FVal → FVal
  | .nan s => .nan s
  | .inf n => .inf (!n)
  | .zero n => .zero (!n)
  | .fin n m e => .fin (!n) m e

/-- A result's bits and the causes it raised. -/
structure FRes where
  bits : Nat
  fl   : Causes
  deriving DecidableEq, Repr

def FFmt.signed (f : FFmt) (neg : Bool) (x : Nat) : Nat := if neg then f.signBit + x else x
def FFmt.zeroRes (f : FFmt) (neg : Bool) : FRes := ⟨f.signed neg 0, 0⟩
def FFmt.infRes (f : FFmt) (neg : Bool) : FRes := ⟨f.signed neg f.infBits, 0⟩
def FFmt.nanRes (f : FFmt) (fl : Causes) : FRes := ⟨f.nanBits, fl⟩

/-- How a real between two neighbours is rounded: a mode of R110, or the draw rb of R111. -/
inductive Round where
  | mode (rm : Rm)
  | sr (rb : Nat)
  deriving DecidableEq, Repr

/-- Whether the magnitude num / 2^s (s > 0, not integral) moves up to the next integer (R110, R111). -/
def roundUp (r : Round) (neg : Bool) (num s : Nat) : Bool :=
  let rem := num % 2 ^ s
  match r with
  | .mode .rne => 2 * rem > 2 ^ s || (2 * rem = 2 ^ s && num / 2 ^ s % 2 = 1)
  | .mode .rtz => false
  | .mode .rup => !neg
  | .mode .rdn => neg
  | .sr rb =>
    -- x − lo over hi − lo is rem / 2^s for a positive x and (2^s − rem) / 2^s for a negative one
    if neg then !(rb < 2 ^ 16 * (2 ^ s - rem) / 2 ^ s) else rb < 2 ^ 16 * rem / 2 ^ s

/-- The integer magnitude of m · 2^e rounded, and whether the rounding was inexact (R110, R114). -/
def roundInt (r : Round) (neg : Bool) (m : Nat) (e : Int) : Nat × Bool :=
  if 0 ≤ e then (m * 2 ^ e.toNat, false)
  else
    let s := (-e).toNat
    let n := m / 2 ^ s
    if m % 2 ^ s = 0 then (n, false) else (if roundUp r neg m s then n + 1 else n, true)

/-- The overflow result of a mode (R112). -/
def overflowBits (f : FFmt) (r : Round) (neg : Bool) : Nat :=
  match r with
  | .mode .rtz => f.signed neg (f.infBits - 1)
  | .mode .rup => if neg then f.signed true (f.infBits - 1) else f.infBits
  | .mode .rdn => if neg then f.signed true f.infBits else f.infBits - 1
  | _ => f.signed neg f.infBits

/-- round_to of R114 for a finite non-zero value ± m · 2^e, with the causes of R112. FP_UNDERFLOW needs an inexact result (R112), of a
special function too, for which R215 does not repeat it (DEDUCED, log 10). -/
def roundFin (f : FFmt) (r : Round) (neg : Bool) (m : Nat) (e : Int) : FRes :=
  let E := max ((m.log2 : Int) + e) f.emin
  let q := E - (f.prec : Int) + 1
  -- beyond the largest finite value SR takes the RNE result (R111)
  let big := (f.emax : Int) - 1 - f.bias < E || (E = (f.emax : Int) - 1 - f.bias && (roundInt (.mode .rup) false m (e - q)).1 ≥ 2 ^ f.prec)
  let r' := match r with
    | .sr rb => if big then Round.mode .rne else .sr rb
    | r => r
  let n := roundInt r' neg m (e - q)
  let enc := if n.1 < 2 ^ (f.prec - 1) then n.1
    else (q + (f.prec : Int) - 1 + f.bias).toNat * 2 ^ (f.prec - 1) + (n.1 - 2 ^ (f.prec - 1))
  if enc ≥ f.infBits then ⟨overflowBits f r' neg, Causes.overflow ||| Causes.inexact⟩
  else ⟨f.signed neg enc,
    causeIf n.2 Causes.inexact ||| causeIf (n.2 && enc < 2 ^ (f.prec - 1)) Causes.underflow⟩

/-- round_to of R114. -/
def roundVal (f : FFmt) (r : Round) : FVal → FRes
  | .nan s => f.nanRes (causeIf s Causes.invalid)
  | .inf n => f.infRes n
  | .zero n => f.zeroRes n
  | .fin n m e => if m = 0 then f.zeroRes n else roundFin f r n m e

/-- The signed integer i · 2^e, with the sign of a zero as given. -/
def FVal.ofInt (i : Int) (e : Int) (zneg : Bool) : FVal :=
  if i = 0 then .zero zneg else .fin (i < 0) i.natAbs e

/-- The exact sum of two finite values, with the zero rules of R109. -/
def addExact (rm : Rm) (a b : FVal) : FVal :=
  match a, b with
  | .zero n, .zero n' => .zero (if n = n' then n else rm = .rdn)
  | .zero _, y => y
  | x, .zero _ => x
  | .fin n m e, .fin n' m' e' =>
    let lo := min e e'
    let i : Int := m * 2 ^ (e - lo).toNat
    let j : Int := m' * 2 ^ (e' - lo).toNat
    .ofInt ((if n then -i else i) + (if n' then -j else j)) lo (rm = .rdn)
  | x, _ => x

/-- The exact product of two finite values. -/
def mulExact (a b : FVal) : FVal :=
  match a, b with
  | .fin n m e, .fin n' m' e' => .fin (n != n') (m * m') (e + e')
  | x, y => .zero (x.neg != y.neg)

/-- Addition (R108, R109, R112). -/
def fadd (f : FFmt) (rm : Rm) (a b : FVal) : FRes :=
  let sn := causeIf (a.isSnan || b.isSnan) Causes.invalid
  if a.isNan || b.isNan then f.nanRes sn
  else if a.isInf && b.isInf && a.neg != b.neg then f.nanRes Causes.invalid
  else if a.isInf then f.infRes a.neg
  else if b.isInf then f.infRes b.neg
  else roundVal f (.mode rm) (addExact rm a b)

/-- Multiplication (R108, R112). -/
def fmul (f : FFmt) (rm : Rm) (a b : FVal) : FRes :=
  let sn := causeIf (a.isSnan || b.isSnan) Causes.invalid
  if a.isNan || b.isNan then f.nanRes sn
  else if (a.isInf && b.isZero) || (a.isZero && b.isInf) then f.nanRes Causes.invalid
  else if a.isInf || b.isInf then f.infRes (a.neg != b.neg)
  else roundVal f (.mode rm) (mulExact a b)

/-- Fused multiply-add a · b + d with one rounding (R108, R112, R196). -/
def ffma (f : FFmt) (rm : Rm) (a b d : FVal) : FRes :=
  let sn := a.isSnan || b.isSnan || d.isSnan
  let zi := (a.isInf && b.isZero) || (a.isZero && b.isInf)
  let pinf := a.isInf || b.isInf
  let pneg := a.neg != b.neg
  if a.isNan || b.isNan || d.isNan then f.nanRes (causeIf (sn || zi) Causes.invalid)
  else if zi then f.nanRes Causes.invalid
  else if pinf && d.isInf && pneg != d.neg then f.nanRes Causes.invalid
  else if pinf then f.infRes pneg
  else if d.isInf then f.infRes d.neg
  else roundVal f (.mode rm) (addExact rm (mulExact a b) d)

/-- The order of two finite values or infinities as integers over a common exponent; −0 equals +0. -/
def fltFin (a b : FVal) : Bool :=
  match a, b with
  | .inf n, .inf n' => n && !n'
  | .inf n, _ => n
  | _, .inf n => !n
  | .zero _, .zero _ => false
  | .zero _, .fin n _ _ => !n
  | .fin n _ _, .zero _ => n
  | .fin n m e, .fin n' m' e' =>
    let lo := min e e'
    let i : Int := m * 2 ^ (e - lo).toNat
    let j : Int := m' * 2 ^ (e' - lo).toNat
    (if n then -i else i) < (if n' then -j else j)
  | _, _ => false

/-- The three floating compares and "unordered", with their causes (R109, R112). -/
def fcompare (c : FCond) (a b : FVal) : Bool × Causes :=
  let nan := a.isNan || b.isNan
  let sn := causeIf (a.isSnan || b.isSnan) Causes.invalid
  match c with
  | .eq => (!nan && !fltFin a b && !fltFin b a, sn)
  | .lt => (!nan && fltFin a b, causeIf nan Causes.invalid)
  | .le => (!nan && !fltFin b a, causeIf nan Causes.invalid)
  | .un => (nan, sn)

/-- Minimum or maximum on encodings: −0 below +0, a NaN gives the canonical NaN (R109, R197). -/
def fminmax (f : FFmt) (isMax : Bool) (x y : Nat) : FRes :=
  let a := f.decode x
  let b := f.decode y
  if a.isNan || b.isNan then f.nanRes (causeIf (a.isSnan || b.isSnan) Causes.invalid)
  else
    let lt := fltFin a b || (a.isZero && b.isZero && a.neg && !b.neg)
    ⟨if lt = isMax then y else x, 0⟩

/-! ### Conversions -/

/-- The two's complement encoding of i in w bits. -/
def intBits (w : Nat) (i : Int) : Nat := (i % (2 ^ w : Nat)).toNat
/-- sext of R12: the signed reading of w bits. -/
def sextNat (w x : Nat) : Int := if x % 2 ^ w < 2 ^ (w - 1) then (x % 2 ^ w : Nat) else (x % 2 ^ w : Nat) - (2 ^ w : Nat)
/-- sat of R114. -/
def sat (x lo hi : Int) : Int := if x < lo then lo else if x > hi then hi else x
def minInt (w : Nat) : Int := -(2 ^ (w - 1) : Nat)
def maxInt (w : Nat) : Int := (2 ^ (w - 1) : Nat) - 1

/-- Conversion to a signed integer of w bits: saturating, FP_INVALID where clamped or NaN, else FP_INEXACT where
not integral (R112, R204). -/
def toInt (w : Nat) (r : Round) (v : FVal) : FRes :=
  match v with
  | .nan _ => ⟨0, Causes.invalid⟩
  | .inf n => ⟨intBits w (if n then minInt w else maxInt w), Causes.invalid⟩
  | .zero _ => ⟨0, 0⟩
  | .fin n m e =>
    let k := roundInt r n m e
    let i : Int := if n then -(k.1 : Int) else k.1
    let y := sat i (minInt w) (maxInt w)
    ⟨intBits w y, if y = i then causeIf k.2 Causes.inexact else Causes.invalid⟩

/-- Conversion of a signed integer to a floating format (R204). -/
def ofIntTo (f : FFmt) (rm : Rm) (i : Int) : FRes := roundVal f (.mode rm) (.ofInt i 0 false)

/-- Rounding to an integral value of the same format; only a signalling NaN raises a cause (R205). -/
def rndIntegral (f : FFmt) (rm : Rm) (x : Nat) : FRes :=
  match f.decode x with
  | .nan s => f.nanRes (causeIf s Causes.invalid)
  | .fin n m e =>
    let k := roundInt (.mode rm) n m e
    if k.2 then (if k.1 = 0 then f.zeroRes n else ⟨(roundFin f (.mode .rne) n k.1 0).bits, 0⟩) else ⟨x, 0⟩
  | _ => ⟨x, 0⟩

/-- a · 2^k rounded once (R206). -/
def ldexp (f : FFmt) (x : Nat) (k : Int) : FRes :=
  match f.decode x with
  | .nan s => f.nanRes (causeIf s Causes.invalid)
  | .fin n m e =>
    -- beyond ±5000 every format overflows or rounds to zero alike
    roundFin f (.mode .rne) n m (e + sat k (-5000) 5000)
  | _ => ⟨x, 0⟩

/-- ⌊log2 |x|⌋ of a finite non-zero value (R207). -/
def exponentOf : FVal → Option Int
  | .fin _ m e => some ((m.log2 : Int) + e)
  | _ => none

/-! ### Exact sums and products of values that may be special (R341) -/

def FVal.add (a b : FVal) : FVal :=
  if a.isNan || b.isNan || (a.isInf && b.isInf && a.neg != b.neg) then .nan false
  else if a.isInf then a else if b.isInf then b else addExact .rne a b
def FVal.mul (a b : FVal) : FVal :=
  if a.isNan || b.isNan || (a.isInf && b.isZero) || (a.isZero && b.isInf) then .nan false
  else if a.isInf || b.isInf then .inf (a.neg != b.neg) else mulExact a b
def FVal.sub (a b : FVal) : FVal := a.add b.negate

end Sys2Proof
end

