-- ==== Sys2Proof/Machine/Special.lean ====
section
/-!
DEFINITION. Machine/Special.lean: the special functions of V2 (R214 to R216). Each is computed in fixed point with 512
fraction bits and rounded once; an inexact value carries a sticky bit below its last bit. (UNVERIFIED: that no input
lies so close to a rounding boundary that 512 bits do not decide it; assumption log 10.)
-/
namespace Sys2Proof

/-- An approximation m · 2^e from below, or the exact value. -/
structure Approx where
  m     : Nat
  e     : Int
  exact : Bool
  deriving DecidableEq, Repr

/-- Integer square root by bits, from bit k down. -/
def isqrtFrom : Nat → Nat → Nat → Nat
  | 0, _, r => r
  | k + 1, n, r => isqrtFrom k n (if (r + 2 ^ k) * (r + 2 ^ k) ≤ n then r + 2 ^ k else r)
/-- ⌊√n⌋. -/
def isqrt (n : Nat) : Nat := isqrtFrom (n.log2 / 2 + 1) n 0

/-- Fraction bits of the fixed-point numbers below. -/
def fxBits : Nat := 512
def fxOne : Nat := 2 ^ fxBits
/-- Product of two fixed-point numbers. -/
def fxMul (a b : Nat) : Nat := a * b / fxOne

/-- Σ over k of x^k / k!, in fixed point: fuel terms, term k0 being t. -/
def expSum : Nat → Nat → Nat → Nat → Nat
  | 0, _, _, _ => 0
  | f + 1, x, k, t => t + expSum f x (k + 1) (fxMul t x / k)
/-- e^x for 0 ≤ x < 1. -/
def fxExp (x : Nat) : Nat := expSum 130 x 1 fxOne

/-- Σ over odd k of y^k / k with signs all + (atanh) or alternating (atan); z = y². -/
def oddSum : Nat → Bool → Nat → Nat → Nat → Int
  | 0, _, _, _, _ => 0
  | f + 1, alt, z, k, t => (t / k : Nat) + (if alt then -1 else 1) * oddSum f alt z (k + 2) (fxMul t z)
def fxAtanh (y : Nat) : Nat := (oddSum 180 false (fxMul y y) 1 y).toNat
def fxAtan (y : Nat) : Nat := (oddSum 180 true (fxMul y y) 1 y).toNat

/-- ln 2 = 2 atanh (1/3). -/
def fxLn2 : Nat := 2 * fxAtanh (fxOne / 3)
/-- π by Machin's formula. -/
def fxPi : Nat := 16 * fxAtan (fxOne / 5) - 4 * fxAtan (fxOne / 239)

/-- Alternating Taylor sum Σ (−1)^j z^j / (k·(k+1)…), starting at term t with divisor k·(k+1). -/
def trigSum : Nat → Nat → Nat → Nat → Int
  | 0, _, _, _ => 0
  | f + 1, z, k, t => t - trigSum f z (k + 2) (fxMul t z / (k * (k + 1)))

/-- e^(−x) for x ≥ 0 in fixed point: x = n·ln 2 + r. -/
def fxExpNeg (x : Nat) : Nat :=
  let n := x / fxLn2
  -- e^(−x) = 2^−(n+1) · e^(ln 2 − r)
  fxExp (fxLn2 - (x - n * fxLn2)) / 2 ^ (n + 1)

/-- A positive dyadic number m · 2^e as fixed point (truncated below 2^−512). -/
def toFx (m : Nat) (e : Int) : Nat :=
  if 0 ≤ e + fxBits then m * 2 ^ (e + fxBits).toNat else m / 2 ^ (-(e + fxBits)).toNat
/-- A fixed-point number as an inexact approximation. -/
def fxApprox (x : Nat) : Approx := ⟨x, -(fxBits : Int), false⟩
/-- A value just below 1, and one just above 0: what a function that saturates is rounded from. -/
def justBelowOne : Approx := ⟨2 ^ 600 - 1, -600, false⟩
def tiny : Approx := ⟨1, -2000, false⟩

/-- 2^x of x = ± m · 2^e. -/
def spExp2 (neg : Bool) (m : Nat) (e : Int) : Approx :=
  if (m.log2 : Int) + e ≥ 12 then (if neg then tiny else ⟨1, 4096, true⟩)
  else
    let fx : Int := toFx m e
    let x := if neg then -fx else fx
    let n := x / (fxOne : Int)
    let f := (x % (fxOne : Int)).toNat
    if f = 0 then ⟨1, n, true⟩ else ⟨fxExp (fxMul f fxLn2), n - fxBits, false⟩

/-- log2 of m · 2^e: the sign of the result and its magnitude. -/
def spLog2 (m : Nat) (e : Int) : Bool × Approx :=
  let l := m.log2
  let n : Int := l + e
  if m = 2 ^ l then (n < 0, ⟨n.natAbs, 0, true⟩)
  else
    let num := m - 2 ^ l
    let den := m + 2 ^ l
    -- log2 (m / 2^l) = 2 atanh (num / den) / ln 2
    let fr := 2 * fxAtanh (num * fxOne / den) * fxOne / fxLn2
    let v : Int := n * fxOne + fr
    (v < 0, fxApprox v.natAbs)

/-- 1 / (m · 2^e). -/
def spRcp (m : Nat) (e : Int) : Approx := ⟨2 ^ 200 / m, -200 - e, 2 ^ 200 % m = 0⟩
/-- √(m · 2^e). -/
def spSqrt (m : Nat) (e : Int) : Approx :=
  let odd := e % 2 = 1
  let m' := if odd then 2 * m else m
  let e' := if odd then e - 1 else e
  let r := isqrt (m' * 2 ^ 200)
  ⟨r, e' / 2 - 100, r * r = m' * 2 ^ 200⟩
/-- 1 / √(m · 2^e). -/
def spRsq (m : Nat) (e : Int) : Approx :=
  let odd := e % 2 = 1
  let m' := if odd then 2 * m else m
  let e' := if odd then e - 1 else e
  let r := isqrt (2 ^ 300 / m')
  ⟨r, -150 - e' / 2, r * r * m' = 2 ^ 300⟩
/-- tanh of m · 2^e > 0. -/
def spTanh (m : Nat) (e : Int) : Approx :=
  if (m.log2 : Int) + e ≥ 6 then justBelowOne
  else
    let x := toFx m e
    if (m.log2 : Int) + e < -60 then
      -- x − x³/3, kept relative to x
      let z := toFx (m * m) (2 * e)
      ⟨m * (fxOne - z / 3 - 1), e - fxBits, false⟩
    else
      let u := fxExpNeg (2 * x)
      ⟨(fxOne - u) * fxOne / (fxOne + u), -(fxBits : Int), false⟩
/-- The logistic function of ± m · 2^e. -/
def spSigm (neg : Bool) (m : Nat) (e : Int) : Approx :=
  if (m.log2 : Int) + e ≥ 8 then (if neg then tiny else justBelowOne)
  else
    let u := fxExpNeg (toFx m e)
    if neg then fxApprox (u * fxOne / (fxOne + u)) else fxApprox (fxOne * fxOne / (fxOne + u))
/-- Σ (−1)^k z^k / (k! (2k+1)), term k being t. -/
def erfSum : Nat → Nat → Nat → Nat → Int
  | 0, _, _, _ => 0
  | f + 1, z, k, t => (t / (2 * k + 1) : Nat) - erfSum f z (k + 1) (fxMul t z / (k + 1))
/-- erf of m · 2^e > 0. -/
def spErf (m : Nat) (e : Int) : Approx :=
  if (m.log2 : Int) + e ≥ 3 then justBelowOne
  else
    let z := toFx (m * m) (2 * e)
    let s := (erfSum 500 z 0 fxOne).toNat
    let c := 2 * fxOne * fxOne / isqrt (fxPi * fxOne)
    ⟨m * fxMul s c, e - fxBits, false⟩
/-- sin (π·r / 2^512) of a fixed-point 0 ≤ r ≤ 1/2, as an approximation relative to r. -/
def sinHalf (r : Nat) : Approx :=
  if r = 0 then ⟨0, 0, true⟩
  else if r = fxOne / 2 then ⟨1, 0, true⟩
  else
    let x := fxMul r fxPi
    let s := (trigSum 80 (fxMul x x) 2 fxOne).toNat
    ⟨r * fxMul fxPi s, -(2 * fxBits : Int), false⟩
/-- cos (π·r / 2^512) of a fixed-point 0 ≤ r ≤ 1/2. -/
def cosHalf (r : Nat) : Approx :=
  if r = 0 then ⟨1, 0, true⟩
  else if r = fxOne / 2 then ⟨0, 0, true⟩
  else
    let x := fxMul r fxPi
    let s := (trigSum 80 (fxMul x x) 1 fxOne).toNat
    if x < 2 ^ 260 then ⟨2 ^ 600 - 1, -600, false⟩ else fxApprox s
/-- sin (π·x) of x = m · 2^e > 0: argument reduction modulo 2 is exact. -/
def spSin (m : Nat) (e : Int) : Bool × Approx :=
  if 0 < e then (false, ⟨0, 0, true⟩)
  else
    let r := toFx m e % (2 * fxOne)
    let neg := r ≥ fxOne
    let q := r % fxOne
    (neg, sinHalf (if q ≤ fxOne / 2 then q else fxOne - q))
/-- cos (π·x) of x = m · 2^e > 0. -/
def spCos (m : Nat) (e : Int) : Bool × Approx :=
  if 0 < e then (false, ⟨1, 0, true⟩)
  else
    let r := toFx m e % (2 * fxOne)
    let q := if r ≤ fxOne then r else 2 * fxOne - r
    if q ≤ fxOne / 2 then (false, cosHalf q) else (true, cosHalf (fxOne - q))

/-- The special functions of R214. -/
inductive SpFn where
  | exp2 | log2 | rcp | rsq | sqrt | tanh | sigm | sin | cos | erf
  deriving DecidableEq, Repr

/-- The correctly rounded value of an approximation with a sign (R215). -/
def roundApprox (f : FFmt) (neg : Bool) (a : Approx) : FRes :=
  if a.m = 0 then f.zeroRes false
  else if a.exact then roundFin f (.mode .rne) neg a.m a.e
  else roundFin f (.mode .rne) neg (2 * a.m + 1) (a.e - 1)

/-- Results at infinities (R216). -/
def spInf (f : FFmt) (fn : SpFn) (neg : Bool) : FRes :=
  let one := f.signed neg (roundFin f (.mode .rne) false 1 0).bits
  match fn with
  | .exp2 => if neg then f.zeroRes false else f.infRes false
  | .log2 | .sqrt => if neg then f.nanRes Causes.invalid else f.infRes false
  | .rcp => f.zeroRes neg
  | .rsq => if neg then f.nanRes Causes.invalid else f.zeroRes false
  | .tanh | .erf => ⟨one, 0⟩
  | .sigm => if neg then f.zeroRes false else ⟨one, 0⟩
  | .sin | .cos => f.nanRes 0

/-- Results at zeros (R216). -/
def spZero (f : FFmt) (fn : SpFn) (neg : Bool) : FRes :=
  match fn with
  | .exp2 | .cos => roundFin f (.mode .rne) false 1 0
  | .log2 => ⟨(f.infRes true).bits, Causes.divzero⟩
  | .rcp => ⟨(f.infRes neg).bits, Causes.divzero⟩
  -- R216: the ∞ of VRSQ takes the sign of the zero (R112)
  | .rsq => ⟨(f.infRes neg).bits, Causes.divzero⟩
  | .sqrt | .tanh | .sin | .erf => f.zeroRes neg
  | .sigm => roundFin f (.mode .rne) false 1 (-1)

/-- Results at finite non-zero values (R214, R215, R216). -/
def spFinite (f : FFmt) (fn : SpFn) (neg : Bool) (m : Nat) (e : Int) : FRes :=
  match fn with
  | .exp2 => roundApprox f false (spExp2 neg m e)
  | .log2 => if neg then f.nanRes Causes.invalid else roundApprox f (spLog2 m e).1 (spLog2 m e).2
  | .rcp => roundApprox f neg (spRcp m e)
  | .rsq => if neg then f.nanRes Causes.invalid else roundApprox f false (spRsq m e)
  | .sqrt => if neg then f.nanRes Causes.invalid else roundApprox f false (spSqrt m e)
  | .tanh => roundApprox f neg (spTanh m e)
  | .sigm => roundApprox f false (spSigm neg m e)
  | .sin => roundApprox f (neg != (spSin m e).1) (spSin m e).2
  | .cos => roundApprox f (spCos m e).1 (spCos m e).2
  | .erf => roundApprox f neg (spErf m e)

/-- A special function on an encoding; a subnormal input counts as the zero of its sign (R107, R214). -/
def special (f : FFmt) (fn : SpFn) (x : Nat) : FRes :=
  match f.decode x with
  | .nan s => f.nanRes (causeIf s Causes.invalid)
  | .inf n => spInf f fn n
  | .zero n => spZero f fn n
  | .fin n m e => if m < 2 ^ (f.prec - 1) then spZero f fn n else spFinite f fn n m e

end Sys2Proof
end

