-- ==== Sys2Proof/Machine/Lanes.lean ====
section
/-!
DEFINITION. Machine/Lanes.lean: what the vector instructions compute from their operand rows (05, R186 to R217).
-/
namespace Sys2Proof

/-- The operations of the V slots, without stage and operands (R193). -/
inductive VKind where
  | add | sub | mul | fma | fms | min | max | minu | maxu | and | or | xor | andn | shl | shr | sra
  | abs | neg | mov | sel | clamp | ldexp | expo | maxexp | shuf | pack | radd | rmax | rmin
  | cmp (c : FCond)
  | cvt (rm : VRm) (fr : VType)
  | rnd (rm : Rm)
  | rotl (k : Nat)
  | bcl (k : Nat)
  | unpk (hi zx : Bool)
  | scan (op : ScanOp)
  | sp (fn : SpFn)
  deriving DecidableEq, Repr

/-- Bits [w·i+w−1 : w·i] of a row (R2). -/
def lane (w : Nat) (r : Row) (i : Nat) : Nat := r.toNat / 2 ^ (w * i) % 2 ^ w
/-- The row whose lanes from lane 0 up are the list's. -/
def packLanes (w : Nat) : List Nat → Nat
  | [] => 0
  | x :: xs => x % 2 ^ w + 2 ^ w * packLanes w xs
/-- The byte enables of a list of lane enables. -/
def laneBytes (w : Nat) (ens : List Bool) : Mask :=
  BitVec.ofNat 128 (packLanes (w / 8) (ens.map (fun e => if e then 2 ^ (w / 8) - 1 else 0)))
/-- The row with all bits of an enabled byte set. -/
def spreadMask (en : Mask) : Row :=
  BitVec.ofNat 1024 (packLanes 8 ((List.range 128).map (fun i => if en.getLsbD i then 255 else 0)))
/-- The old row with the enabled bytes of the new one (R184). -/
def mergeRow (old new : Row) (en : Mask) : Row :=
  if en = BitVec.allOnes 128 then new else (old &&& ~~~(spreadMask en)) ||| (new &&& spreadMask en)

/-- The result of a V slot: the row and the bytes it writes; for a compare the mask bits in the low bits of the row
and the lanes it writes (R201); and the causes raised. -/
structure VRes where
  data : Row
  en   : Mask
  fl   : Causes
  deriving DecidableEq, Repr

/-- A result of lanes of w bits, each with its enable and its causes; excluded lanes raise nothing (R61). -/
def laneRes (w : Nat) (rs : List (Bool × FRes)) : VRes :=
  { data := BitVec.ofNat 1024 (packLanes w (rs.map (fun r => r.2.bits)))
    en := laneBytes w (rs.map (fun r => r.1))
    fl := rs.foldl (fun c r => if r.1 then c ||| r.2.fl else c) 0 }

def okRes (x : Nat) : FRes := ⟨x, 0⟩

/-- Integer lane arithmetic modulo 2^w (R104, R195 to R203). -/
def intLane (k : VKind) (w x y z : Nat) : Nat :=
  let X := sextNat w x
  let Y := sextNat w y
  let Z := sextNat w z
  let s := y % w
  match k with
  | .add => intBits w (X + Y)
  | .sub => intBits w (X - Y)
  | .mul => intBits w (X * Y)
  | .fma => intBits w (X * Y + Z)
  | .fms => intBits w (X * Y - Z)
  | .min => if X ≤ Y then x else y
  | .max => if X ≤ Y then y else x
  | .minu => if x ≤ y then x else y
  | .maxu => if x ≤ y then y else x
  | .shl => x * 2 ^ s % 2 ^ w
  | .shr => x / 2 ^ s
  | .sra => intBits w (X / (2 ^ s : Nat))
  | .abs => intBits w X.natAbs
  | .neg => intBits w (-X)
  | .clamp => let m := if X ≤ Z then Z else X; intBits w (if m ≤ Y then m else Y)
  | _ => x

/-- Floating lane arithmetic (R195 to R206). -/
def floatLane (k : VKind) (f : FFmt) (x y z : Nat) : FRes :=
  match k with
  | .add => fadd f .rne (f.decode x) (f.decode y)
  | .sub => fadd f .rne (f.decode x) (f.decode y).negate
  | .mul => fmul f .rne (f.decode x) (f.decode y)
  | .fma => ffma f .rne (f.decode x) (f.decode y) (f.decode z)
  | .fms => ffma f .rne (f.decode x) (f.decode y) (f.decode z).negate
  | .min => fminmax f false x y
  | .max => fminmax f true x y
  | .abs => okRes (x % f.signBit)
  | .neg => okRes (x ^^^ f.signBit)
  | .clamp => let m := fminmax f true x z; let r := fminmax f false m.bits y; ⟨r.bits, m.fl ||| r.fl⟩
  | .ldexp => Sys2Proof.ldexp f x (sextNat f.bits y)
  | .rnd rm => rndIntegral f rm x
  | .expo =>
    match exponentOf (f.decode x) with
    | some e => okRes (intBits f.bits e)
    | none => okRes (intBits f.bits (if (f.decode x).isZero then minInt f.bits else maxInt f.bits))
  | .sp fn => special f fn x
  | _ => okRes x

/-- One lane of an element-wise instruction (R194 to R203). -/
def vLane (k : VKind) (t : VType) (x y z : Nat) : FRes :=
  match k with
  | .and => okRes (x &&& y)
  | .or => okRes (x ||| y)
  | .xor => okRes (x ^^^ y)
  | .andn => okRes (x &&& (2 ^ t.bits - 1 - y))
  | .mov => okRes x
  | .sel => okRes (if z ≠ 0 then x else y)
  | _ => if t.isInt then okRes (intLane k t.bits x y z) else floatLane k (VType.ffmt t) x y z

/-- The condition of a compare lane: signed integers or floats (R201). -/
def cmpLane (c : FCond) (t : VType) (x y : Nat) : Bool × Causes :=
  if t.isInt then
    let X := sextNat t.bits x
    let Y := sextNat t.bits y
    (match c with | .eq => X = Y | .lt => X < Y | .le => X ≤ Y | .un => false, 0)
  else fcompare c ((VType.ffmt t).decode x) ((VType.ffmt t).decode y)

/-- One lane of VCVT (R204); rb is the draw of R111. -/
def cvtLane (rm : VRm) (fr ty : VType) (rb x : Nat) : FRes :=
  let r : Round := match rm with
    | .rne => .mode .rne | .rtz => .mode .rtz | .rup => .mode .rup | .rdn => .mode .rdn | .sr => .sr rb
  let m : Rm := match rm with | .rtz => .rtz | .rup => .rup | .rdn => .rdn | _ => .rne
  match fr.isInt, ty.isInt with
  | true, true => okRes (intBits ty.bits (sat (sextNat fr.bits x) (minInt ty.bits) (maxInt ty.bits)))
  | true, false => ofIntTo (VType.ffmt ty) m (sextNat fr.bits x)
  | false, true => toInt ty.bits r ((VType.ffmt fr).decode x)
  | false, false => roundVal (VType.ffmt ty) r ((VType.ffmt fr).decode x)

/-- Pairs (0,1), (2,3), … combined (R131). -/
def pairUp (op : Nat → Nat → FRes) : List Nat → List FRes
  | x :: y :: r => op x y :: pairUp op r
  | _ => []
/-- tree_reduce of R131: fuel levels. -/
def treeReduce (op : Nat → Nat → FRes) : Nat → List Nat → Causes → FRes
  | 0, xs, fl => ⟨xs.headD 0, fl⟩
  | f + 1, xs, fl =>
    if xs.length ≤ 1 then ⟨xs.headD 0, fl⟩
    else
      let ys := pairUp op xs
      treeReduce op f (ys.map (fun r => r.bits)) (ys.foldl (fun c r => c ||| r.fl) fl)
/-- One step of R132 at distance d. -/
def scanStep (op : Nat → Nat → FRes) (d : Nat) (xs : List Nat) : List FRes :=
  (xs.take d).map okRes ++ (xs.zip (xs.drop d)).map (fun p => op p.1 p.2)
/-- scan_order of R132: the prefixes after fuel steps. -/
def scanOrder (op : Nat → Nat → FRes) : Nat → Nat → List Nat → List Nat
  | 0, _, xs => xs
  | f + 1, d, xs => if xs.length ≤ d then xs else scanOrder op f (2 * d) ((scanStep op d xs).map (fun r => r.bits))
/-- The causes of a scan, each with the lane whose step value raised it. -/
def scanCauses (op : Nat → Nat → FRes) : Nat → Nat → List Nat → List (Nat × Causes)
  | 0, _, _ => []
  | f + 1, d, xs =>
    if xs.length ≤ d then []
    else
      let ys := scanStep op d xs
      ys.zipIdx.map (fun r => (r.2, r.1.fl)) ++ scanCauses op f (2 * d) (ys.map (fun r => r.bits))

/-- The identities of R133. -/
def identityOf (op : ScanOp) (t : VType) : Nat :=
  let f := VType.ffmt t
  match op, t.isInt with
  | .add, true => 0
  | .add, false => f.signBit
  | .max, true => intBits t.bits (minInt t.bits)
  | .max, false => f.signBit + f.infBits
  | .min, true => intBits t.bits (maxInt t.bits)
  | .min, false => f.infBits

def scanKind : ScanOp → VKind
  | .add => .add | .max => .max | .min => .min
/-- The prefix of lane 0, which meets no other: a NaN is delivered as the canonical one, and a signalling one raises FP_INVALID
(R106, R212, R213). -/
def scanFirst (t : VType) (x : Nat) : FRes :=
  if t.isInt then okRes x
  else match (VType.ffmt t).decode x with
    | .nan s => (VType.ffmt t).nanRes (causeIf s Causes.invalid)
    | _ => okRes x
/-- What VSCAN computes from its source lanes. -/
def scanLanes (op : ScanOp) (t : VType) (xs : List Nat) : List Nat :=
  (scanFirst t (xs.headD 0)).bits :: (scanOrder (fun x y => vLane (scanKind op) t x y 0) 8 1 xs).drop 1
/-- The causes of a VSCAN by lane. A step whose value stands at a lane that the mask excludes raises none (R113, which has such
a lane raise nothing; DEDUCED, log 14). -/
def scanRaised (op : ScanOp) (t : VType) (m : Mask) (xs : List Nat) : List (Nat × Causes) :=
  ((0, (scanFirst t (xs.headD 0)).fl) :: scanCauses (fun x y => vLane (scanKind op) t x y 0) 8 1 xs).filter fun c => m.getLsbD c.1

/-- A reduction of the n lanes of a, written to every enabled lane (R212). -/
def reduceRes (op : ScanOp) (t : VType) (n : Nat) (m : Mask) (a : Row) : VRes :=
  let xs := (List.range n).map (fun i => if m.getLsbD i then lane t.bits a i else identityOf op t)
  let r := treeReduce (fun x y => vLane (scanKind op) t x y 0) 8 xs 0
  { laneRes t.bits ((List.range n).map (fun i => (m.getLsbD i, okRes r.bits))) with fl := r.fl }

/-- What a V slot computes: kind, width, type, mask guard, operands a and b, destination d as read at issue, and the
draws of R111 by lane. -/
def vEval (k : VKind) (W : VWidth) (t : VType) (m : Mask) (a b d : Row) (rb : Nat → Nat) : VRes :=
  let w := t.bits
  let n := W.bits / w
  let ids := List.range n
  let en := fun i => m.getLsbD i
  match k with
  | .cmp c =>
    let rs := ids.map (fun i => (en i, cmpLane c t (lane w a i) (lane w b i)))
    { data := BitVec.ofNat 1024 (packLanes 1 (rs.map (fun r => r.2.1.toNat)))
      en := BitVec.ofNat 128 (packLanes 1 (rs.map (fun r => r.1.toNat)))
      fl := rs.foldl (fun s r => if r.1 then s ||| r.2.2 else s) 0 }
  | .cvt rm fr =>
    let n := W.bits / Nat.max fr.bits w
    laneRes w ((List.range n).map (fun i => (en i, cvtLane rm fr t (rb i) (lane fr.bits a i))))
  | .maxexp =>
    let f := VType.ffmt t
    let es := ids.filterMap (fun i => if en i then exponentOf (f.decode (lane w a i)) else none)
    let e := es.foldl max (minInt w)
    laneRes w (ids.map (fun i => (en i, okRes (intBits w e))))
  | .shuf => laneRes w (ids.map (fun i =>
      let k := lane w b i % 128
      (en i, okRes (if k < n then lane w a k else 0))))
  | .rotl k => laneRes w (ids.map (fun i => (en i, okRes (lane w a ((i + n - k % n) % n)))))
  | .bcl k => laneRes w (ids.map (fun i => (en i, okRes (lane w a k))))
  | .pack => laneRes (w / 2) ((List.range (2 * n)).map (fun i =>
      let s := if i < n then lane w a i else lane w b (i - n)
      (en i, okRes (intBits (w / 2) (sat (sextNat w s) (minInt (w / 2)) (maxInt (w / 2)))))))
  | .unpk hi zx => laneRes (2 * w) ((List.range (n / 2)).map (fun i =>
      let s := lane w a ((if hi then n / 2 else 0) + i)
      (en i, okRes (if zx then s else intBits (2 * w) (sextNat w s)))))
  | .radd => reduceRes .add t n m a
  | .rmax => reduceRes .max t n m a
  | .rmin => reduceRes .min t n m a
  | .scan op =>
    let xs := ids.map (fun i => if en i then lane w a i else identityOf op t)
    { laneRes w ((ids.zip (scanLanes op t xs)).map (fun p => (en p.1, okRes p.2))) with
      fl := (scanRaised op t m xs).foldl (fun c r => c ||| r.2) 0 }
  | _ => laneRes w (ids.map (fun i =>
      (en i, if en i then vLane k t (lane w a i) (lane w b i) (lane w d i) else okRes 0)))

/-! ### The lane a cause names (R169) -/

/-- The causes of a reduction, each with the lowest source lane under its node; span lanes stand under an entry. -/
def treeCauses (op : Nat → Nat → FRes) : Nat → Nat → List Nat → List (Nat × Causes)
  | 0, _, _ => []
  | f + 1, span, xs =>
    if xs.length ≤ 1 then []
    else
      let ys := pairUp op xs
      ys.zipIdx.map (fun r => (r.2 * (2 * span), r.1.fl)) ++ treeCauses op f (2 * span) (ys.map (fun r => r.bits))
/-- The causes that a V slot raises, by lane (R61, R169). -/
def vCauses (k : VKind) (W : VWidth) (t : VType) (m : Mask) (a b d : Row) (rb : Nat → Nat) : List (Nat × Causes) :=
  let w := t.bits
  let n := W.bits / w
  let ids := List.range n
  let on := ids.filter (fun i => m.getLsbD i)
  let srcs := fun op => ids.map (fun i => if m.getLsbD i then lane w a i else identityOf op t)
  let f := fun op x y => vLane (scanKind op) t x y 0
  match k with
  | .cmp c => on.map (fun i => (i, (cmpLane c t (lane w a i) (lane w b i)).2))
  | .cvt rm fr =>
    ((List.range (W.bits / Nat.max fr.bits w)).filter (fun i => m.getLsbD i)).map
      (fun i => (i, (cvtLane rm fr t (rb i) (lane fr.bits a i)).fl))
  | .maxexp | .shuf | .rotl _ | .bcl _ | .pack | .unpk _ _ => []
  | .radd => treeCauses (f .add) 8 1 (srcs .add)
  | .rmax => treeCauses (f .max) 8 1 (srcs .max)
  | .rmin => treeCauses (f .min) 8 1 (srcs .min)
  | .scan op => scanRaised op t m (srcs op)
  | _ => on.map (fun i => (i, (vLane k t (lane w a i) (lane w b i) (lane w d i)).fl))
/-- The lowest lane that raised a cause. -/
def causeLane (cs : List (Nat × Causes)) (cause : Nat) : Nat :=
  (((cs.filter (fun c => c.2.getLsbD cause)).map (fun c => c.1)).min?).getD 0

/-- The operations that read their destination (R196, R202, R203). -/
def VKind.readsDest : VKind → Bool
  | .fma | .fms | .sel | .clamp => true
  | _ => false
def VKind.isCmp : VKind → Bool
  | .cmp _ => true
  | _ => false
/-- The operations whose vb field names a vector operand (R193). -/
def VKind.readsB : VKind → Bool
  | .abs | .neg | .mov | .cvt _ _ | .rnd _ | .expo | .maxexp | .rotl _ | .bcl _ | .unpk _ _ | .radd | .rmax | .rmin | .scan _ | .sp _ => false
  | _ => true
/-- Blocks of the stochastic-rounding stream that the operation consumes (R111, R204). -/
def VKind.srBlocks (k : VKind) (W : VWidth) (t : VType) : Nat :=
  match k with
  | .cvt .sr fr => (W.bits / Nat.max fr.bits t.bits + 31) / 32
  | _ => 0

/-- Usable instants of V results after their execution (R65, R193). -/
def vLatency (stage : Nat) (k : VKind) (t : VType) : Nat :=
  match k with
  | .cvt _ _ => 3
  | .sp _ => 8
  | _ =>
    if stage = 2 then 4
    else match k with
      | .and | .or | .xor | .andn | .shl | .shr | .sra | .abs | .neg | .mov | .sel | .minu | .maxu => 2
      | .shuf | .rotl _ | .bcl _ | .pack | .unpk _ _ | .expo => 3
      | .radd | .rmax | .rmin | .scan _ | .maxexp => 6
      | _ => if t.isInt then 2 else 4

/-- Current weights at .w1024 (R88, R193). -/
def vWeightFull (k : VKind) (t : VType) : Nat :=
  match k with
  | .cvt _ _ | .rnd _ | .ldexp => 12
  | .sp _ => 16
  | .expo | .maxexp | .shuf | .rotl _ | .bcl _ | .pack | .unpk _ _ | .radd | .rmax | .rmin | .scan _ | .clamp => 10
  | .and | .or | .xor | .andn | .shl | .shr | .sra | .abs | .neg | .mov | .sel | .minu | .maxu => 8
  | _ => if t.isInt then 8 else 12
/-- The weight at a width: a half at .w512, a quarter at .w256, rounded up (R88). -/
def vWeight (k : VKind) (W : VWidth) (t : VType) : Nat :=
  let f := vWeightFull k t
  match W with
  | .w1024 => f
  | .w512 => (f + 1) / 2
  | .w256 => (f + 3) / 4

end Sys2Proof
end

