-- ==== Sys2Proof/Machine/State.lean ====
section
/-!
DEFINITION. Machine/State.lean: the state of Finrak 9 (R56), as plain data, the fault and refusal reasons, and the
state right after device reset. Reset values with no value in the spec are zero (DESIGN CHOICE, assumption log 1).
-/
namespace Sys2Proof.Machine

/-- Why a step of the machine stops: for no reason. Every cause of the manual's fault table is a trap that the machine takes
(R165, R507), and a package without power waits for it (R498), so no step answers a fault. Safe. -/
inductive Fault where
  deriving DecidableEq, Repr

/-- Why an instruction has no meaning in the model. -/
inductive Refusal where
  /-- Raised by the dispatch alone, for an instruction whose meaning is not written yet. Safe. -/
  | notModelled (mnemonic : String)
  deriving DecidableEq, Repr

/-! ### Registers in the physical numbering of R141 -/

/-- A physical register a result can land in or an instruction can read. -/
inductive PRef where
  | x (n : Nat)    -- x0 to x63
  | sx (n : Nat)   -- the companion's shadow of x24 + n (R164)
  | p (n : Nat)
  | sp (n : Nat)   -- the companion's shadow of p4 + n
  | v (n : Nat)
  | o (n : Nat)
  | m (n : Nat)
  | g (n : Nat)
  | q (n : Nat)
  deriving DecidableEq, Repr

/-- Where a vector result goes: a v or o register, or position pos of stream q (R190). -/
inductive VDst where
  | v (n : Nat)
  | o (n : Nat)
  | q (k pos : Nat)
  | mask (md : Nat)
  | gone                -- a position of a stream that was freed meanwhile
  deriving DecidableEq, Repr

/-- The transforms a row load applies (R228). -/
inductive LdXf where
  | row
  | transpose
  | bcast (part : Nat)
  deriving DecidableEq, Repr

/-- A V slot as issued: everything but a cascaded operand is a value already (R184, R187). -/
structure VOp where
  stage : Nat
  kind  : VKind
  w     : VWidth
  t     : VType
  m     : Mask
  a     : Row
  b     : Row
  d     : Row
  casA  : Bool
  casB  : Bool
  dst   : VDst
  deriving DecidableEq, Repr

/-- The state of a buffer (R223); core numbers within the cluster. -/
inductive BufState where
  | owned (k : Nat)
  | transit (d : Nat)
  | published (k : Nat)
  deriving DecidableEq, Repr

/-- What an entry of the loop state becomes when LOOP or BRL takes effect (R151, R152, R154). -/
structure LoopState where
  lc   : BitVec 32
  ec   : BitVec 6
  base : BitVec 4
  act  : Bool
  deriving DecidableEq, Repr

/-- A drained row on its way to its destination (R284, R285). -/
structure DrainOut where
  dkind : Nat            -- 0 write stream, 1 direct rows, 2 tile queue
  dnum  : Nat
  pos   : Nat            -- first stream position, or first entry
  k     : Nat            -- destination rows (R304)
  rows  : List Nat       -- scratchpad rows of the direct and local-stream kinds
  data  : List Row
  fl    : Causes
  corr  : List Nat       -- channels corrected in this row (R294)
  uncorr : Bool
  carry : Bool
  deriving DecidableEq, Repr

/-- One side's slices of a beat: 128 signed slices and the special bits (R278). -/
structure Feed where
  sl   : List Int
  spec : Mask
  deriving DecidableEq, Repr

/-- A result, access or change that takes effect at a fixed instant (R65, R177). -/
inductive Effect where
  | x (shadow : Bool) (r : Nat) (v : Word)
  | p (shadow : Bool) (r : Nat) (v : Bool)
  | vec (d : VDst) (data : Row) (en : Mask) (enters : Option Nat)
  | vop (op : VOp) (src : Nat) (operand : Option Row)
  | mask (md : Nat) (res en : Mask)
  | rowRead (row : Nat) (xf : LdXf) (d : VDst)
  | rowWrite (addr : Nat) (data : Row) (en : Mask) (whole : Bool)   -- the byte address; its row is written
  | wrc (n : BitVec 12) (v : Word)
  | loop (l : LoopState) (p8 : List (Nat × Bool))
  | bufState (idx : Nat) (e : BufState)
  | sbind (k addr : Nat)
  | sfree (k : Nat)
  | greg (n : Nat) (vals : List (BitVec 16)) (tag : BitVec 2)
  | xmaskRow (i : Nat) (v : Mask)
  | xmaskFill
  | xmaskInv
  | xcfg (bank : Bool) (w : Word)
  | beat (bank clear : Bool) (a b : Feed)
  | xclear (bank : Bool)
  | drain (o : DrainOut)
  | tqbind (w : Word)
  | tqflush (k : Nat)
  | lnch (start : Bool) (xd : Nat) (addr : Nat)  -- start: the stream follows the launch (R170)
  | tile (l : Nat)                       -- entry of tile l of the running slice (R373)
  | commit (n : Nat)                     -- the first n held rows are sent (R457)
  | canc (level : Nat) (x : Word)         -- CANC acts (R375)
  | fix                                  -- the selection is fixed (R365)
  | hcval (shadow : Bool) (r : Nat)
  | unshade                               -- UIRET: the main bank is selected again (R165)
  | jsub (addr : Nat) (xd : Option PRef) (cyc : Nat)    -- CYC of its issue (R307)
  | jcan (serial : Nat)
  | barq (bar : Nat) (xd : Option PRef)
  | nmsub (addr : Nat) (xd : Option PRef) (cyc : Nat)
  | nmfn (ticket : Nat) (xd : Option PRef)
  | smpsub (addr : Nat) (xd : Option PRef) (cyc : Nat)
  | barm (bar : Nat) (add ui : Bool) (v : Word)
  | uien (src : BitVec 8)
  | phsel (b : Bool)
  | phld (bank : Bool) (va n : Nat)
  deriving DecidableEq, Repr

/-- An entry in flight: the instant of its stream at which it takes effect, the bundle and slot it came from (R86). -/
structure Pend where
  due  : Nat
  iss  : Nat
  pc   : BitVec 52
  slot : Nat
  eff  : Effect
  deriving DecidableEq, Repr

/-- A target register (R138). -/
structure Target where
  addr  : Word
  valid : Bool
  prep  : Nat
  deriving DecidableEq, Repr

/-- The trap registers of a stream (R168, R180). -/
structure TrapRegs where
  pend  : Bool
  cls   : BitVec 3
  cause : BitVec 7
  pc    : BitVec 52
  npc   : BitVec 52
  slot  : BitVec 3
  info  : Word
  cyc   : Word
  deriving DecidableEq, Repr

/-- What a stream is doing. -/
inductive Run where
  | idle       -- not started (R24)
  | running
  | slack      -- past PHEND (R48)
  | waiti      -- stopped by WAITI (R166)
  | realign    -- waiting for alignment (R159)
  | trapped    -- stopped by a trap or with its group (R168, R43)
  | ended      -- its job is over
  deriving DecidableEq, Repr

/-- A fence a stream waits on (R251). -/
structure FenceWait where
  kind  : Nat        -- 0 ACQ, 1 REL, 2 FULL
  scope : FScope
  upto  : Nat        -- accesses with a smaller number came before the fence
  deriving DecidableEq, Repr

/-- One stream of a core (R19, R136); the companion uses x0–x31, p0–p7, v0–v15, m0–m7 of the files. -/
structure Strm where
  run    : Run
  inst   : Nat                 -- unfrozen cycles so far: the stream's instants (R6)
  pc     : BitVec 52           -- the bundle to issue next
  last   : BitVec 52           -- the last bundle issued (R168)
  npc    : BitVec 52           -- successor of the bundle being issued
  holdTo : Nat                 -- end of the hold cycles (R64)
  ready  : Nat                 -- instant of the next issue: hold, then bubbles (R150)
  left   : Nat × Nat           -- hold and bubble cycles kept while stopped (R168)
  back   : Run                 -- what a stopped stream goes back to: it runs, or awaits what it awaited (R166, R168)
  x      : Vector Word 64
  sx     : Vector Word 8
  p      : Vector Bool 16
  sp     : Vector Bool 4
  v      : Vector Row 32
  o      : Vector Row 16
  j      : Vector Row 8
  m      : Vector Mask 16
  t      : Vector Target 8
  ras    : List Word           -- newest first
  axen   : BitVec 6
  axflag : BitVec 6
  srctr  : Word
  trap   : TrapRegs
  late   : Bool                -- a deferred fault of this cycle: the stream stops when its bundle has issued (R505)
  origin : Nat                 -- the instant at which the bundle of that fault was issued (R85)
  hcsel  : Word                -- R376
  nmstat : Word                -- R353
  nmnext : BitVec 32           -- NMQ.NEXT (R353)
  pend   : List Pend           -- in order of issue
  waits  : List (Nat × PRef)   -- pending registers of R67, with the access that will write them
  fence  : Option FenceWait
  ibuf   : List (Nat × BitVec 256)  -- bundles fetched ahead (R162)
  deriving DecidableEq, Repr

/-- A staged row of a read stream: its position, the row, and the cause its consumer meets (0: none). -/
structure Staged where
  pos  : Nat
  row  : Row
  bad  : Nat
  deriving DecidableEq, Repr

/-- A stream transfer unit (R230 to R244). -/
structure SUnit where
  bound  : Bool
  took   : Nat                 -- instant + 1 of the last position consumed, 0 when none (R71)
  gen    : Nat                 -- bindings made before this one
  desc   : BitVec 512
  start  : Nat                 -- instant of the SBIND
  next   : Nat                 -- next position consumed or written
  filled : Nat                 -- next position to fill
  req    : Nat                 -- next position to request
  asked  : List (Nat × Nat)    -- positions requested and not consumed, with the wall cycle of the first request (R244)
  stage  : List Staged
  landed : List (Nat × Bool × Nat)  -- positions landed in the ring, with poison and the wall cycle
  unack  : List Nat            -- written positions not yet acknowledged (R237)
  acks   : List (Nat × Nat)    -- acknowledged positions, with the wall cycle
  lost   : List (Nat × Nat)    -- positions marked failed, with the cause (R225, R239, R243)
  group  : Option (Nat × List Row)  -- the transposer's group (R236)
  tread  : Nat                 -- instant + 1 of the transposer's last read, 0 when none (R239)
  deriving DecidableEq, Repr

/-- The ring of a freed stream, reserved while rows of it are on their way (R241). -/
structure OldRing where
  q    : Nat
  gen  : Nat
  base : Nat                   -- its first row
  rows : Nat
  deriving DecidableEq, Repr

/-- One row of an accumulator bank: 128 cells of seven residues (or 56 chunk bits), and the special bits (R266). -/
structure MRow where
  cells : Vector (BitVec 56) 128
  spec  : Mask
  deriving DecidableEq, Repr

/-- A bank with its status and meter (R266, R268, R280). -/
structure Bank where
  rows   : Vector MRow 128
  mtr    : Nat
  drow   : Nat
  slev   : Nat
  bfmt   : XFmt
  chunk  : Bool
  act    : Bool
  clrrun : Nat
  deriving DecidableEq, Repr

/-- A g register (R269); tag 0 NONE, 1 SCALE, 2 ZERO, 3 EXP. -/
structure GRegister where
  vals : Vector (BitVec 16) 128
  tag  : BitVec 2
  deriving DecidableEq, Repr

/-- A nibble latch (R277). -/
structure Latch where
  bytes : BitVec 512
  half  : Bool
  deriving DecidableEq, Repr

/-- The matrix engine of a core (R266). -/
structure Matrix where
  z0     : Bank
  z1     : Bank
  ck     : Option (Bool × Bank)   -- the segment checkpoint and the bank it copies (R301)
  bcfg0  : Word
  bcfg1  : Word
  g      : Vector GRegister 32
  mask   : Vector Mask 128
  mvalid : Bool
  latch  : Vector Latch 16
  off    : Bool                   -- RNSSTAT
  ret    : Option Nat
  inForce : Option Nat            -- the retired channel that drains and beats reckon with (R297)
  lch    : Option Nat
  rnslim : BitVec 8
  ucnt   : Nat                    -- RNSCNT
  ch     : Vector Nat 7
  deriving DecidableEq, Repr

/-! ### The core -/

/-- Where a core's primary stream stands in the phase cycle (R30, R157, R159). -/
inductive Place where
  | outside        -- before the job's start, or after it
  | startCode      -- from the job's start to the PHEND that ends the start code
  | body           -- between the entry bundle and PHEND
  | window         -- past PHEND, waiting for the next start
  deriving DecidableEq, Repr

/-- A freeze that was announced to a core, or holds it (R36 to R38). -/
structure Freeze where
  src   : FreezeSrc
  owner : CoreId
  key   : Nat              -- the core's own instant at which it takes effect; of a stretch or a pre-emption, the wall cycle
  heard : Bool             -- the core has heard of it, once its condition has cleared of that; a message may still cross the bridge (R398)
  eff   : Option Nat       -- the wall cycle it took effect
  clr   : Option Nat       -- the wall cycle its condition cleared
  deriving DecidableEq, Repr

/-- A cached translation of untimed accesses and fetches (R253): a page of 2^size bytes, with bits R, W, X. -/
structure Tlb where
  va   : Nat
  size : Nat
  pa   : Nat
  perm : BitVec 3
  deriving DecidableEq, Repr

/-- A tile-queue endpoint (R408 to R418). -/
structure Endpoint where
  bound  : Bool
  flush  : Bool                 -- outbound endpoint flushing
  bind   : Word                 -- the binding word
  rows   : List (Nat × Row)     -- rows held, with the wall cycle each landed or was written
  count  : Nat                  -- rows read or written since binding
  took   : Nat                  -- instant + 1 of the last row consumed, 0 when none (R71)
  moved  : Nat                  -- inbound: rows landed since binding; outbound: rows sent
  acked  : Nat                  -- outbound: rows acknowledged as landed; inbound: rows reported landed
  freed  : Nat                  -- inbound: rows freed and not yet reported
  credit : Nat                  -- outbound: rows the peer will take
  stale  : Option Word          -- the old inbound binding until its TQCLOSE arrives (R410)
  everBound : Bool              -- bound since the job started (R417)
  closed : Bool                 -- inbound: the peer's TQCLOSE has arrived
  log    : List (Nat × Nat)      -- rows freed of late, newest first: wall cycle and number
  grant  : Nat                  -- the grant of a peer that bound before this endpoint did (log 67)
  deriving DecidableEq, Repr

/-- A row held in the egress buffer (R455): for stream q, or an endpoint. -/
structure Held where
  isTq : Bool
  k    : Nat
  pos  : Nat
  row  : Row
  gen  : Nat                   -- of a stream: its binding, the row's virtual address, LEAD, physical address and OP
  addr : Nat
  lead : Nat
  pa   : Nat
  op   : Nat
  slot : Nat                   -- the slot and the instant of the bundle that produced it, and the instant at which it landed (R455, R471)
  iss  : Nat
  inst : Nat
  deriving DecidableEq, Repr

/-- A launch slice in progress on a core (R371 to R373). -/
structure Slice where
  handle : Nat
  cont   : BitVec 52
  task   : BitVec 52
  depth  : Nat
  perm   : List Nat
  count  : List Nat
  first  : Nat
  len    : Nat
  cur    : Nat                          -- the tile running
  deriving DecidableEq, Repr

/-- The registers a segment snapshot holds (R452). -/
structure Snapshot where
  x      : Vector Word 64
  p      : Vector Bool 16
  v      : Vector Row 32
  o      : Vector Row 16
  j      : Vector Row 8
  m      : Vector Mask 16
  t      : Vector Target 8
  ras    : List Word
  loop   : LoopState
  axflag : BitVec 6
  srctr  : Word
  s0pc   : BitVec 52
  inst   : Nat                  -- the instant of the opening bundle
  holdTo : Nat
  ready  : Nat
  ann    : List Freeze
  pend   : List Pend
  q      : List SUnit
  slice  : Option Slice         -- the tile that runs, and the signature so far (not in R452's list)
  stsig  : Word
  audit  : Option (Nat × Nat)   -- as in the core
  reads  : List Nat             -- rows read of inbound endpoints since binding, and rows sent to outbound ones
  deriving DecidableEq, Repr

/-- The segment logic of a core (R451 to R463). -/
structure Segment where
  isOpen  : Bool
  valid   : Bool
  fix     : Bool
  rpl     : Bool
  rewinds : Nat
  held    : List Held                   -- the egress buffer
  ingress : List (Nat × Row)            -- endpoint and row, in order of consumption
  logpos  : List Nat                    -- read positions during a replay, by endpoint
  snap    : Option Snapshot
  replayTo : Option Nat                 -- i_s while the core replays (R459)
  restore  : Nat                        -- last wall cycle of the restore that precedes it
  s0      : Nat                         -- instant of the first bundle of the segment
  sent    : Nat                         -- last instant whose rows were sent before a rewind (R455)
  bad     : Bool                        -- the snapshot store cannot be read (R459)
  deriving DecidableEq, Repr

/-- A write that a store signature is to cover: its slot, kind and address, byte enables and data (R471). -/
structure Sign where
  slot : Nat
  addr : Nat
  en   : Mask
  data : Row
  deriving DecidableEq, Repr

/-- A row that a slice takes: the instant of its bundle, its tag and the row (R469). -/
structure AudIn where
  iss : Nat
  tag : Nat × Nat
  row : Row
  deriving DecidableEq, Repr

/-- A value that a slice is returned: the instant and slot of its instruction, and the value (R469). -/
structure AudRes where
  iss   : Nat
  slot  : Nat
  value : Word
  deriving DecidableEq, Repr

/-- What an audit log holds of a core: the registers' bytes and the scratchpad at the issue of an LNCH, its instant, and the inputs
and results from there on (R469). -/
structure AudImage where
  iss  : Nat
  regs : Nat
  sp   : List (Nat × Byte)
  ins  : List AudIn
  res  : List AudRes
  deriving DecidableEq, Repr

/-- A core: two streams, their shared control state and its engines (R17, R56). -/
structure Core where
  prim    : Strm
  comp    : Strm
  frozen  : Bool
  freezes : List Freeze
  frun    : Nat                          -- length of the freeze run (R41)
  frlim   : Nat                          -- the FRZMAX that applies to the run
  hist    : List Nat                     -- wall cycles of the last 73 primary instants, newest first (R37)
  place   : Place
  b0      : Nat                          -- primary instant of the entry bundle (R45)
  group   : Option Nat                   -- freeze group of the running phase (R34)
  opens   : List (Nat × Nat)             -- rows of timed writes that have performed, with the instants at which their windows close (R261)
  stopAt  : Option Nat                   -- wall cycle at which the group stops (R43)
  ahead   : Nat                          -- instants that the group has passed since this core's own fault (R37, R43)
  faultCy : Option Nat                   -- wall cycle f of the fault that stops it
  cont    : Bool                         -- CONTINUE written (R170)
  startAt : Option Nat                   -- wall cycle of the announced entry bundle (R368)
  goAt    : Option Nat                   -- wall cycle of the resumed group's first issue (R170, R178)
  slice   : Option Slice
  realigned : Bool                       -- REALIGN executed in this job (R159)
  loop    : LoopState                    -- LC, EC, RBASE
  segpc   : BitVec 52
  holdchk : Bool
  srkey   : Vector Word 4
  uivAddr : BitVec 47                    -- UIVEC.ADDR, bits [51:5]
  uivEn   : Bool
  inh     : Bool                         -- UISTAT.INH: the shadow bank is selected
  uiq     : List (List Word × Nat)       -- records queued for delivery: 8 words and the ring entry's address
  uiepc   : BitVec 52
  uien    : BitVec 8                     -- UICTL.SRC (R327, R335)
  uiHead  : BitVec 12
  uiTail  : BitVec 12
  uiOvf   : Bool
  uiRing  : Word                         -- UIRING
  barbase : Word
  bars    : Vector Word 128              -- barrier state words (R321)
  frzcnt  : Word
  weircnt : Word
  frzmax  : BitVec 32
  weirSet : BitVec 16
  weirFlr : BitVec 16
  weirLim : BitVec 16
  weights : List Nat                     -- weights charged in the last 64 wall cycles, newest first (R484)
  charge  : Nat                          -- weight charged in the present cycle
  sp      : List (Nat × Byte)            -- scratchpad
  spBad   : List Nat                     -- poisoned rows, ascending (R221)
  q       : Vector SUnit 8
  oldRings : List OldRing
  oldUnits : List (Nat × Nat × SUnit) -- streams freed of late: number, instant, unit, for the rows then in flight (R241)
  dscAt    : Nat                   -- instant + 1 at which an SBIND last read its descriptor, 0 when none (R239)
  tq      : Vector Endpoint 8
  mx      : Matrix
  xIss    : List Nat                     -- issue instants of the last occupied X slots (R156)
  seg     : Segment
  stsig   : Word
  audit   : Option (Nat × Nat)           -- the audit block being logged, and the instant of its LNCH (R469)
  signs   : List Sign                    -- writes of the present instant, before the signature takes them (R471)
  atLnch  : Option AudImage              -- what an LNCH that may start a selected slice found at its issue (R469)
  tlb     : List Tlb
  ctx     : Option Nat                   -- the context the core runs (R377)
  deriving DecidableEq, Repr

/-! ### Untimed accesses (R245 to R250) -/

/-- Who sent an access to a home. -/
inductive Party where
  | strm (k : CoreId) (comp : Bool)   -- an untimed access of a stream
  | unit (k : CoreId) (q gen : Nat)   -- a stream transfer unit of a core, and its binding
  | job (cl : ClusterId) (serial : Nat)
  | nm (u : UnitId)
  | sampler (cl : ClusterId)
  | host
  | link (dev : Nat) (tag : Nat)      -- another package (R390)
  deriving DecidableEq, Repr

/-- What an access does at its home. -/
inductive AccOp where
  | read (bytes : Nat)
  | peer (home : CoreId) (row : Nat)                    -- a peer read of a scratchpad row (R235)
  | write (data : Row) (en : Mask)
  | aop (op : Nat) (b old : Word) (ret : Bool)          -- R248; `old` is the expected value of CAS
  | rwl (op : Nat) (xin : Bool)                         -- R249
  | hostAtomic (op : Nat) (wide : Bool) (b cmp : Word)  -- R493
  | spoil (data : Row) (en : Mask)                      -- a write that leaves its sector poisoned (R329)
  | reduce (fadd : Bool) (data : Row)                   -- a reduction row of a GLOBAL_WR stream (R238)
  deriving DecidableEq, Repr

/-- An access on its way to its home, or performed and not yet answered or acknowledged. -/
structure Access where
  id     : Nat
  who    : Party
  op     : AccOp
  pa     : Nat
  sent   : Nat                 -- wall cycle it was sent
  inst   : Nat                 -- the instant of the stream, or, of a unit, of its core; and the unit's LEAD (R258)
  lead   : Nat
  ctx    : Option Nat          -- of an access of a core: the context that the core ran (R466)
  grp    : Option Nat          -- of a timed access: its freeze group (R258)
  phase  : Option (Option Nat × Nat) -- context and phase of an engine that takes part in a phase (R259)
  shut   : Option Nat          -- wall cycle in which the window of a timed access closed (R258)
  dst    : List PRef           -- registers its reply writes
  pos    : Nat                 -- stream position
  pc     : BitVec 52           -- the bundle of a stream's access (R86)
  out    : Bool                -- sent on: an access of the host waits for its earlier posted writes (R493)
  done   : Bool                -- performed
  held   : Bool                -- a write that has waited for the copy of a marked block (R333)
  result : Row                 -- what it returns
  poison : Bool
  deriving DecidableEq, Repr

/-! ### Clusters -/

/-- The stamp of a submission (R307). -/
structure Stamp where
  pc     : BitVec 52
  core   : CoreId
  comp   : Bool
  cyc    : Nat
  ctx    : Option Nat           -- the context it was submitted in
  serial : Nat
  deriving DecidableEq, Repr

/-- Where a job stands (R308): it waits for its edges or an engine, it runs, it waits for its acknowledgements, or, for a
JSNAP, its marks are set. -/
inductive JobPhase where
  | waiting | started | finishing | marked
  deriving DecidableEq, Repr

/-- A job in a scheduler (R306 to R320). -/
structure Job where
  card     : Row
  stamp    : Stamp
  edges    : List Nat          -- serials it waits for (R320)
  phase    : JobPhase
  seq      : Nat               -- PHID.SEQ at submission
  item     : Nat               -- the item of R317 it is at, and where in the item
  sub      : Nat
  idx      : Option Nat        -- index of the present record (R314)
  ibad     : Bool              -- that index came poisoned (R329)
  asked    : Bool              -- the reads of the present piece have been sent
  got      : List (Nat × Row × Bool) -- their results, by position
  carry    : List (Nat × Nat × Nat × Bool) -- bytes read whose piece is still to come: address, number, value, poison (R257)
  moved    : Nat               -- bytes written
  fault    : Nat               -- cause, 0 when none
  faultVa  : Nat
  region   : Nat               -- region of the fault; write regions from 8 up
  canc     : Bool
  hostLast : Option Nat        -- last host address written, while it is to be read back (R330)
  blocks   : List (Nat × Nat × Nat) -- of a JSNAP: source block; where its copy starts, and goes on in the next page
  deriving DecidableEq, Repr

/-- The stages of a sampler request (R420); `execute` holds its length, `commit` the member and how far its commit is. -/
inductive SStage where
  | queued | fetch | execute (len : Nat) | commit (i sub : Nat)
  deriving DecidableEq, Repr

/-- A member of a request: what the fetch read for it, and what its walk decided (R426, R433, R441). -/
structure SMember where
  b      : Nat                 -- member number
  why    : Nat                 -- WHY of its result record, 0 unless skipped
  desc   : Nat                 -- descriptor, tree record, count table, bias table and allow bitmap, as bytes
  tree   : Nat
  counts : Nat
  bias   : Nat
  allow  : Nat
  path   : List Nat            -- accepted nodes in order
  bonus  : Option Nat
  lastT  : Nat
  lastN  : Nat
  lpois  : Bool
  empty  : Bool
  nan    : Bool
  fin    : Bool
  kvrej  : Bool
  full   : Bool
  toks   : List Nat            -- tokens committed
  nlen   : Nat
  st     : Nat                 -- STATE after the commit
  deriving DecidableEq, Repr

/-- A sampler request (R420 to R425). -/
structure SReq where
  card   : Row
  stamp  : Stamp
  iter   : Nat
  stage  : SStage
  seq    : Nat                 -- PHID.SEQ at submission
  inBody : Bool                -- submitted by a primary inside a phase body
  closed : Bool                -- the core close of its phase has passed (R423)
  failed : Bool                -- it has made a record of a fault (R425)
  mems   : List SMember
  start  : Nat                 -- CYC at the start of execute
  deriving DecidableEq, Repr

/-- A cluster: its buffers, its scheduler, its translation cache and its sampler. -/
structure Cluster where
  bufs    : Vector BufState 512
  serial  : Nat
  jobs    : List Job
  jcans   : List (CoreId × Nat) -- JCANs that have reached the scheduler in the present cycle (R319, R336)
  ptc     : List Tlb            -- phase translation cache in force
  ptcNext : List Tlb            -- being loaded for the latched phase
  smpbase : Word
  smpblogA : Word
  smpblogS : BitVec 5
  smpbcnt : Word
  stall   : BitVec 32
  reqs    : List SReq           -- oldest first
  lost    : List (Nat × Nat)    -- slots and entries lost while their request runs (R431)
  deriving DecidableEq, Repr

/-! ### Near-memory units (09) -/

/-- A near-memory command in an outbox or a unit's queue, oldest first (R340, R349, R350). -/
structure NmCmd where
  cmd    : BitVec 256
  stamp  : Stamp                -- serial is the ticket
  queued : Bool                 -- passed on by its outbox to the queue of its unit (R350)
  begun  : Bool                 -- checked and translated
  xl     : List Tlb             -- the translations of its ranges (R347)
  blk    : BitVec 512           -- NADAMW's parameter block
  done   : Nat                  -- elements done
  acc    : FVal                 -- NRED: the exact sum, or the largest magnitude
  crc    : Nat                  -- NCHK: the CRC so far
  bad    : Nat                  -- NCHK: poisoned sectors met
  wrote  : Bool                 -- NRED and NCHK: the result has been written
  fault  : Nat                  -- cause, 0 when none
  fva    : Nat                  -- faulting address and operand (R351)
  fop    : Nat
  transient : Bool              -- the error arose on the way from the cells (R353)
  deriving DecidableEq, Repr

/-- An NMFN that waits (R352). -/
structure NmWait where
  core   : CoreId
  comp   : Bool
  ticket : Nat
  id     : Nat                  -- of its pending register (R67)
  xd     : Option PRef
  reg    : Bool                 -- registered with the Sluice tree
  pc     : BitVec 52            -- its bundle
  deriving DecidableEq, Repr

/-! ### Phase sequencer (10) -/

inductive BankSt where
  | empty | loading | valid
  deriving DecidableEq, Repr

/-- A phase table bank (R355). -/
structure PBank where
  st      : BankSt
  entries : Vector (BitVec 512) 512
  load    : Option (Nat × Nat × Nat)   -- a load in progress: source address, entries, level-0 table
  deriving DecidableEq, Repr

/-- A core entry as the agents hold it (R357, R359). -/
structure CoreEntry where
  core   : CoreId
  group  : Nat
  djobs  : Nat
  delay  : Nat
  entry  : BitVec 52
  fplist : List (Nat × Nat × Nat)      -- base, length, permissions
  tqlist : List Word
  deriving DecidableEq, Repr

/-- A latched or running phase (R365). -/
structure PhaseDesc where
  seq     : Nat                        -- PHID.SEQ of the phase, once it starts
  bank     : Bool
  index    : Nat
  nxa      : Nat
  nxb      : Nat
  defB     : Bool
  isEnd    : Bool
  span     : Bool
  slackmax : Nat
  selcore  : Option CoreId
  mindelay : Nat
  cores    : List CoreEntry
  prompt   : Nat                       -- P in force at the latch (R381)
  modeOff  : Bool
  xoff     : List CoreId               -- cores offline at the latch (R372)
  deriving DecidableEq, Repr

/-- What can arrive at a boundary (R46, R367). -/
inductive Arrival where
  | core (k : CoreId)
  | job (cl : ClusterId) (serial : Nat)
  | sampler (cl : ClusterId) (iter : Nat)
  | unsubmitted (k : CoreId)
  | refresh | pretrans | training | bankLoad
  deriving DecidableEq, Repr

/-- What the agents copy at the latch of a phase: its entries, and P, the mode and the cores offline as they stand (R365, R372,
R381). -/
structure LatchCopy where
  entries : List Nat
  prompt  : Nat
  modeOff : Bool
  xoff    : List CoreId
  deriving DecidableEq, Repr

/-- A boundary being collected (R46 to R49, R365 to R369). -/
structure Boundary where
  start    : Bool                      -- the start boundary of a job
  missing  : List Arrival
  stamps   : List (Arrival × Nat)      -- arrivals made, with their CYC
  slackmax : Nat
  seq      : Nat                       -- PHID.SEQ of the phase it ends
  fixed    : Bool
  chosen   : Option (Bool × Nat)       -- bank and index chosen
  copied   : Option LatchCopy          -- the phase chosen, once it is latched and while its lists are read (R361, R365)
  endJob   : Bool                      -- the job completes here: END, or a CANC of the job
  allSkip  : Option Nat                -- start instant of a phase that runs no core (R359)
  pages    : List Nat                  -- page requests posted and not answered (R361)
  hold     : Nat                       -- cause of a hold, 0 when none
  went     : Option Nat                -- wall cycle of firmware's GO
  lAt      : Option Nat                -- L
  skip     : Option (Bool × Nat)       -- phase to skip: its bank and header index (R375)
  sent     : Bool                      -- F and L sent to the job's root (R406)
  spanFL   : List (Nat × Nat × Nat)    -- at the root: device, F and L of the packages heard
  out      : Nat                       -- wall cycles the context was switched out since F (R368)
  deriving DecidableEq, Repr

/-- A counter of the hierarchy (R374). -/
structure HCount where
  level : Nat
  id    : Nat
  seq   : Nat                          -- PHID.SEQ of its phase
  count : Nat
  done  : Bool
  canc  : Bool
  recAddr : Nat                        -- record address, for a launch
  pre   : Bool                         -- launched outside a phase body
  set   : List CoreId                  -- core set of a launch (R372)
  ended : List Nat                     -- tile indexes already counted (R454)
  zero  : Bool                         -- cancelled outside a timed phase: COUNT reads 0 (R375)
  deriving DecidableEq, Repr

/-- What the sequencer holds for a context: its banks, its phases, its boundary and its counters. -/
structure SeqState where
  bankA : PBank
  bankB : PBank
  phSeq : BitVec 32
  phBank : Bool
  phIndex : BitVec 9
  selOpen : Bool
  selValid : Bool
  selB : Bool
  running : Option PhaseDesc
  latched : Option PhaseDesc
  bound : Option Boundary
  hcounts : List HCount
  aligned : Bool                       -- its job is aligned, with this SPANDLY (R51)
  failed  : Bool                       -- its REALIGN has failed (R159)
  spandly : BitVec 16
  lastEnd : Option (Boundary × Option PhaseDesc)
  ptcs  : Vector (List Tlb × List Tlb) 16   -- phase translation caches, in force and being loaded
  deriving DecidableEq, Repr

/-- A context that ran and was switched out, or runs (R377, R378). -/
structure Context where
  num    : Nat
  mask   : BitVec 128
  init   : BitVec 52
  recb   : Nat
  started : Bool
  saved  : List (CoreId × Core)        -- cores switched out, as their records hold them (R175)
  saving : List CoreId                 -- cores stopped, waiting for their untimed results
  jobRun : Bool
  coming : List CoreId                 -- cores it is to be switched in on, once they are free
  slot   : Nat × Nat                   -- class of the slot that switches it in, and when that slot began (R380)
  nmHeld : List NmWait                 -- NMFNs that waited when their core was switched out
  seq    : Option SeqState             -- kept while another context holds the sequencer
  deriving DecidableEq, Repr

/-- An audit log block (R469): the slice it logs, how complete it is, and the signatures of its runs. -/
structure AudBlk where
  num   : Nat
  ctx   : Option Nat
  seq   : Nat
  j     : Nat
  k     : CoreId
  first : Nat
  len   : Nat
  recAt : Nat
  recNum : Nat                          -- the launch record's 64 bytes
  pc    : BitVec 52
  log   : AudImage
  image : Bool                          -- every row has been copied
  ended : Bool                          -- the slice has ended, with signature sig
  sig   : Word
  spot  : Option (Nat × Nat)            -- once written: the bytes written to the ring before it, and its address
  runs  : List (CoreId × Word)          -- replays
  deriving DecidableEq, Repr

/-- A fallback in progress: its context, and the first words of its recovery record (R466, R467). -/
structure Fall where
  ctx   : Option Nat
  words : List Word
  deriving DecidableEq, Repr

/-! ### Links (11) -/

/-- A Clapel or bridge port (R385 to R397). -/
structure Port where
  ctl     : Word                        -- PCTL without its one-shot bit
  up      : Bool
  rate    : BitVec 2
  train   : Bool
  peerDev : BitVec 10
  peerPort : BitVec 6
  retrains : BitVec 16
  lat     : BitVec 16
  feccor  : BitVec 32
  fecunc  : BitVec 16
  crcerr  : BitVec 16
  rply    : BitVec 32
  naktx   : BitVec 16
  winrpl  : Nat
  hits    : Nat                         -- windows in a row that reached RPLTH at 56 Gb/s (R394)
  fails   : Nat                         -- trainings in a row that failed (R395)
  held    : Bool                        -- held down
  nextSeq : BitVec 8                    -- SEQ of the next data flit sent
  lastAck : BitVec 8                    -- last SEQ acknowledged by the peer
  replay  : List (BitVec 8 × List (BitVec 128) × Nat) -- replay buffer: SEQ, units and START of each flit (R391)
  again   : List (BitVec 8)             -- held flits that are to be sent again, before any new one
  nakDue  : Bool                        -- the next flit sent carries NAK (R392)
  trainAt : Nat                         -- wall cycle at which the training began (R394)
  expSeq  : BitVec 8                    -- SEQ expected next
  nakOut  : Option Nat                  -- wall cycle of the last NAK since an accepted flit (R392)
  txq     : List (List Byte)            -- the flit that the transmitter sends in the present cycle
  credTx  : Vector Nat 4                -- units sent, by class (R402)
  credPeer : Vector Nat 4               -- units the peer has freed, cumulative
  credRx  : Vector Nat 4                -- units freed here, cumulative
  partialUnits : List (BitVec 128)      -- units of a message not yet complete
  outMsgs : List (Nat × Msg)            -- messages waiting to be sent, with their OP (R390)
  cur     : List (BitVec 128)           -- units of the message being sent that are still to go
  curCls  : Nat                         -- its class
  used0   : List Nat                    -- class-0 units of each of the last 64 data flits, newest first (R402)
  credit  : Nat                         -- units left to the class whose turn it is (R402)
  turn    : Nat                         -- that class
  deriving DecidableEq, Repr

/-- REALIGN in progress (R404, R405). -/
structure Realign where
  active  : Bool
  ctx     : Option Nat                  -- the context whose job it aligns
  began   : Nat
  pairs   : List (Int × Int)            -- offset and latency of each exchange of the timing port
  sentAt  : Option Nat                  -- t1 of the request that has no reply yet
  lastReq : Nat                         -- wall cycle of the last request
  reports : List (Nat × Int × Nat)      -- device, median offset, and path sum with its own hop, of each report received
  reported : Bool
  stepAt  : Option Nat
  offset  : Int
  resume  : Option Nat
  dly     : BitVec 16                   -- the SPANDLY that comes with the step (R404)
  aligned : Bool
  failed  : Bool                        -- REALIGN has failed in this job
  deriving DecidableEq, Repr

/-! ### The package -/

/-- An entry that firmware receives: a trap, a record, a page request or a report (R168, R326, R361). -/
structure FwMsg where
  kind  : Nat
  core  : Nat
  comp  : Bool
  cause : Nat
  info  : Word
  words : List Word
  deriving DecidableEq, Repr

/-- Marks of JSNAP at a home (R331, R332): source block, destination block, cluster and serial. -/
structure Mark where
  block  : Nat
  dst    : Nat                          -- byte address of the copy, and of its part in the next page
  dst2   : Nat
  cl     : ClusterId
  serial : Nat
  num    : Nat                          -- which block of its job
  data   : List Host.Cell               -- what the block held at the mark instant (R334), and its poisoned sectors
  bad    : List Nat
  began  : Option Nat                   -- wall cycle its copy began
  sent   : Bool                         -- the copy is written, and waits for its acknowledgements
  deriving DecidableEq, Repr

/-- The clock, power and health state (14). -/
structure Health where
  tgt     : BitVec 3
  mode    : Bool
  opat    : Word
  busy    : Bool
  cur     : BitVec 3
  req     : BitVec 3
  err     : BitVec 3
  chg     : BitVec 32
  ramp    : Nat                         -- clock period, in 1/458,752 of that of 3.6 GHz (R482)
  goTgt   : BitVec 3                    -- the change in progress: its point, its mode and OPAT at GO (R480)
  goMode  : Bool
  goAt    : Word
  plim    : BitVec 16
  tcrit   : BitVec 8
  thot    : BitVec 8
  uvctl   : Word
  pfstat0 : Word
  pfstat1 : Word
  hotFor  : Nat                         -- power loops in a row at the limit with every LIM at FLOOR
  coolFor : Nat
  rails   : Bool                        -- core rails on
  uvOn    : Vector Bool 2               -- offset applied per die (R487)
  uvWin   : Vector Bool 2               -- offset non-zero at some time in the window
  uvHold  : Vector Bool 2               -- withdrawn, until the host writes UVCTL (R488)
  uvGood  : Vector Bool 2               -- every margin of the last window allowed an offset (R487)
  uvBad   : Vector Bool 2               -- a margin of the present window does not
  time    : Nat                         -- wall time since device reset, in 1/458,752 of a cycle at 3.6 GHz
  loopAt  : Nat                         -- when the last power loop ran (R486)
  pfAt    : Nat                         -- when the present measurement window began (R488)
  rmis    : Vector Nat 128              -- RMIS events of the window per core (R488)
  stretch : Vector Nat 72               -- wall cycle + 1 of each region's last stretch, 0 when none
  slowAt  : Option Nat                  -- wall cycle since which the point is 4 (R483)
  low     : List (Nat × Nat)            -- regions in a stretch freeze, and cycles their margin has been good
  deriving DecidableEq, Repr

/-- The machine steps of the opcode table (spec/95_what_each_step_holds.md) as the agenda holds them: each constructor
stands for the row of Instr with the same name. -/
inductive Event where
  | untimedResultLand (id : Nat)
  | homeAccess (id : Nat)
  | writeAck (id : Nat)
  | localStreamFill (k : CoreId) (q : QReg)
  | streamRequest (k : CoreId) (q : QReg)
  | ringLanding (id : Nat)
  | ringStageFill (k : CoreId) (q : QReg)
  | transposerRead (k : CoreId)
  | peerReadServe (k : CoreId)
  | freezeAnnounce (k : CoreId) (src : FreezeSrc) (inst : Nat)
  | freezeTakeEffect (k : CoreId)
  | freezeResume (k : CoreId)
  | freezeTimeout (k : CoreId)
  | groupStop (k : CoreId)
  | bodyLengthExceeded (k : CoreId)
  | weirFreezeRequest (k : CoreId)
  | clockStretch (r : RegionId)
  | stretchFreeze (r : RegionId)
  | criticalMargin (r : RegionId)
  | opctlGoSync
  | opctlGoRunning
  | opSwitch
  | runningRampStep
  | powerLoop (watts : Nat) (temp : Nat)
  | pfWindowEnd
  | trapactContinue (k : CoreId) (comp : Bool)
  | trapactAbort (k : CoreId) (comp : Bool)
  | groupResume (k : CoreId)
  | uiDeliver (k : CoreId)
  | slotStart
  | preemptStop (k : CoreId)
  | preemptSave (k : CoreId)
  | preemptResume (k : CoreId)
  | phldLoadDone (bank : Bool)
  | phaseLatch
  | pageRequestAnswer (va : Nat)
  | refreshDebtRepaid
  | sluiceLastArrival
  | slackOverrun
  | phaseStart (k : CoreId)
  | seqctlGo
  | seqctlAbort
  | partitionPeriod
  | jcopy (cl : ClusterId) (serial : Word32)
  | jcopyt (cl : ClusterId) (serial : Word32)
  | jgather (cl : ClusterId) (serial : Word32)
  | jscatter (cl : ClusterId) (serial : Word32)
  | jred (cl : ClusterId) (serial : Word32)
  | jsnap (cl : ClusterId) (serial : Word32)
  | jobComplete (cl : ClusterId) (serial : Word32)
  | snapshotBlockCopy (stack : StackId)
  | nadd (u : UnitId)
  | naxpy (u : UnitId)
  | nscal (u : UnitId)
  | nsgdw (u : UnitId)
  | nadamw (u : UnitId)
  | nfill (u : UnitId)
  | nred (u : UnitId)
  | ncopy (u : UnitId)
  | ncvt (u : UnitId)
  | nchk (u : UnitId)
  | nmStep (u : UnitId)
  | nmPass (k : CoreId) (comp : Bool) (ticket : Nat)
  | nmReadError (u : UnitId) (n : Nat)
  | rowError (k : CoreId) (row : Nat) (hard : Bool)
  | snapshotError (k : CoreId)
  | sectorError (sector : Nat) (hard : Bool)
  | nmCommandComplete (u : UnitId)
  | samplerFetch (cl : ClusterId)
  | samplerExecute (cl : ClusterId)
  | samplerCommit (cl : ClusterId)
  | samplerComplete (cl : ClusterId)
  | kvLost (pa : Nat)
  | flitReceive (port : PortId) (flit : RxFlit)
  | nakRepeat (port : PortId)
  | replayWindowEnd (port : PortId)
  | trainingComplete (port : PortId) (ok : Bool)
  | pctlRetrain (port : PortId)
  | tqrow (msg : Msg)
  | rd (msg : Msg)
  | wr (msg : Msg)
  | rsp (msg : Msg)
  | atom (msg : Msg)
  | sluiceArrival (msg : Msg)
  | sluiceStart (msg : Msg)
  | timeRequest (msg : Msg)
  | timeReply (msg : Msg)
  | timeStep (msg : Msg)
  | timeReport (msg : Msg)
  | tqclose (msg : Msg)
  | tqack (msg : Msg)
  | freezeMessage (k : CoreId) (resume : Bool) (inst : Nat)
  | freezeMessageLate (k : CoreId)
  | realignBegin
  | jobTree (devs ports : List Nat)
  | timeExchangeSend
  | cycStep
  | realignTimeout
  | replayEnd (k : CoreId)
  | auditLogCopy (k : CoreId)
  | auditReplay (blk : Nat)
  | auditCompare (blk : Nat)
  | rcvmarkWrite (v : Word32)
  | recoveryRecordWrite
  | registerWrite (k : CoreId) (comp : Bool) (n : BitVec 12) (v : Word)
  | firmwareWrite (k : CoreId) (comp : Bool) (n : BitVec 12) (v : Word)
  | hw0Read (off len : Nat)
  | hw0Write (off len : Nat) (v : Word)
  | hw2Read (off len : Nat)
  | hw2Write (off : Nat) (data : List Byte)
  | hostCas128 (off : Nat)
  | hostRead (off : Nat) (len : Nat)
  | hostWrite (off : Nat) (data : List Byte)
  | hostFetchadd (off : Nat) (wide : Bool) (v : Word)
  | hostSwap (off : Nat) (wide : Bool) (v : Word)
  | hostCas (off : Nat) (wide : Bool) (cmp : Word) (v : Word)
  | load (slot : MailSlot)
  | attest (slot : MailSlot)
  | seed (slot : MailSlot)
  | abort (slot : MailSlot)
  | tlbinvWrite (v : Word)
  | tlbinvDone
  | startGo
  | startClr
  | fundamentalReset
  | powerOn
  | powerLoss
  | startTimeout
  | entropyHealthFail
  | entropyPass
  | inFlightResultLanding (k : CoreId)
  | preTranslationArrival
  | realignComplete
  | stbaseWrite (v : Word)
  deriving DecidableEq, Repr

/-- How far the present wall cycle has come: results land and messages arrive, bundles issue, the cycle is closed. -/
inductive CyclePart where
  | landings | issue | closed
  deriving DecidableEq, Repr

/-- The state of the package. -/
structure State where
  -- the model's own: which slot executes, the streams and machine steps still to run, free values drawn
  focus   : CoreId × Bool
  turn    : List (CoreId × Bool)
  agenda  : List Event
  fresh   : Nat
  part    : CyclePart                   -- how far the present wall cycle has come
  bundleId : Nat                        -- accesses of the bundle being issued are numbered from here (R67)
  -- time and power
  power   : Bool
  cyc     : Word
  -- memory (R399): bytes by physical address, and poisoned sectors
  mem     : List (Nat × Byte)
  poison  : List Nat
  accs    : List Access
  nextId  : Nat
  marks   : List Mark
  cores   : Vector Core 128
  clusters : Vector Cluster 16
  nm      : List NmCmd
  nmWaits : List NmWait
  seedWaits : List NmWait               -- SEEDQs that wait for the entropy source (R445)
  -- phase sequencer
  bankA   : PBank
  bankB   : PBank
  phSeq   : BitVec 32                   -- PHID
  phBank  : Bool
  phIndex : BitVec 9
  selOpen : Bool
  selValid : Bool
  selB    : Bool
  running : Option PhaseDesc
  latched : Option PhaseDesc
  bound   : Option Boundary
  hcounts : List HCount
  lastEnd : Option (Boundary × Option PhaseDesc)   -- the boundary that announced a start, until the phase starts (R375)
  slkKind : BitVec 4                    -- SLKLAST
  slkSpan : BitVec 32
  partctl : Word
  partq   : Word
  stbase  : Word
  ctxbase : Word
  slotIx  : Nat
  slotOn  : Bool                        -- a slot table is being followed
  slotEnd : Nat                         -- when the present slot ends
  slotClass : Nat                       -- CLASS of the present slot (R378)
  slotAudit : Bool                      -- it is an audit slot
  slotHeld : Bool                       -- a SLOT_TABLE fault extends it
  slotAt  : Nat                         -- when it began
  curCtx  : Option Nat
  ctxs    : List Context
  ptbase  : Word
  -- links
  devid   : Word
  spandly : BitVec 16
  tqNet   : List (Nat × Nat × Msg)      -- tile-queue messages inside the package: arrival cycle, OP, message (R408)
  rtbase  : Word
  ports   : Vector Port 24
  bridge  : Vector Port 32
  bridgeNet : List (Nat × Event)       -- copies of messages that cross the bridge, with the wall cycle each arrives (R398)
  realign : Realign
  jobDevs : List Nat                    -- the other packages of the job, as firmware configures them (R403)
  treePorts : List Nat                  -- ports of the timing tree that lead to packages below
  -- samplers, seeds, key-value pool
  seedbase : Word
  seedcnt : Word
  kvpool  : Word
  kvstate : Word
  kvlen   : BitVec 32
  seedOn  : Bool                        -- the entropy source passes (R503)
  seedHost : List (Fin 64)              -- mailbox slots whose SEED waits for it
  -- recovery and audit
  rcvPend : Bool                        -- RCVMARK
  rcvReq  : BitVec 32
  rcvId   : BitVec 32
  rcvCyc  : Word
  rcvbase : Word
  exposed : List Nat                    -- blocks written since the recovery point (R465)
  hostRng : List (Nat × Nat)
  hostOvf : Bool
  audctl  : Word
  audkey  : Vector Word 4
  audbase : Word
  auddrop : BitVec 16
  audmis  : BitVec 16
  audpass : BitVec 32
  audblks : List AudBlk
  audHead : Nat                        -- bytes written to the audit ring (R469)
  audNamed : Vector Nat 128             -- mismatches that named a core (R472)
  falls   : List Fall                   -- fallbacks in progress (R466)
  errbase : Word
  errhead : Word
  -- firmware and health controller
  fwbox   : List FwMsg
  health  : Health
  -- host and start-up
  startStep : BitVec 4
  startWhy : BitVec 8
  startFails : BitVec 2
  startMin : Bool
  startUp : Bool
  hw1base : Word
  tlbinv  : Word
  tlbBusy : Bool
  fused   : Nat
  image   : BitVec 256                  -- digest of the image that runs (R501)
  svn     : Nat
  d2h     : List (List Word)            -- messages posted to the host (R496)
  d2hCnt  : Nat
  h2d     : List (Nat × List Word)      -- command slots written by the host
  hostCpl : List (Nat × Row × Bool)     -- completions returned to the host: request, data, poison (R493)
  hostUr  : List Nat                    -- requests of the host completed with Unsupported Request (R491)
  deriving DecidableEq, Repr

/-! ### Reset -/

def TrapRegs.reset : TrapRegs := { pend := false, cls := 0, cause := 0, pc := 0, npc := 0, slot := 0, info := 0, cyc := 0 }

/-- A stream after device reset: not started (R24, R366), every register zero (DESIGN CHOICE, log 1) but p0 and m0. -/
def Strm.reset : Strm :=
  { run := .idle, inst := 0, pc := 0, last := 0, npc := 0, holdTo := 0, ready := 0, left := (0, 0), back := .running
    x := Vector.replicate 64 0, sx := Vector.replicate 8 0
    p := Vector.replicate 16 false, sp := Vector.replicate 4 false
    v := Vector.replicate 32 0, o := Vector.replicate 16 0, j := Vector.replicate 8 0
    m := Vector.replicate 16 0, t := Vector.replicate 8 { addr := 0, valid := false, prep := 0 }
    ras := [], axen := 0, axflag := 0, srctr := 0, trap := .reset, late := false, origin := 0, hcsel := 0, nmstat := 0, nmnext := 0
    pend := [], waits := [], fence := none, ibuf := [] }

def SUnit.reset : SUnit :=
  { bound := false, took := 0, gen := 0, desc := 0, start := 0, next := 0, filled := 0, req := 0, asked := []
    stage := [], landed := [], unack := [], acks := [], lost := [], group := none, tread := 0 }

def Endpoint.reset : Endpoint :=
  { bound := false, flush := false, bind := 0, rows := [], count := 0, took := 0, moved := 0, acked := 0, freed := 0
    credit := 0, stale := none, everBound := false, closed := false, log := [], grant := 0 }

/-- A bank after device reset (R268); its cells are zero (DESIGN CHOICE, log 1). -/
def Bank.reset : Bank :=
  { rows := Vector.replicate 128 { cells := Vector.replicate 128 0, spec := 0 }
    mtr := 0, drow := 0, slev := 7, bfmt := .i8i8, chunk := false, act := false, clrrun := 0 }

def Matrix.reset : Matrix :=
  { z0 := .reset, z1 := .reset, ck := none, bcfg0 := 0, bcfg1 := 0
    g := Vector.replicate 32 { vals := Vector.replicate 128 0, tag := 0 }
    mask := Vector.replicate 128 0, mvalid := false
    latch := Vector.replicate 16 { bytes := 0, half := false }
    off := false, ret := none, inForce := none, lch := none, rnslim := 0x10, ucnt := 0, ch := Vector.replicate 7 0 }

def Segment.reset : Segment :=
  { isOpen := false, valid := false, fix := false, rpl := false, rewinds := 0, held := []
    ingress := [], logpos := [], snap := none, replayTo := none, restore := 0, s0 := 0, sent := 0, bad := false }

def LoopState.reset : LoopState := { lc := 0, ec := 0, base := 0, act := false }

/-- A core after device reset. -/
def Core.reset : Core :=
  { prim := .reset, comp := .reset, frozen := false, freezes := [], frun := 0, frlim := 0x10_0000, hist := []
    place := .outside, b0 := 0, group := none, opens := [], stopAt := none, ahead := 0, faultCy := none, cont := false, startAt := none, goAt := none
    slice := none, realigned := false
    loop := .reset, segpc := 0, holdchk := false, srkey := Vector.replicate 4 0
    uivAddr := 0, uivEn := false, inh := false, uiq := [], uiepc := 0, uien := 0, uiHead := 0, uiTail := 0
    uiOvf := false, uiRing := 0, barbase := 0, bars := Vector.replicate 128 0
    frzcnt := 0, weircnt := 0, frzmax := 0x0010_0000, weirSet := 0x2B00, weirFlr := 0x0800, weirLim := 0x2B00
    weights := [], charge := 0, sp := [], spBad := []
    q := Vector.replicate 8 .reset, oldRings := [], oldUnits := [], dscAt := 0, tq := Vector.replicate 8 .reset, mx := .reset, xIss := []
    seg := .reset, stsig := 0, audit := none, signs := [], atLnch := none, tlb := [], ctx := none }

/-- A cluster after device reset: each buffer is owned by its home (R223). -/
def Cluster.reset : Cluster :=
  { bufs := Vector.ofFn (fun i => .owned (i.val / 64))
    serial := 0, jobs := [], jcans := [], ptc := [], ptcNext := [], smpbase := 0, smpblogA := 0, smpblogS := 6
    smpbcnt := 0, stall := 0, reqs := [], lost := [] }

def PBank.reset : PBank := { st := .empty, entries := Vector.replicate 512 0, load := none }

/-- PCTL's fields at reset: RPLTH 0x10, RPLWIN 0x10, W3 1, W2 2, W1 4 (R418); 1,024 credits of each class (R402). -/
def Port.reset : Port :=
  { ctl := 0x0000_0010_0010_1240, up := false, rate := 0, train := false, peerDev := 0, peerPort := 0
    retrains := 0, lat := 0, feccor := 0, fecunc := 0, crcerr := 0, rply := 0, naktx := 0, winrpl := 0
    hits := 0, fails := 0, held := false, nextSeq := 0, lastAck := 255, replay := [], again := [], nakDue := false, trainAt := 0, expSeq := 0
    nakOut := none, txq := [], credTx := Vector.replicate 4 0, credPeer := Vector.replicate 4 0
    credRx := Vector.replicate 4 0, partialUnits := [], outMsgs := [], cur := [], curCls := 0, used0 := [], credit := 0, turn := 1 }

def Realign.reset : Realign :=
  { active := false, ctx := none, began := 0, pairs := [], sentAt := none, lastReq := 0, reports := [], reported := false
    stepAt := none, offset := 0, resume := none, dly := 0, aligned := false, failed := false }

def Health.reset : Health :=
  { tgt := 0, mode := false, opat := 0, busy := false, cur := 0, req := 7, err := 0, chg := 0, ramp := 458752, goTgt := 0, goMode := false, goAt := 0
    plim := 0x0960, tcrit := 0x6E, thot := 0x5F, uvctl := 0x03E8_0008_0000_0000, pfstat0 := 0, pfstat1 := 0
    hotFor := 0, coolFor := 0, rails := true, uvOn := Vector.replicate 2 false, uvWin := Vector.replicate 2 false, uvHold := Vector.replicate 2 false
    uvGood := Vector.replicate 2 false, uvBad := Vector.replicate 2 false, time := 0, loopAt := 0, pfAt := 0
    rmis := Vector.replicate 128 0, stretch := Vector.replicate 72 0, slowAt := none, low := [] }

/-- The machine right after device reset. Memory lists nothing: every byte reads as zero (R498, step 6). -/
def State.reset : State :=
  { focus := (0, false), turn := [], agenda := [], fresh := 0, part := .issue, bundleId := 0, power := true, cyc := 0
    mem := [], poison := [], accs := [], nextId := 1, marks := []
    cores := Vector.replicate 128 .reset, clusters := Vector.replicate 16 .reset, nm := [], nmWaits := [], seedWaits := []
    bankA := .reset, bankB := .reset, phSeq := 0, phBank := false, phIndex := 0
    selOpen := false, selValid := false, selB := false, running := none, latched := none, bound := none
    hcounts := [], lastEnd := none, slkKind := 0, slkSpan := 0
    -- PARTCTL: MAXP 15, MINP 1, SPLIT 8 (R383)
    partctl := 0x0000_0000_0F18_0000, partq := 0, stbase := 0, ctxbase := 0, slotIx := 0, slotOn := false, slotEnd := 0, slotClass := 1, slotAudit := false, slotHeld := false, slotAt := 0
    curCtx := none, ctxs := [], ptbase := 0
    devid := 0, spandly := 0x40, tqNet := [], rtbase := 0
    ports := Vector.replicate 24 .reset, bridge := Vector.replicate 32 .reset, bridgeNet := [], realign := .reset, jobDevs := [], treePorts := []
    seedbase := 0, seedcnt := 0, kvpool := 0, kvstate := 0, kvlen := 0, seedOn := true, seedHost := []
    rcvPend := false, rcvReq := 0, rcvId := 0, rcvCyc := 0, rcvbase := 0, exposed := [], hostRng := [], hostOvf := false
    -- AUDCTL: LIM 4 (R472)
    audctl := 0x0000_0000_0004_0000, audkey := Vector.replicate 4 0, audbase := 0
    auddrop := 0, audmis := 0, audpass := 0, audblks := [], audHead := 0, audNamed := Vector.replicate 128 0, falls := []
    errbase := 0, errhead := 0, fwbox := [], health := .reset
    startStep := 0, startWhy := 0, startFails := 0, startMin := false, startUp := false, hw1base := 0
    tlbinv := 0, tlbBusy := false, fused := 0, image := 0, svn := 0, d2h := [], d2hCnt := 0, h2d := [], hostCpl := [], hostUr := [] }

end Sys2Proof.Machine
end

