-- ==== Sys2Proof/Machine/Ops.lean ====
section
/-!
DEFINITION. Machine/Ops.lean: the named operations over memory, registers and streams, taking a trap, stopping and
resuming a group, and the return from a user-level interrupt.
-/
namespace Sys2Proof.Machine

/-- What a meaning answers. -/
abbrev Out := Host.Outcome State Fault Refusal

/-! ### Vectors and memory -/

/-- Entry i of a vector, or d past its end. -/
def rd {α : Type} {n : Nat} (v : Vector α n) (i : Nat) (d : α) : α := v[i]?.getD d
/-- The vector with entry i replaced; past its end nothing changes. -/
def wr {α : Type} {n : Nat} (v : Vector α n) (i : Nat) (x : α) : Vector α n := v.setIfInBounds i x

/-- A memory: bytes by address, rising, none of them the zero that an unlisted address reads as (log 2). -/
abbrev Memory := List (Nat × Byte)
/-- The canonical form from address lo up. -/
def Memory.wfFrom : Nat → Memory → Bool
  | _, [] => true
  | lo, (a, b) :: r => decide (lo ≤ a) && b != 0 && Memory.wfFrom (a + 1) r
/-- The canonical form of a memory. -/
def Memory.wf (m : Memory) : Bool := Memory.wfFrom 0 m
/-- The byte at an address. -/
def Memory.get : Memory → Nat → Byte
  | [], _ => 0
  | (a, b) :: r, x => if a = x then b else if x < a then 0 else Memory.get r x
/-- The memory with one byte written; writing zero removes the entry. -/
def Memory.put : Memory → Nat → Byte → Memory
  | [], x, v => if v = 0 then [] else [(x, v)]
  | (a, b) :: r, x, v =>
    if x = a then (if v = 0 then r else (x, v) :: r)
    else if x < a then (if v = 0 then (a, b) :: r else (x, v) :: (a, b) :: r)
    else (a, b) :: Memory.put r x v
/-- n bytes from an address up, little-endian (R2). -/
def Memory.getN (m : Memory) : Nat → Nat → Nat
  | _, 0 => 0
  | a, n + 1 => (Memory.get m a).toNat + 256 * Memory.getN m (a + 1) n
/-- n bytes written from an address up, byte b of them only where the mask has bit b. -/
def Memory.putN (m : Memory) : Nat → Nat → Nat → Nat → Memory
  | _, 0, _, _ => m
  | a, n + 1, v, en =>
    Memory.putN (if en % 2 = 1 then Memory.put m a (BitVec.ofNat 8 v) else m) (a + 1) n (v / 256) (en / 2)
/-- A list of bytes written from an address up. -/
def Memory.putList (m : Memory) : Nat → List Byte → Memory
  | _, [] => m
  | a, b :: r => Memory.putList (Memory.put m a b) (a + 1) r
/-- n bytes from an address up as a list. -/
def Memory.getList (m : Memory) : Nat → Nat → List Byte
  | _, 0 => []
  | a, n + 1 => Memory.get m a :: Memory.getList m (a + 1) n

/-- The memory that the n bytes of a value make from an address up. -/
def Memory.ofVal : Nat → Nat → Nat → Memory
  | _, 0, _ => []
  | a, n + 1, v =>
    if v = 0 then []
    else if v % 256 = 0 then Memory.ofVal (a + 1) n (v / 256)
    else (a, BitVec.ofNat 8 v) :: Memory.ofVal (a + 1) n (v / 256)
/-- The n bytes from an address up replaced by those of another memory from 0 up. -/
def Memory.fill (m : Memory) (a n : Nat) (r : Memory) : Memory :=
  m.filter (fun c => decide (c.1 < a)) ++ (r.filter fun c => decide (c.1 < n)).map (fun c => (a + c.1, c.2)) ++
    m.filter (fun c => decide (a + n ≤ c.1))

/-- Insertion into an ascending list without repeats. -/
def insertAsc (x : Nat) : List Nat → List Nat
  | [] => [x]
  | y :: r => if x < y then x :: y :: r else if x = y then y :: r else y :: insertAsc x r

/-! ### Parts of the state -/

def State.core (s : State) (k : CoreId) : Core := rd s.cores k.val .reset
def State.setCore (s : State) (k : CoreId) (c : Core) : State := { s with cores := wr s.cores k.val c }
def State.modCore (s : State) (k : CoreId) (f : Core → Core) : State := s.setCore k (f (s.core k))
def Core.strm (c : Core) (comp : Bool) : Strm := if comp then c.comp else c.prim
def Core.setStrm (c : Core) (comp : Bool) (t : Strm) : Core := if comp then { c with comp := t } else { c with prim := t }
def Core.modStrm (c : Core) (comp : Bool) (f : Strm → Strm) : Core := c.setStrm comp (f (c.strm comp))
def State.strm (s : State) (k : CoreId) (comp : Bool) : Strm := (s.core k).strm comp
def State.modStrm (s : State) (k : CoreId) (comp : Bool) (f : Strm → Strm) : State := s.modCore k (Core.modStrm · comp f)
/-- The core whose slot executes. -/
def State.cur (s : State) : Core := s.core s.focus.1
/-- The stream whose slot executes. -/
def State.me (s : State) : Strm := s.strm s.focus.1 s.focus.2
def State.modCur (s : State) (f : Core → Core) : State := s.modCore s.focus.1 f
def State.modMe (s : State) (f : Strm → Strm) : State := s.modStrm s.focus.1 s.focus.2 f
/-- The cluster of a core (R16). -/
def clusterOf (k : CoreId) : ClusterId := ⟨k.val / 8, by omega⟩
def State.cluster (s : State) (c : ClusterId) : Cluster := rd s.clusters c.val .reset
def State.modCluster (s : State) (c : ClusterId) (f : Cluster → Cluster) : State :=
  { s with clusters := wr s.clusters c.val (f (s.cluster c)) }
def allCores : List CoreId := List.finRange 128
/-- Core n of a cluster. -/
def coreIn (c : ClusterId) (n : Nat) : CoreId := ⟨c.val * 8 + n % 8, by omega⟩
/-- A core id from its number. -/
def coreOf (n : Nat) : CoreId := ⟨n % 128, by omega⟩
def coresOf (mask : BitVec 128) : List CoreId := allCores.filter (fun k => mask.getLsbD k.val)

/-- One free value drawn (log 3). -/
def State.draw (s : State) : State := { s with fresh := s.fresh + 1 }
def bitsOf (w hi lo : Nat) : Nat := w / 2 ^ lo % 2 ^ (hi + 1 - lo)
def nz {n : Nat} (b : BitVec n) : Bool := b != 0

/-! ### Contexts and the sequencer's state (R377, R378) -/

def State.modCtx (s : State) (n : Nat) (f : Context → Context) : State :=
  { s with ctxs := s.ctxs.map fun x => if x.num = n then f x else x }
/-- What the sequencer holds for the context that it serves. -/
def State.seqState (s : State) : SeqState :=
  { bankA := s.bankA, bankB := s.bankB, phSeq := s.phSeq, phBank := s.phBank, phIndex := s.phIndex, selOpen := s.selOpen
    selValid := s.selValid, selB := s.selB, running := s.running, latched := s.latched, bound := s.bound, hcounts := s.hcounts
    aligned := s.realign.aligned, failed := s.realign.failed, spandly := s.spandly, lastEnd := s.lastEnd, ptcs := s.clusters.map fun u => (u.ptc, u.ptcNext) }
def State.withSeq (s : State) (q : SeqState) : State :=
  { s with
    bankA := q.bankA, bankB := q.bankB, phSeq := q.phSeq, phBank := q.phBank, phIndex := q.phIndex, selOpen := q.selOpen
    selValid := q.selValid, selB := q.selB, running := q.running, latched := q.latched, bound := q.bound, hcounts := q.hcounts
    realign := { s.realign with aligned := q.aligned, failed := q.failed }, spandly := q.spandly, lastEnd := q.lastEnd
    clusters := s.clusters.zipWith (fun u p => { u with ptc := p.1, ptcNext := p.2 }) q.ptcs }
/-- What the sequencer keeps for a context that it does not serve. -/
def State.keptSeq (s : State) (ctx : Option Nat) : Option SeqState :=
  if s.curCtx = ctx then none else (s.ctxs.find? fun x => ctx = some x.num).bind fun x => x.seq
/-- The state as the sequencer of a context sees it: a context whose cores lie outside the mask that is switched in runs on
(R378). -/
def State.ctxView (s : State) (ctx : Option Nat) : State :=
  match s.keptSeq ctx with
  | none => s
  | some q => { s.withSeq q with curCtx := ctx }
/-- What f does for a context. -/
def State.asCtx (s : State) (ctx : Option Nat) (f : State → State) : State :=
  match s.keptSeq ctx with
  | none => f s
  | some q =>
    let r := f { s.withSeq q with curCtx := ctx }
    ({ r.withSeq s.seqState with curCtx := s.curCtx }).modCtx (ctx.getD 0) fun x => { x with seq := some r.seqState }
/-- The contexts that have a sequencer state: the one served first. -/
def State.seqCtxs (s : State) : List (Option Nat) :=
  s.curCtx :: ((s.ctxs.filter fun x => x.seq.isSome && s.curCtx ≠ some x.num).map fun x => some x.num)
/-- What f does for every context. -/
def State.eachCtx (s : State) (f : State → State) : State := s.seqCtxs.foldl (fun s n => s.asCtx n f) s
/-- What f does for the first context of which p holds, or for the one that is served. -/
def State.firstCtx (s : State) (p : State → Bool) (f : State → State) : State :=
  match s.seqCtxs.find? fun n => p (s.ctxView n) with
  | none => f s
  | some n => s.asCtx n f
def State.anyCtx (s : State) (p : State → Bool) : Bool := s.seqCtxs.any fun n => p (s.ctxView n)
/-- The cores of a context's mask (R377). -/
def State.maskOf (s : State) (ctx : Option Nat) : List CoreId :=
  match s.ctxs.find? fun x => ctx = some x.num with
  | some x => coresOf x.mask
  | none => allCores.filter fun k => (s.core k).ctx = ctx

/-! ### Registers (R69, R136, R140, R164) -/

/-- The physical scalar register a logical number names. -/
def Core.xRef (c : Core) (comp : Bool) (r : XReg) : PRef :=
  if comp then
    if 24 ≤ r.toNat ∧ r.toNat < 32 ∧ c.inh then .sx (r.toNat - 24) else .x r.toNat
  else if 48 ≤ r.toNat then .x (48 + (r.toNat + 32 - 48 - c.loop.base.toNat) % 16) else .x r.toNat
/-- The physical predicate a logical number names. -/
def Core.pRef (c : Core) (comp : Bool) (r : PReg) : PRef :=
  if comp then
    if 4 ≤ r.toNat ∧ r.toNat < 8 ∧ c.inh then .sp (r.toNat - 4) else .p r.toNat
  else if 8 ≤ r.toNat then .p (8 + (r.toNat + 16 - 8 - c.loop.base.toNat) % 8) else .p r.toNat
/-- The physical v register a selector below 0x20 names. -/
def Core.vNum (c : Core) (comp : Bool) (n : Nat) : Nat :=
  if !comp && 16 ≤ n then 16 + (n + 32 - 16 - c.loop.base.toNat) % 16 else n

/-- x0 reads as zero, p0 as 1 and m0 as all ones (R60, R61, R69). -/
def Strm.xAt (t : Strm) : PRef → Word
  | .x n => if n = 0 then 0 else rd t.x n 0
  | .sx n => rd t.sx n 0
  | _ => 0
def Strm.pAt (t : Strm) : PRef → Bool
  | .p n => if n = 0 then true else rd t.p n false
  | .sp n => rd t.sp n false
  | _ => false
def Strm.mAt (t : Strm) (r : MReg) : Mask := if r = 0 then BitVec.allOnes 128 else rd t.m r.toNat 0

def State.x (s : State) (r : XReg) : Word := s.me.xAt (s.cur.xRef s.focus.2 r)
def State.p (s : State) (r : PReg) : Bool := s.me.pAt (s.cur.pRef s.focus.2 r)
def State.m (s : State) (r : MReg) : Mask := s.me.mAt r
/-- A v, o or j register; stream registers are read by takeQ. -/
def State.v (s : State) (r : VSel) : Row :=
  if r.isV then rd s.me.v (s.cur.vNum s.focus.2 r.toNat) 0
  else if r.isO then rd s.me.o (r.toNat - 0x20) 0
  else if r.isJ then rd s.me.j (r.toNat - 0x30) 0
  else 0
/-- The destination a v or o selector names. -/
def State.vDst (s : State) (r : VSel) : VDst :=
  if r.isV then .v (s.cur.vNum s.focus.2 r.toNat) else .o (r.toNat - 0x20)

/-- Writes to a physical register; x0, p0 and m0 take none. -/
def Strm.setX (t : Strm) (shadow : Bool) (n : Nat) (v : Word) : Strm :=
  if shadow then { t with sx := wr t.sx n v } else if n = 0 then t else { t with x := wr t.x n v }
def Strm.setP (t : Strm) (shadow : Bool) (n : Nat) (v : Bool) : Strm :=
  if shadow then { t with sp := wr t.sp n v } else if n = 0 then t else { t with p := wr t.p n v }
def Strm.setM (t : Strm) (n : Nat) (v : Mask) : Strm := if n = 0 then t else { t with m := wr t.m n v }

/-- A vector result of stage n, or with 3 a row load, enters the last-result file (R185). -/
def Strm.enterJ (t : Strm) (n : Nat) (r : Row) : Strm :=
  { t with j := wr (wr t.j (2 * n + 1) (rd t.j (2 * n) 0)) (2 * n) r }

/-! ### Results in flight (R65, R177) -/

/-- An effect that the present slot brings about n instants after its issue. -/
def State.later (s : State) (slot n : Nat) (e : Effect) : State :=
  s.modMe fun t => { t with pend := t.pend ++ [{ due := t.inst + n, iss := t.inst, pc := t.pc, slot := slot, eff := e }] }
/-- A scalar result usable at c+n; a write to x0 is discarded (R69). -/
def State.putX (s : State) (slot n : Nat) (r : XReg) (v : Word) : State :=
  match s.cur.xRef s.focus.2 r with
  | .x k => if k = 0 then s else s.later slot n (.x false k v)
  | .sx k => s.later slot n (.x true k v)
  | _ => s
/-- A predicate result usable at c+n. -/
def State.putP (s : State) (slot n : Nat) (r : PReg) (v : Bool) : State :=
  match s.cur.pRef s.focus.2 r with
  | .p k => s.later slot n (.p false k v)
  | .sp k => s.later slot n (.p true k v)
  | _ => s
/-- A predicate pair: r and its complement (R145). -/
def State.putPair (s : State) (slot n : Nat) (pd : PReg) (r : Bool) : State :=
  (s.putP slot n pd r).putP slot n (pd + 1) (!r)

/-! ### Groups and firmware (R34, R35, R168) -/

/-- The freeze horizon of an extent (R34). -/
def horizonOf (ks : List CoreId) : Nat :=
  match ks with
  | [] => 16
  | k :: r =>
    if r.all (fun j => j.val / 8 = k.val / 8) then 16
    else if r.all (fun j => j.val / 16 = k.val / 16) then 40
    else if r.all (fun j => j.val / 64 = k.val / 64) then 40
    else 72
/-- The phase that runs in a context: the sequencer's, or the one kept with a context that it has left. -/
def State.runningOf (s : State) (ctx : Option Nat) : Option PhaseDesc :=
  match s.keptSeq ctx with
  | none => s.running
  | some q => q.running
/-- The cores that the running phase's table gives a group. -/
def State.extent (s : State) (ctx : Option Nat) (g : Nat) : List CoreId :=
  match s.runningOf ctx with
  | none => []
  | some d => (d.cores.filter (fun e => e.group = g)).map (fun e => e.core)
/-- The core of entry SELENT, or, at the start boundary, the lowest-numbered core of the context's mask (R364). -/
def State.selects (s : State) (k : CoreId) : Bool :=
  match s.runningOf (s.core k).ctx with
  | some d => decide (d.selcore = some k)
  | none => (s.core k).ctx.isSome && decide ((s.maskOf (s.core k).ctx).head? = some k)
/-- The members that freeze with a core: its group, less those past their PHEND (R43); a group of one outside a phase
body (R35). -/
def State.members (s : State) (k : CoreId) : List CoreId :=
  match (s.core k).group with
  | none => [k]
  | some g => allCores.filter (fun j => (s.core j).group = some g && (s.core j).ctx = (s.core k).ctx)
/-- The group of a core that waits for its announced entry bundle. -/
def State.startGroup (s : State) (k : CoreId) : Option Nat :=
  match s.runningOf (s.core k).ctx with
  | none => none
  | some d => if (s.core k).startAt.isNone then none else (d.cores.find? (fun e => e.core = k)).map (fun e => e.group)
/-- The horizon of a group, and of a core that has none (R34, R35). -/
def State.horizonIn (s : State) (k : CoreId) : Option Nat → Nat
  | none => 16
  | some g => horizonOf (s.extent (s.core k).ctx g)
/-- The horizon that applies to a core: its group's, and outside a phase body that of a group of one (R34, R35). -/
def State.horizon (s : State) (k : CoreId) : Nat := s.horizonIn k (s.core k).group
/-- The horizon of the group that a core stops and resumes with, also before its entry bundle (R43, R170). -/
def State.stopHorizon (s : State) (k : CoreId) : Nat := s.horizonIn k ((s.core k).group.or (s.startGroup k))
/-- The members that stop with a core: also those that have not yet issued their entry bundle (R43). -/
def State.stopMembers (s : State) (k : CoreId) : List CoreId :=
  match (s.core k).group, s.startGroup k with
  | none, none => [k]
  | some g, _ | none, some g => allCores.filter (fun j =>
      ((s.core j).group = some g || s.startGroup j = some g) && (s.core j).ctx = (s.core k).ctx)
/-- A message in firmware's mailbox. -/
def State.firmware (s : State) (kind core : Nat) (comp : Bool) (cause : Nat) (info : Word) (ws : List Word := []) : State :=
  { s with fwbox := s.fwbox ++ [{ kind := kind, core := core, comp := comp, cause := cause, info := info, words := ws }] }

def optMin (a : Option Nat) (b : Nat) : Option Nat := match a with | none => some b | some x => some (min x b)

/-- The freeze counts in wall cycles until it takes effect (R173, R478). -/
def Freeze.byWall (f : Freeze) : Bool :=
  match f.src with
  | .stretch | .preempt => true
  | _ => false

/-- A freeze as a member at instant n' holds it, given as one at instant n does; a stretch and a pre-emption count in wall
cycles (R173, R478). -/
def Freeze.asOf (f : Freeze) (n n' : Nat) : Freeze :=
  if f.byWall then f else { f with key := f.key + n' - n }

/-- The instant of its group's timetable at which a core stands: its primary's own, and, from its own fault to the stop of the
group, those that the group has passed since (R37, R43). -/
def Core.groupInst (c : Core) : Nat := c.prim.inst + c.ahead
/-- A core that faulted in its phase body counts as frozen until its group has stopped (R43). -/
def Core.faultHold (c : Core) (now : Nat) : Bool :=
  c.prim.run = .trapped && (match c.stopAt with | some w => decide (now ≤ w) | none => false)
/-- The primary is stopped by a trap, past the cycles that count as frozen (R171). -/
def Core.stopped (c : Core) (now : Nat) : Bool := c.prim.run = .trapped && !c.faultHold now

/-- The pre-emption that holds the core, if it has taken effect and not ended. -/
def Core.preempted (c : Core) : Option Freeze := c.freezes.find? fun f => f.src = .preempt && f.eff.isSome && f.clr.isNone
/-- The wall cycle at which a core that a pre-emption holds stood stopped. -/
def Core.stoppedAt (c : Core) (now : Nat) : Nat := (c.preempted.bind fun f => f.eff).getD now

/-! ### Taking a trap (R43, R85, R168) -/

/-- A core is to stop at wall cycle w, after a fault at wall cycle f; the earliest of several counts (R43). -/
def Core.told (c : Core) (w f : Nat) : Core := { c with stopAt := optMin c.stopAt w, faultCy := optMin c.faultCy f }
/-- The group of core k stops at wall cycle f + H (R43); the cores in question learn f. -/
def State.stopGroup (s : State) (k : CoreId) (f : Nat) : State :=
  (s.stopMembers k).foldl (fun s' j => s'.modCore j fun c => c.told (f + s.horizon k) f) s
/-- What a stream does, or goes back to when it is stopped (R166, R168). -/
def Strm.mode (t : Strm) : Run := if t.run = .trapped then t.back else t.run
/-- A stream's trap registers are written, and it stops, of a deferred trap at the end of the cycle (R86, R168). -/
def Strm.take (t : Strm) (cls cause slot : Nat) (pc npc : BitVec 52) (info cyc : Word) : Strm :=
  { t with
    run := if cls = 2 then t.run else .trapped
    back := t.mode
    late := decide (cls = 2)
    left := (t.holdTo - (t.inst + 1), t.ready - (t.inst + 1))
    trap := { pend := true, cls := BitVec.ofNat 3 cls, cause := BitVec.ofNat 7 cause, pc := pc, npc := npc
              slot := BitVec.ofNat 3 slot, info := info, cyc := cyc } }
/-- Another trap of the same bundle is the one recorded (R85). -/
def Strm.retake (t : Strm) (cause slot : Nat) (info : Word) : Strm :=
  { t with trap := { t.trap with cause := BitVec.ofNat 7 cause, slot := BitVec.ofNat 3 slot, info := info } }
/-- A stream takes a trap. Within one bundle the lowest cause, then the lowest slot, is the one recorded (R85); a
stopped stream raises no further trap (R171). A primary inside a phase body stops its group (R43). Where one bundle raises a
deferred POISON and an execution-class cause in its issue cycle, on which R85 is silent, the first in slot order is recorded
(DESIGN CHOICE, log 7). -/
def State.takeTrap (s : State) (k : CoreId) (comp : Bool) (cls cause slot : Nat) (pc npc : BitVec 52) (info : Word) : State :=
  let t := s.strm k comp
  if t.trap.pend then
    if t.trap.cls = 1 ∧ cls = 1 ∧ t.trap.cyc = s.cyc ∧ t.trap.pc = pc ∧
        (cause < t.trap.cause.toNat ∨ (cause = t.trap.cause.toNat ∧ slot < t.trap.slot.toNat)) then
      s.modStrm k comp (·.retake cause slot info)
    else s
  else if t.run = .trapped then s
  else
    let u := (s.modStrm k comp (·.take cls cause slot pc npc info s.cyc)).firmware 0 k.val comp 0 0
    if comp ∨ (s.core k).group = none then u else u.stopGroup k s.cyc.toNat
/-- An issue-class trap of the present bundle: no slot commits, and the stream stands at the bundle (R84, R168). -/
def State.issueTrap (s : State) (cause slot : Nat) (info : Word) : State :=
  s.takeTrap s.focus.1 s.focus.2 0 cause slot s.me.pc (if cause = 0x07 then s.me.npc else s.me.pc) info
/-- An execution-class trap of a slot of the present bundle (R84). -/
def State.execTrap (s : State) (cause slot : Nat) (info : Word) : State :=
  s.takeTrap s.focus.1 s.focus.2 1 cause slot s.me.pc s.me.npc info
/-- A deferred trap found in the same cycle takes the place of the one recorded: of one bundle the lowest cause, then the lowest
slot (R85); of two bundles the one issued first (DESIGN CHOICE, log 7). -/
def Strm.yieldsTo (t : Strm) (iss cause slot : Nat) (cyc : Word) : Bool :=
  t.late && t.trap.cyc = cyc && (decide (iss < t.origin) || (iss = t.origin &&
    (decide (cause < t.trap.cause.toNat) || (cause = t.trap.cause.toNat && decide (slot < t.trap.slot.toNat)))))
/-- A deferred trap of a stream, of the bundle issued at instant iss (R86): the bundle of the cycle still issues (R505). -/
def State.deferTrap (s : State) (k : CoreId) (comp : Bool) (iss cause slot : Nat) (info : Word) : State :=
  let t := s.strm k comp
  if t.trap.pend then
    if t.yieldsTo iss cause slot s.cyc then s.modStrm k comp fun t => { t.retake cause slot info with origin := iss } else s
  else (s.takeTrap k comp 2 cause slot t.last t.pc info).modStrm k comp fun t => { t with origin := iss }
/-- An asynchronous stop of a stream, recorded with the given cause and class (R41, R45, R159). -/
def State.asyncTrap (s : State) (k : CoreId) (comp : Bool) (cls cause : Nat) (info : Word) : State :=
  s.takeTrap k comp cls cause 0 (s.strm k comp).last (s.strm k comp).pc info

/-- A stream with a deferred fault stops at the end of the cycle, after the bundle it issued (R86). -/
def Strm.settle (t : Strm) : Strm :=
  if !t.late then t
  else
    { t with
      run := .trapped, back := t.mode, late := false, waits := t.waits.filter (fun w => w.1 ≠ 0), left := (t.holdTo - (t.inst + 1), t.ready - (t.inst + 1))
      trap := { t.trap with pc := t.last, npc := t.pc } }

/-- A launch on its way that the stream does not follow. -/
def Pend.unfollowed (e : Pend) : Pend :=
  match e.eff with
  | .lnch _ xd a => { e with eff := .lnch false xd a }
  | _ => e
/-- A stopped stream goes on at TRAPNPC from its next instant; its hold and bubble cycles count on (R168, R170). A primary past
its PHEND, or not yet in its phase body, issues nothing (R48), and a stream that awaited alignment or a record awaits it still
(R159, R166). Where firmware has rewritten TRAPNPC, no launch of the trapping bundle leads the stream elsewhere (R170). -/
def Strm.resume (t : Strm) (r : Run) : Strm :=
  { t with run := r, pc := t.trap.npc, trap := { t.trap with pend := false }
           pend := if t.trap.npc = t.pc then t.pend else t.pend.map Pend.unfollowed
           holdTo := t.inst + 1 + t.left.1, ready := t.inst + 1 + t.left.2 }

/-! ### Arithmetic causes (R113) -/

/-- The lowest enabled cause. -/
def lowestCause (c : Causes) : Nat := (List.range 6).find? (fun i => c.getLsbD i) |>.getD 6
/-- A slot's causes set AXFLAG; an enabled one suppresses the slot with an execution-class trap. -/
def State.arith (s : State) (slot : Nat) (fl : Causes) (lane : Nat) (body : State → State) : State :=
  let s := if fl = 0 then s else s.modMe fun t => { t with axflag := t.axflag ||| fl }
  let en := fl &&& s.me.axen
  if en = 0 then body s else s.execTrap (0x10 + lowestCause en) slot (BitVec.ofNat 64 lane)

/-! ### Buffers and the scratchpad (R218 to R225) -/

/-- The home core and number of the buffer that holds a row of a core. -/
def bufIdx (k : CoreId) (row : Nat) : Nat := k.val % 8 * 64 + row / 512
def State.buf (s : State) (k : CoreId) (idx : Nat) : BufState := rd (s.cluster (clusterOf k)).bufs idx (.owned (idx / 64))
/-- The home may read a buffer that it owns or that is published (R224). -/
def State.homeReads (s : State) (k : CoreId) (row : Nat) : Bool :=
  match s.buf k (bufIdx k row) with
  | .owned o => o = k.val % 8
  | .published _ => true
  | .transit _ => false
/-- The home may write a buffer that it owns (R224). -/
def State.homeWrites (s : State) (k : CoreId) (row : Nat) : Bool := s.buf k (bufIdx k row) = .owned (k.val % 8)
def Core.spRow (c : Core) (row : Nat) : Row := BitVec.ofNat 1024 (Memory.getN c.sp (row * 128) 128)
/-- A row write with byte enables; a whole row clears the poison (R221). -/
def Core.spWrite (c : Core) (row : Nat) (d : Row) (en : Mask) (whole : Bool) : Core :=
  { c with sp := Memory.putN c.sp (row * 128) 128 d.toNat en.toNat
           spBad := if whole then c.spBad.filter (· ≠ row) else c.spBad }

/-! ### Issue of a slot (R60, R62, R64, R88) -/

/-- Weight charged, and for a C slot the hold count (R62, R64). -/
def State.charge (s : State) (w : Nat) : State := s.modCur fun c => { c with charge := c.charge + w }
def State.holdFor (s : State) (n : Nat) : State :=
  s.modMe fun t => { t with holdTo := t.inst + 1 + n, ready := t.inst + 1 + n }
/-- A taken branch to an address, its bubble after the hold cycles (R150). -/
def State.goTo (s : State) (a : Word) (bubble : Nat) : State :=
  s.modMe fun t => { t with npc := a.setWidth 52, ready := t.ready + bubble }
/-- The stream stands in a phase body (R30). -/
def State.inBody (s : State) : Bool := !s.focus.2 && s.cur.place = .body

end Sys2Proof.Machine
end

