-- ==== Sys2Proof/Machine/Operands.lean ====
section
/-!
DEFINITION. Machine/Operands.lean: the operand forms: which registers each instruction reads and writes, when its
results land, its guard, hold count, weight and stream (R26, R65, R69, R88), and the checks made of them at issue.
-/
namespace Sys2Proof.Machine

/-- A register operand as an encoding names it. Two predicates are written without being named (R154): pp by its physical
number, pr by the number that it has under the RBASE in force. -/
inductive LRef where
  | x (r : XReg) | p (r : PReg) | pp (n : Nat) | pr (r : PReg) | m (r : MReg) | v (r : VSel) | g (r : GReg)
  deriving DecidableEq, Repr

/-- Which stream may issue an instruction (R26). -/
inductive Only where
  | both | prim | comp | notBody
  deriving DecidableEq, Repr

/-- The operands of a slot. A result of latency 0 is untimed (R67). -/
structure Shape where
  occ    : Bool
  slot   : Nat
  guard  : PReg
  mguard : Option MReg
  hold   : Nat
  weight : Nat
  only   : Only
  reads  : List LRef
  writes : List (LRef × Nat)
  deriving DecidableEq, Repr

/-- NOP and the machine steps. -/
def Shape.empty : Shape :=
  { occ := false, slot := 0, guard := 0, mguard := none, hold := 0, weight := 0, only := .both, reads := [], writes := [] }
def shapeOf (slot : Nat) (g : PReg) (hold w : Nat) (o : Only) (reads : List LRef) (writes : List (LRef × Nat)) : Shape :=
  { occ := true, slot := slot, guard := g, mguard := none, hold := hold, weight := w, only := o, reads := reads, writes := writes }
/-- A V slot: its operands follow from its operation (R193). -/
def shapeV (stage : Nat) (k : VKind) (h : VHdr) (d a b : VSel) : Shape :=
  { occ := true, slot := 2 + stage, guard := 0, mguard := some h.m, hold := 0, weight := vWeight k h.w h.t, only := .both
    reads := .v a :: ((if k.readsB then [.v b] else []) ++ (if k.readsDest then [.v d] else []))
    writes :=
      if k.isCmp then [(.m (d.setWidth 4), vLatency stage k h.t), (.m (d.setWidth 4 + 1), vLatency stage k h.t)]
      else [(.v d, vLatency stage k h.t)] }
/-- The weight a drain adds (R88). -/
def drainWeight : XDrain → Nat
  | .none => 0
  | _ => 24

end Sys2Proof.Machine

namespace Sys2Proof
open Machine

/-- The operands of every instruction. -/
def Instr.shape : Instr → Shape
  | .nop => Shape.empty
  | .hold n => shapeOf 0 0 n.toNat (0) .both [] []
  | .addC h d a b => shapeOf 0 h.g h.hold.toNat (1) .both [.x a, .x b] [(.x d, 1)]
  | .addS g d a b => shapeOf 1 g 0 (1) .both [.x a, .x b] [(.x d, 1)]
  | .subC h d a b => shapeOf 0 h.g h.hold.toNat (1) .both [.x a, .x b] [(.x d, 1)]
  | .subS g d a b => shapeOf 1 g 0 (1) .both [.x a, .x b] [(.x d, 1)]
  | .andC h d a b => shapeOf 0 h.g h.hold.toNat (1) .both [.x a, .x b] [(.x d, 1)]
  | .andS g d a b => shapeOf 1 g 0 (1) .both [.x a, .x b] [(.x d, 1)]
  | .orC h d a b => shapeOf 0 h.g h.hold.toNat (1) .both [.x a, .x b] [(.x d, 1)]
  | .orS g d a b => shapeOf 1 g 0 (1) .both [.x a, .x b] [(.x d, 1)]
  | .xorC h d a b => shapeOf 0 h.g h.hold.toNat (1) .both [.x a, .x b] [(.x d, 1)]
  | .xorS g d a b => shapeOf 1 g 0 (1) .both [.x a, .x b] [(.x d, 1)]
  | .andnC h d a b => shapeOf 0 h.g h.hold.toNat (1) .both [.x a, .x b] [(.x d, 1)]
  | .andnS g d a b => shapeOf 1 g 0 (1) .both [.x a, .x b] [(.x d, 1)]
  | .shlC h d a b => shapeOf 0 h.g h.hold.toNat (1) .both [.x a, .x b] [(.x d, 1)]
  | .shlS g d a b => shapeOf 1 g 0 (1) .both [.x a, .x b] [(.x d, 1)]
  | .shrC h d a b => shapeOf 0 h.g h.hold.toNat (1) .both [.x a, .x b] [(.x d, 1)]
  | .shrS g d a b => shapeOf 1 g 0 (1) .both [.x a, .x b] [(.x d, 1)]
  | .sraC h d a b => shapeOf 0 h.g h.hold.toNat (1) .both [.x a, .x b] [(.x d, 1)]
  | .sraS g d a b => shapeOf 1 g 0 (1) .both [.x a, .x b] [(.x d, 1)]
  | .minC h d a b => shapeOf 0 h.g h.hold.toNat (1) .both [.x a, .x b] [(.x d, 1)]
  | .maxC h d a b => shapeOf 0 h.g h.hold.toNat (1) .both [.x a, .x b] [(.x d, 1)]
  | .minuC h d a b => shapeOf 0 h.g h.hold.toNat (1) .both [.x a, .x b] [(.x d, 1)]
  | .maxuC h d a b => shapeOf 0 h.g h.hold.toNat (1) .both [.x a, .x b] [(.x d, 1)]
  | .rol g d a b => shapeOf 1 g 0 (1) .both [.x a, .x b] [(.x d, 1)]
  | .clz g d a => shapeOf 1 g 0 (1) .both [.x a] [(.x d, 1)]
  | .ctz g d a => shapeOf 1 g 0 (1) .both [.x a] [(.x d, 1)]
  | .popc g d a => shapeOf 1 g 0 (1) .both [.x a] [(.x d, 1)]
  | .liC h d _ => shapeOf 0 h.g h.hold.toNat (1) .both [] [(.x d, 1)]
  | .liS g d _ => shapeOf 1 g 0 (1) .both [] [(.x d, 1)]
  | .addiC h d _ => shapeOf 0 h.g h.hold.toNat (1) .both [.x d] [(.x d, 1)]
  | .addiS g d _ => shapeOf 1 g 0 (1) .both [.x d] [(.x d, 1)]
  | .lihC h d _ => shapeOf 0 h.g h.hold.toNat (1) .both [.x d] [(.x d, 1)]
  | .lihS g d _ => shapeOf 1 g 0 (1) .both [.x d] [(.x d, 1)]
  | .mul g d a b => shapeOf 1 g 0 (3) .both [.x a, .x b] [(.x d, 3)]
  | .mulh g d a b => shapeOf 1 g 0 (3) .both [.x a, .x b] [(.x d, 3)]
  | .mulhu g d a b => shapeOf 1 g 0 (3) .both [.x a, .x b] [(.x d, 3)]
  | .div g d a b => shapeOf 1 g 0 (3) .both [.x a, .x b] [(.x d, 18)]
  | .divu g d a b => shapeOf 1 g 0 (3) .both [.x a, .x b] [(.x d, 18)]
  | .rem g d a b => shapeOf 1 g 0 (3) .both [.x a, .x b] [(.x d, 18)]
  | .remu g d a b => shapeOf 1 g 0 (3) .both [.x a, .x b] [(.x d, 18)]
  | .cmpeqC h pd a b => shapeOf 0 h.g h.hold.toNat (1) .both [.x a, .x b] [(.p pd, 1), (.p (pd + 1), 1)]
  | .cmpeqS g pd a b => shapeOf 1 g 0 (1) .both [.x a, .x b] [(.p pd, 1), (.p (pd + 1), 1)]
  | .cmpltC h pd a b => shapeOf 0 h.g h.hold.toNat (1) .both [.x a, .x b] [(.p pd, 1), (.p (pd + 1), 1)]
  | .cmpltS g pd a b => shapeOf 1 g 0 (1) .both [.x a, .x b] [(.p pd, 1), (.p (pd + 1), 1)]
  | .cmpltuC h pd a b => shapeOf 0 h.g h.hold.toNat (1) .both [.x a, .x b] [(.p pd, 1), (.p (pd + 1), 1)]
  | .cmpltuS g pd a b => shapeOf 1 g 0 (1) .both [.x a, .x b] [(.p pd, 1), (.p (pd + 1), 1)]
  | .cmpleC h pd a b => shapeOf 0 h.g h.hold.toNat (1) .both [.x a, .x b] [(.p pd, 1), (.p (pd + 1), 1)]
  | .cmpleS g pd a b => shapeOf 1 g 0 (1) .both [.x a, .x b] [(.p pd, 1), (.p (pd + 1), 1)]
  | .cmpleuC h pd a b => shapeOf 0 h.g h.hold.toNat (1) .both [.x a, .x b] [(.p pd, 1), (.p (pd + 1), 1)]
  | .cmpleuS g pd a b => shapeOf 1 g 0 (1) .both [.x a, .x b] [(.p pd, 1), (.p (pd + 1), 1)]
  | .cmpeqi h pd a _ => shapeOf 0 h.g h.hold.toNat (1) .both [.x a] [(.p pd, 1), (.p (pd + 1), 1)]
  | .cmplti h pd a _ => shapeOf 0 h.g h.hold.toNat (1) .both [.x a] [(.p pd, 1), (.p (pd + 1), 1)]
  | .pand h pd pa pb => shapeOf 0 h.g h.hold.toNat (1) .both [.p pa, .p pb] [(.p pd, 1)]
  | .por h pd pa pb => shapeOf 0 h.g h.hold.toNat (1) .both [.p pa, .p pb] [(.p pd, 1)]
  | .pxor h pd pa pb => shapeOf 0 h.g h.hold.toNat (1) .both [.p pa, .p pb] [(.p pd, 1)]
  | .pandn h pd pa pb => shapeOf 0 h.g h.hold.toNat (1) .both [.p pa, .p pb] [(.p pd, 1)]
  | .sel g d a b pc => shapeOf 1 g 0 (1) .both [.x a, .x b, .p pc] [(.x d, 1)]
  | .movp g d pa => shapeOf 1 g 0 (1) .both [.p pa] [(.x d, 1)]
  | .pmov g pd a => shapeOf 1 g 0 (1) .both [.x a] [(.p pd, 1)]
  | .fadd g _ _ d a b => shapeOf 1 g 0 (2) .both [.x a, .x b] [(.x d, 4)]
  | .fsub g _ _ d a b => shapeOf 1 g 0 (2) .both [.x a, .x b] [(.x d, 4)]
  | .fmul g _ _ d a b => shapeOf 1 g 0 (2) .both [.x a, .x b] [(.x d, 4)]
  | .ffma g _ _ d a b => shapeOf 1 g 0 (2) .both [.x d, .x a, .x b] [(.x d, 4)]
  | .fcmp g _ _ pd a b => shapeOf 1 g 0 (2) .both [.x a, .x b] [(.p pd, 4), (.p (pd + 1), 4)]
  | .fcvt g _ _ _ d a => shapeOf 1 g 0 (2) .both [.x a] [(.x d, 4)]
  | .xv g _ _ d va => shapeOf 1 g 0 (1) .both [.v va] [(.x d, 1)]
  | .vx g _ _ vd a => shapeOf 1 g 0 (1) .both [.x a] [(.v vd, 1)]
  | .pbr h _ _ => shapeOf 0 h.g h.hold.toNat (1) .both [] []
  | .pbrx h _ a => shapeOf 0 h.g h.hold.toNat (1) .both [.x a] []
  | .br h _ => shapeOf 0 h.g h.hold.toNat (1) .both [] []
  | .call h _ => shapeOf 0 h.g h.hold.toNat (1) .both [] []
  | .ret h => shapeOf 0 h.g h.hold.toNat (1) .both [] []
  | .loop h a _ => shapeOf 0 h.g h.hold.toNat (1) .prim [.x a] [(.pp 8, 1), (.pp 9, 1), (.pp 10, 1), (.pp 11, 1), (.pp 12, 1), (.pp 13, 1), (.pp 14, 1), (.pp 15, 1)]
  | .brl h _ => shapeOf 0 h.g h.hold.toNat (1) .prim [] [(.pr 15, 1)]
  | .segb h => shapeOf 0 h.g h.hold.toNat (1) .prim [] []
  | .phend h => shapeOf 0 h.g h.hold.toNat (1) .prim [] []
  | .tend h => shapeOf 0 h.g h.hold.toNat (1) .prim [] []
  | .realign h => shapeOf 0 h.g h.hold.toNat (1) .prim [] []
  | .trap h _ => shapeOf 0 h.g h.hold.toNat (1) .both [] []
  | .rdc h d _ => shapeOf 0 h.g h.hold.toNat (1) .both [] [(.x d, 1)]
  | .wrc h a _ => shapeOf 0 h.g h.hold.toNat (1) .both [.x a] []
  | .ifence h => shapeOf 0 h.g h.hold.toNat (1) .both [] []
  | .uiret h => shapeOf 0 h.g h.hold.toNat (1) .comp [] []
  | .waiti h => shapeOf 0 h.g h.hold.toNat (1) .comp [] []
  | .vaddV0 h d a b => shapeV 0 .add h d a b
  | .vaddV1 h d a b => shapeV 1 .add h d a b
  | .vaddV2 h d a b => shapeV 2 .add h d a b
  | .vsubV0 h d a b => shapeV 0 .sub h d a b
  | .vsubV1 h d a b => shapeV 1 .sub h d a b
  | .vsubV2 h d a b => shapeV 2 .sub h d a b
  | .vmulV0 h d a b => shapeV 0 .mul h d a b
  | .vmulV1 h d a b => shapeV 1 .mul h d a b
  | .vmulV2 h d a b => shapeV 2 .mul h d a b
  | .vfmaV0 h d a b => shapeV 0 .fma h d a b
  | .vfmaV1 h d a b => shapeV 1 .fma h d a b
  | .vfmaV2 h d a b => shapeV 2 .fma h d a b
  | .vfmsV0 h d a b => shapeV 0 .fms h d a b
  | .vfmsV1 h d a b => shapeV 1 .fms h d a b
  | .vminV0 h d a b => shapeV 0 .min h d a b
  | .vminV1 h d a b => shapeV 1 .min h d a b
  | .vminV2 h d a b => shapeV 2 .min h d a b
  | .vmaxV0 h d a b => shapeV 0 .max h d a b
  | .vmaxV1 h d a b => shapeV 1 .max h d a b
  | .vmaxV2 h d a b => shapeV 2 .max h d a b
  | .vminuV0 h d a b => shapeV 0 .minu h d a b
  | .vminuV1 h d a b => shapeV 1 .minu h d a b
  | .vmaxuV0 h d a b => shapeV 0 .maxu h d a b
  | .vmaxuV1 h d a b => shapeV 1 .maxu h d a b
  | .vandV0 h d a b => shapeV 0 .and h d a b
  | .vandV1 h d a b => shapeV 1 .and h d a b
  | .vorV0 h d a b => shapeV 0 .or h d a b
  | .vorV1 h d a b => shapeV 1 .or h d a b
  | .vxorV0 h d a b => shapeV 0 .xor h d a b
  | .vxorV1 h d a b => shapeV 1 .xor h d a b
  | .vandn h d a b => shapeV 0 .andn h d a b
  | .vshl h d a b => shapeV 0 .shl h d a b
  | .vshr h d a b => shapeV 0 .shr h d a b
  | .vsra h d a b => shapeV 0 .sra h d a b
  | .vabsV0 h d a => shapeV 0 .abs h d a 0
  | .vabsV1 h d a => shapeV 1 .abs h d a 0
  | .vnegV0 h d a => shapeV 0 .neg h d a 0
  | .vnegV1 h d a => shapeV 1 .neg h d a 0
  | .vmovV0 h d a => shapeV 0 .mov h d a 0
  | .vmovV1 h d a => shapeV 1 .mov h d a 0
  | .vmovV2 h d a => shapeV 2 .mov h d a 0
  | .vcmpeqV0 h md a b => shapeV 0 (.cmp .eq) h (md.setWidth 6) a b
  | .vcmpeqV1 h md a b => shapeV 1 (.cmp .eq) h (md.setWidth 6) a b
  | .vcmpeqV2 h md a b => shapeV 2 (.cmp .eq) h (md.setWidth 6) a b
  | .vcmpltV0 h md a b => shapeV 0 (.cmp .lt) h (md.setWidth 6) a b
  | .vcmpltV1 h md a b => shapeV 1 (.cmp .lt) h (md.setWidth 6) a b
  | .vcmpltV2 h md a b => shapeV 2 (.cmp .lt) h (md.setWidth 6) a b
  | .vcmpleV0 h md a b => shapeV 0 (.cmp .le) h (md.setWidth 6) a b
  | .vcmpleV1 h md a b => shapeV 1 (.cmp .le) h (md.setWidth 6) a b
  | .vselV0 h d a b => shapeV 0 .sel h d a b
  | .vselV1 h d a b => shapeV 1 .sel h d a b
  | .vselV2 h d a b => shapeV 2 .sel h d a b
  | .vclamp h d a b => shapeV 1 .clamp h d a b
  | .vcvtV0 h d a rm fr => shapeV 0 (.cvt rm fr) h d a 0
  | .vcvtV1 h d a rm fr => shapeV 1 (.cvt rm fr) h d a 0
  | .vcvtV2 h d a rm fr => shapeV 2 (.cvt rm fr) h d a 0
  | .vrnd h d a rm => shapeV 1 (.rnd rm) h d a 0
  | .vldexp h d a b => shapeV 2 .ldexp h d a b
  | .vexpo h d a => shapeV 0 .expo h d a 0
  | .vmaxexp h d a => shapeV 1 .maxexp h d a 0
  | .vshuf h d a b => shapeV 0 .shuf h d a b
  | .vrotl h d a k => shapeV 0 (.rotl k.toNat) h d a 0
  | .vbcl h d a k => shapeV 0 (.bcl k.toNat) h d a 0
  | .vpack h d a b => shapeV 0 .pack h d a b
  | .vunpk h d a hi zx => shapeV 0 (.unpk hi zx) h d a 0
  | .vraddV1 h d a => shapeV 1 .radd h d a 0
  | .vraddV2 h d a => shapeV 2 .radd h d a 0
  | .vrmaxV1 h d a => shapeV 1 .rmax h d a 0
  | .vrmaxV2 h d a => shapeV 2 .rmax h d a 0
  | .vrmin h d a => shapeV 1 .rmin h d a 0
  | .vscan h d a op => shapeV 1 (.scan op) h d a 0
  | .vexp2 h d a => shapeV 2 (.sp .exp2) h d a 0
  | .vlog2 h d a => shapeV 2 (.sp .log2) h d a 0
  | .vrcp h d a => shapeV 2 (.sp .rcp) h d a 0
  | .vrsq h d a => shapeV 2 (.sp .rsq) h d a 0
  | .vsqrt h d a => shapeV 2 (.sp .sqrt) h d a 0
  | .vtanh h d a => shapeV 2 (.sp .tanh) h d a 0
  | .vsigm h d a => shapeV 2 (.sp .sigm) h d a 0
  | .vsin h d a => shapeV 2 (.sp .sin) h d a 0
  | .vcos h d a => shapeV 2 (.sp .cos) h d a 0
  | .verf h d a => shapeV 2 (.sp .erf) h d a 0
  | .xacc g _ _ _ _ _ _ dr _ => shapeOf 5 g 0 (96 + drainWeight dr) .prim [] []
  | .xaccz g _ _ _ _ _ _ dr _ => shapeOf 5 g 0 (96 + drainWeight dr) .prim [] []
  | .xzero g _ dr _ => shapeOf 5 g 0 (8 + drainWeight dr) .prim [] []
  | .xdrn g dr _ => shapeOf 5 g 0 (drainWeight dr) .prim [] []
  | .ld g v a _ => shapeOf 6 g 0 (6) .both [.x a] [(.v v, 5)]
  | .st g v a _ => shapeOf 6 g 0 (6) .both [.v v, .x a] []
  | .stm g v a _ => shapeOf 6 g 0 (6) .both [.v v, .x a, .m 7] []
  | .ldt g v a _ => shapeOf 6 g 0 (6) .both [.x a] [(.v v, 5)]
  | .ldb g v a _ => shapeOf 6 g 0 (6) .both [.x a] [(.v v, 5)]
  | .ldx g v a b => shapeOf 6 g 0 (6) .both [.x a, .x b] [(.v v, 5)]
  | .stx g v a b => shapeOf 6 g 0 (6) .both [.v v, .x a, .x b] []
  | .rmrg g vd va a => shapeOf 6 g 0 (4) .both [.v va, .v vd, .x a] [(.v vd, 2)]
  | .gld g v a _ => shapeOf 6 g 0 (4) .notBody [.x a] [(.v v, 0)]
  | .gst g v a _ => shapeOf 6 g 0 (4) .notBody [.v v, .x a] []
  | .aopAdd g d a b => shapeOf 6 g 0 (4) .notBody [.x a, .x b] [(.x d, 0)]
  | .aopFadd32 g d a b => shapeOf 6 g 0 (4) .notBody [.x a, .x b] [(.x d, 0)]
  | .aopMin g d a b => shapeOf 6 g 0 (4) .notBody [.x a, .x b] [(.x d, 0)]
  | .aopMax g d a b => shapeOf 6 g 0 (4) .notBody [.x a, .x b] [(.x d, 0)]
  | .aopMinu g d a b => shapeOf 6 g 0 (4) .notBody [.x a, .x b] [(.x d, 0)]
  | .aopMaxu g d a b => shapeOf 6 g 0 (4) .notBody [.x a, .x b] [(.x d, 0)]
  | .aopAnd g d a b => shapeOf 6 g 0 (4) .notBody [.x a, .x b] [(.x d, 0)]
  | .aopOr g d a b => shapeOf 6 g 0 (4) .notBody [.x a, .x b] [(.x d, 0)]
  | .aopXor g d a b => shapeOf 6 g 0 (4) .notBody [.x a, .x b] [(.x d, 0)]
  | .aopXchg g d a b => shapeOf 6 g 0 (4) .notBody [.x a, .x b] [(.x d, 0)]
  | .aopCas g d a b => shapeOf 6 g 0 (4) .notBody [.x a, .x b, .x d] [(.x d, 0)]
  | .rwlRdacq g d a pd => shapeOf 6 g 0 (4) .notBody [.x a] [(.x d, 0), (.p pd, 0)]
  | .rwlRdrel g d a pd => shapeOf 6 g 0 (4) .notBody [.x a] [(.x d, 0), (.p pd, 0)]
  | .rwlWracq g d a pd => shapeOf 6 g 0 (4) .notBody [.x a, .x d] [(.x d, 0), (.p pd, 0)]
  | .rwlWrrel g d a pd => shapeOf 6 g 0 (4) .notBody [.x a] [(.x d, 0), (.p pd, 0)]
  | .rwlSetpref g d a pd => shapeOf 6 g 0 (4) .notBody [.x a, .x d] [(.x d, 0), (.p pd, 0)]
  | .fenceAcq g _ => shapeOf 6 g 0 (1) .both [] []
  | .fenceRel g _ => shapeOf 6 g 0 (1) .both [] []
  | .fenceFull g _ => shapeOf 6 g 0 (1) .both [] []
  | .sbind g _ a => shapeOf 7 g 0 (2) .prim [.x a] []
  | .sfree g _ => shapeOf 7 g 0 (2) .prim [] []
  | .sadv g _ _ => shapeOf 7 g 0 (2) .prim [] []
  | .gls g gd _ va vb => shapeOf 7 g 0 (2) .prim [.v va, .v vb] [(.g gd, 6)]
  | .zld g gd va => shapeOf 7 g 0 (2) .prim [.v va] [(.g gd, 6)]
  | .eld g gd va vb => shapeOf 7 g 0 (2) .prim [.v va, .v vb] [(.g gd, 6)]
  | .xcfg g _ a => shapeOf 7 g 0 (2) .prim [.x a] []
  | .xmaskRow g ma a => shapeOf 7 g 0 (2) .prim [.m ma, .x a] []
  | .xmaskFill g => shapeOf 7 g 0 (2) .prim [] []
  | .xmaskInv g => shapeOf 7 g 0 (2) .prim [] []
  | .btake g a => shapeOf 7 g 0 (2) .both [.x a] []
  | .bgive g a b => shapeOf 7 g 0 (2) .both [.x a, .x b] []
  | .bpub g a => shapeOf 7 g 0 (2) .both [.x a] []
  | .bret g a => shapeOf 7 g 0 (2) .both [.x a] []
  | .jsub g d a => shapeOf 7 g 0 (2) .both [.x a] [(.x d, 2)]
  | .jcan g a => shapeOf 7 g 0 (2) .both [.x a] []
  | .barmSet g _ a _ => shapeOf 7 g 0 (2) .both [.x a] []
  | .barmAdd g _ a _ => shapeOf 7 g 0 (2) .both [.x a] []
  | .barq g d _ => shapeOf 7 g 0 (2) .both [] [(.x d, 2)]
  | .uien g a => shapeOf 7 g 0 (2) .both [.x a] []
  | .tqbind g a => shapeOf 7 g 0 (2) .prim [.x a] []
  | .tqfl g _ => shapeOf 7 g 0 (2) .prim [] []
  | .nmsub g d a => shapeOf 7 g 0 (2) .both [.x a] [(.x d, 2)]
  | .nmfn g d a => shapeOf 7 g 0 (2) .both [.x a] [(.x d, 0)]
  | .phsel g pk => shapeOf 7 g 0 (2) .both [.p pk] []
  | .phld g _ a _ => shapeOf 7 g 0 (2) .both [.x a] []
  | .lnch g d a => shapeOf 7 g 0 (2) .prim [.x a] [(.x d, 2)]
  | .cancLaunch g a => shapeOf 7 g 0 (2) .both [.x a] []
  | .cancGraph g a => shapeOf 7 g 0 (2) .both [.x a] []
  | .cancPhase g a => shapeOf 7 g 0 (2) .both [.x a] []
  | .cancJob g a => shapeOf 7 g 0 (2) .both [.x a] []
  | .smpsub g d a => shapeOf 7 g 0 (2) .both [.x a] [(.x d, 2)]
  | .seedq g d => shapeOf 7 g 0 (2) .notBody [] [(.x d, 0)]
  | .untimedResultLand _ => Shape.empty
  | .homeAccess _ => Shape.empty
  | .writeAck _ => Shape.empty
  | .localStreamFill _ _ => Shape.empty
  | .streamRequest _ _ => Shape.empty
  | .ringLanding _ => Shape.empty
  | .ringStageFill _ _ => Shape.empty
  | .transposerRead _ => Shape.empty
  | .peerReadServe _ => Shape.empty
  | .freezeAnnounce _ _ _ => Shape.empty
  | .freezeTakeEffect _ => Shape.empty
  | .freezeResume _ => Shape.empty
  | .freezeTimeout _ => Shape.empty
  | .groupStop _ => Shape.empty
  | .bodyLengthExceeded _ => Shape.empty
  | .weirFreezeRequest _ => Shape.empty
  | .clockStretch _ => Shape.empty
  | .stretchFreeze _ => Shape.empty
  | .criticalMargin _ => Shape.empty
  | .opctlGoSync => Shape.empty
  | .opctlGoRunning => Shape.empty
  | .opSwitch => Shape.empty
  | .runningRampStep => Shape.empty
  | .powerLoop _ _ => Shape.empty
  | .pfWindowEnd => Shape.empty
  | .trapactContinue _ _ => Shape.empty
  | .trapactAbort _ _ => Shape.empty
  | .groupResume _ => Shape.empty
  | .uiDeliver _ => Shape.empty
  | .slotStart => Shape.empty
  | .preemptStop _ => Shape.empty
  | .preemptSave _ => Shape.empty
  | .preemptResume _ => Shape.empty
  | .phldLoadDone _ => Shape.empty
  | .phaseLatch => Shape.empty
  | .pageRequestAnswer _ => Shape.empty
  | .refreshDebtRepaid => Shape.empty
  | .sluiceLastArrival => Shape.empty
  | .slackOverrun => Shape.empty
  | .phaseStart _ => Shape.empty
  | .seqctlGo => Shape.empty
  | .seqctlAbort => Shape.empty
  | .partitionPeriod => Shape.empty
  | .jcopy _ _ => Shape.empty
  | .jcopyt _ _ => Shape.empty
  | .jgather _ _ => Shape.empty
  | .jscatter _ _ => Shape.empty
  | .jred _ _ => Shape.empty
  | .jsnap _ _ => Shape.empty
  | .jobComplete _ _ => Shape.empty
  | .snapshotBlockCopy _ => Shape.empty
  | .nadd _ => Shape.empty
  | .naxpy _ => Shape.empty
  | .nscal _ => Shape.empty
  | .nsgdw _ => Shape.empty
  | .nadamw _ => Shape.empty
  | .nfill _ => Shape.empty
  | .nred _ => Shape.empty
  | .ncopy _ => Shape.empty
  | .ncvt _ => Shape.empty
  | .nchk _ => Shape.empty
  | .nmStep _ => Shape.empty
  | .nmCommandComplete _ => Shape.empty
  | .samplerFetch _ => Shape.empty
  | .samplerExecute _ => Shape.empty
  | .samplerCommit _ => Shape.empty
  | .samplerComplete _ => Shape.empty
  | .kvLost _ => Shape.empty
  | .flitReceive _ _ => Shape.empty
  | .nakRepeat _ => Shape.empty
  | .replayWindowEnd _ => Shape.empty
  | .trainingComplete _ _ => Shape.empty
  | .pctlRetrain _ => Shape.empty
  | .tqrow _ => Shape.empty
  | .rd _ => Shape.empty
  | .wr _ => Shape.empty
  | .rsp _ => Shape.empty
  | .atom _ => Shape.empty
  | .sluiceArrival _ => Shape.empty
  | .sluiceStart _ => Shape.empty
  | .timeRequest _ => Shape.empty
  | .timeReply _ => Shape.empty
  | .timeStep _ => Shape.empty
  | .timeReport _ => Shape.empty
  | .tqclose _ => Shape.empty
  | .tqack _ => Shape.empty
  | .freezeMessage _ _ _ => Shape.empty
  | .freezeMessageLate _ => Shape.empty
  | .realignBegin => Shape.empty
  | .timeExchangeSend => Shape.empty
  | .cycStep => Shape.empty
  | .realignTimeout => Shape.empty
  | .replayEnd _ => Shape.empty
  | .auditLogCopy _ => Shape.empty
  | .auditReplay _ => Shape.empty
  | .auditCompare _ => Shape.empty
  | .rcvmarkWrite _ => Shape.empty
  | .recoveryRecordWrite => Shape.empty
  | .registerWrite _ _ _ _ => Shape.empty
  | .hostRead _ _ => Shape.empty
  | .hostWrite _ _ => Shape.empty
  | .hostFetchadd _ _ _ => Shape.empty
  | .hostSwap _ _ _ => Shape.empty
  | .hostCas _ _ _ _ => Shape.empty
  | .load _ => Shape.empty
  | .attest _ => Shape.empty
  | .seed _ => Shape.empty
  | .abort _ => Shape.empty
  | .tlbinvWrite _ => Shape.empty
  | .tlbinvDone => Shape.empty
  | .startGo => Shape.empty
  | .startClr => Shape.empty
  | .fundamentalReset => Shape.empty
  | .powerOn => Shape.empty
  | .powerLoss => Shape.empty
  | .startTimeout => Shape.empty
  | .entropyHealthFail => Shape.empty
  | .entropyPass => Shape.empty
  | .inFlightResultLanding _ => Shape.empty
  | .preTranslationArrival => Shape.empty
  | .realignComplete => Shape.empty
  | .stbaseWrite _ => Shape.empty

end Sys2Proof

namespace Sys2Proof.Machine

/-- The physical register an operand names, judged under the RBASE in force (R66, R141). -/
def Core.phys (c : Core) (comp : Bool) : LRef → Option PRef
  | .x r => match c.xRef comp r with
    | .x 0 => none
    | e => some e
  | .p r => some (c.pRef comp r)
  | .pp n => some (.p n)
  | .pr r => some (c.pRef comp r)
  | .m r => some (.m r.toNat)
  | .v r =>
    if r.isV then some (.v (c.vNum comp r.toNat))
    else if r.isO then some (.o (r.toNat - 0x20))
    else if r.isQ then some (.q (r.toNat - 0x38))
    else none
  | .g r => some (.g r.toNat)

/-- The registers and the instant at which an entry in flight lands (R65, R187, R228). -/
def Pend.lands (e : Pend) : List PRef × Nat :=
  let of : VDst → List PRef
    | .v n => [.v n]
    | .o n => [.o n]
    | .q _ _ => []
    | .mask n => [.m n, .m (n + 1)]
    | .gone => []
  match e.eff with
  | .x sh r _ => ([if sh then .sx r else .x r], e.due)
  | .p sh r _ => ([if sh then .sp r else .p r], e.due)
  | .vec d _ _ _ => (of d, e.due)
  | .vop op _ _ => (of op.dst, e.due + vLatency op.stage op.kind op.t)
  | .mask n _ _ => (of (.mask n), e.due)
  | .rowRead _ _ d => (of d, e.due + 4)
  | .loop _ ps => (ps.map (fun p => .p p.1), e.due)
  | .greg n _ _ => ([.g n], e.due)
  | .barq _ xd | .nmfn _ xd => (xd.toList, e.due)
  | _ => ([], e.due)

/-- Register class and number of TRAPINFO for HOLD_SHORT (R169); a shadow register has the number of the register that it
shadows (R164). -/
def holdClass (slot : Nat) : PRef → Nat × Nat
  | .x n => (if 6 ≤ slot then 6 else 0, n)
  | .sx n => (if 6 ≤ slot then 6 else 0, 24 + n)
  | .p n => (1, n)
  | .sp n => (1, 4 + n)
  | .v n => (2, n)
  | .o n => (3, n)
  | .m n => (4, n)
  | .g n => (5, n)
  | .q n => (6, n)
def holdInfo (short slot : Nat) (r : PRef) : Word :=
  let c := holdClass slot r
  BitVec.ofNat 64 (min short 255 * 2 ^ 16 + c.1 * 2 ^ 8 + c.2)

/-- The last-issued producer of a register that is still in flight from an earlier bundle. -/
def Strm.producer (t : Strm) (r : PRef) : Option Pend :=
  (t.pend.filter (fun e => e.iss < t.inst ∧ t.inst < e.lands.2 ∧ r ∈ e.lands.1)).getLast?
/-- A read before the register's last-issued producer makes its result usable (R68). -/
def Strm.readShort (t : Strm) (r : PRef) : Option Word :=
  (t.producer r).map fun e => holdInfo (e.lands.2 - t.inst) e.slot r
/-- A result that would land no later than one pending from an earlier bundle (R68). -/
def Strm.writeShort (t : Strm) (r : PRef) (lat : Nat) : Option Word :=
  let es := t.pend.filter (fun e => e.iss < t.inst ∧ t.inst + lat ≤ e.lands.2 ∧ r ∈ e.lands.1)
  es.getLast?.map fun e => holdInfo (e.lands.2 + 1 - (t.inst + lat)) e.slot r

/-- A named operand beyond the companion's bank (R25, R137); the predicates that LOOP and BRL write are not named. -/
def LRef.beyond : LRef → Bool
  | .x r => 32 ≤ r.toNat
  | .p r => 8 ≤ r.toNat
  | .pp _ | .pr _ => false
  | .m r => 8 ≤ r.toNat
  | .v r => 16 ≤ r.toNat && !r.isQ
  | .g _ => false
def LRef.isQ : LRef → Bool
  | .v r => r.isQ
  | _ => false
/-- The operands that R25 judges: the guard of an X slot is none of them. -/
def Shape.refs (sh : Shape) : List LRef :=
  (if sh.slot = 5 then [] else [LRef.p sh.guard]) ++ (sh.mguard.map LRef.m).toList ++ sh.reads ++ sh.writes.map (fun w => w.1)

/-- TRAPINFO of ILLEGAL: the reason and the slot word (R169). -/
def illegalInfo (reason : Nat) (i : Instr) : Word := BitVec.ofNat 64 (reason * 2 ^ 32 + (encode i).toNat)
/-- TRAPINFO that holds the slot word (R169). -/
def wordInfo (i : Instr) : Word := (encode i).setWidth 64

/-- The guard of a slot (R60, R61); a V slot is guarded lane by lane. -/
def State.guardOn (s : State) (sh : Shape) : Bool := sh.mguard.isSome || s.p sh.guard
/-- Registers that the scoreboard checks for a slot: the guard always, the operands unless the guard is 0 (R62). -/
def State.checked (s : State) (sh : Shape) : List LRef :=
  (match sh.mguard with | some m => [LRef.m m] | none => [LRef.p sh.guard]) ++ (if s.guardOn sh then sh.reads else [])

/-- The slot waits on a register that an earlier bundle left pending (R67). -/
def State.pendingReg (s : State) (sh : Shape) : Bool :=
  (s.checked sh ++ (if s.guardOn sh then sh.writes.map (fun w => w.1) else [])).any fun r =>
    match s.cur.phys s.focus.2 r with
    | some q => s.me.waits.any (fun w => decide (w.1 < s.bundleId) && w.2 = q)
    | none => false

/-- Where the V slot's cascaded operand comes from (R187): the entry of the earlier stage of this bundle. -/
def State.upstream (s : State) (slot : Nat) : Option Pend :=
  if s.focus.2 then none else
  s.me.pend.find? fun e => e.iss = s.me.inst && e.slot = slot - 1 &&
    (match e.eff with | .vec _ _ _ _ => true | .vop op _ _ => !op.kind.isCmp | _ => false)
/-- The selector that a cascaded stage reads (R187). -/
def cascadeSel (slot : Nat) : Option VSel := if slot = 3 then some 0x30 else if slot = 4 then some 0x32 else none
/-- The instants from issue to execution of a V slot. -/
def State.cascadeLag (s : State) (sh : Shape) : Nat :=
  match cascadeSel sh.slot, s.upstream sh.slot with
  | some j, some e => if sh.reads.any (fun r => r = .v j) then e.lands.2 - s.me.inst else 0
  | _, _ => 0

/-- HOLD_SHORT (R68); lag is the cascade's delay of the slot's results, gs are the scale and exponent registers that a beat
reads. -/
def State.holdShort (s : State) (sh : Shape) (lag : Nat) (gs : List LRef) : Option Word :=
  if !s.cur.holdchk then none else
  let rs := (s.checked sh ++ if s.guardOn sh then gs else []).filterMap (fun r => (s.cur.phys s.focus.2 r).bind s.me.readShort)
  let ws := if s.guardOn sh then
      -- an untimed result has no instant, but a Q slot's scalar has c+2 in a phase body (R67)
      sh.writes.filterMap (fun w => let lat := if w.2 = 0 && sh.slot = 7 && s.inBody then 2 else w.2
        if lat = 0 then none else (s.cur.phys s.focus.2 w.1).bind (fun q => s.me.writeShort q (lat + lag)))
    else []
  (rs ++ ws).head?

/-- The checks of R25, R26 and R137. Where a companion slot names an operand beyond its bank and belongs to the primary besides,
the lower cause is the one (R85). -/
def State.wrongStream (s : State) (i : Instr) (sh : Shape) : Option (Nat × Word) :=
  if s.focus.2 then
    if sh.refs.any LRef.beyond then some (0x01, illegalInfo 2 i)
    else if sh.only = .prim ∨ sh.refs.any LRef.isQ then some (0x03, wordInfo i)
    else none
  else if sh.only = .comp ∨ (sh.only = .notBody ∧ s.cur.place = .body) then some (0x03, wordInfo i)
  else none

/-- The slot takes its place in the bundle: its weight is charged and its hold count runs (R62, R64, R88). -/
def State.occupy (s : State) (sh : Shape) : State :=
  let s := s.charge sh.weight
  if !sh.occ then s
  else if sh.slot = 0 then s.holdFor sh.hold
  else if sh.slot = 5 then s.modCur fun c => { c with xIss := c.prim.inst :: c.xIss.take 15 }
  else s

end Sys2Proof.Machine
end

