-- ==== Sys2Proof/Machine/CtrlRegs.lean ====
section
/-!
DEFINITION. Machine/CtrlRegs.lean: the control registers: who may reach each number (R180, R181), what a read returns
and what a write stores (R7, R9), for the maps of R180, R255, R299, R335, R353, R376, R379, R383, R418, R449, R463,
R472, R473, R489, R495 and R499.
-/
namespace Sys2Proof.Machine

/-- Access of the U level: which streams may name the number, and whether U reads and writes it (R180). -/
structure CAccess where
  stream : Only
  read   : Bool
  write  : Bool
  deriving DecidableEq, Repr

/-- The access of a number that is assigned (R180). -/
def cAccess (n : Nat) : Option CAccess :=
  let r : Option CAccess := some ⟨.both, true, false⟩
  let rw : Option CAccess := some ⟨.both, true, true⟩
  let no : Option CAccess := some ⟨.both, false, false⟩
  if n ≤ 0x003 then r
  else if n = 0x008 then rw
  else if 0x010 ≤ n ∧ n ≤ 0x012 then rw
  else if 0x014 ≤ n ∧ n ≤ 0x017 then rw
  else if 0x020 ≤ n ∧ n ≤ 0x022 then some ⟨.prim, true, true⟩
  else if n = 0x024 then r
  else if n = 0x028 ∨ n = 0x02A then some ⟨.comp, true, true⟩
  else if n = 0x029 then some ⟨.comp, true, false⟩
  else if n = 0x02C then some ⟨.prim, true, false⟩
  else if 0x030 ≤ n ∧ n ≤ 0x036 then no
  else if 0x040 ≤ n ∧ n ≤ 0x043 then r
  else if 0x048 ≤ n ∧ n ≤ 0x04A then r
  else if n = 0x100 then no
  else if n = 0x110 ∨ n = 0x111 then r
  else if n = 0x112 then some ⟨.prim, true, false⟩
  else if n = 0x120 then no
  else if n = 0x121 ∨ n = 0x122 then some ⟨.comp, true, false⟩
  else if n = 0x130 ∨ n = 0x131 then r
  else if n = 0x140 then rw
  else if n = 0x141 ∨ n = 0x142 then r
  else if n = 0x143 then no
  else if n = 0x150 then r
  else if 0x151 ≤ n ∧ n ≤ 0x153 then no
  else if n = 0x160 ∨ n = 0x161 then r
  else if n = 0x162 then no
  else if 0x168 ≤ n ∧ n ≤ 0x16F then some ⟨.prim, true, false⟩
  else if 0x180 ≤ n ∧ n ≤ 0x1DF then no
  else if n = 0x1F2 ∨ n = 0x1F3 ∨ n = 0x1F5 then r
  else if 0x1F0 ≤ n ∧ n ≤ 0x1F8 then no
  else if n = 0x200 then some ⟨.prim, true, false⟩
  else if n = 0x201 then rw
  else if n = 0x202 then no
  else if 0x203 ≤ n ∧ n ≤ 0x20B then no
  else if n = 0x20C then some ⟨.prim, true, false⟩
  else if n = 0x220 ∨ n = 0x221 then no
  else if n = 0x222 then r
  else if n = 0x223 ∨ n = 0x224 then no
  else if n = 0x225 ∨ n = 0x226 then r
  else if 0x240 ≤ n ∧ n ≤ 0x242 then no
  else none

/-- The fault of an RDC or WRC at U (R161, R181). -/
def cFault (n : Nat) (comp write : Bool) : Option Nat :=
  match cAccess n with
  | none => some 0x01
  | some a =>
    if (a.stream = .prim && comp) || (a.stream = .comp && !comp) then some 0x03
    else if (if write then a.write else a.read) then none else some 0x02

/-- A register value from its fields: value, lowest bit, width. -/
def fields (fs : List (Nat × Nat × Nat)) : Word :=
  BitVec.ofNat 64 (fs.foldl (fun w f => w + f.1 % 2 ^ f.2.2 * 2 ^ f.2.1) 0)
/-- Bits [hi:lo] of a written value. -/
def wb (w : Word) (hi lo : Nat) : Nat := bitsOf w.toNat hi lo
/-- The value kept in bits [hi:lo], zeros elsewhere. -/
def keep (w : Word) (hi lo : Nat) : Word := BitVec.ofNat 64 (wb w hi lo * 2 ^ lo)

/-- The active half-range of R128. -/
def hact : Option Nat → Nat
  | some 0 => 363294553785
  | some 1 => 366334675574
  | some 2 => 375768186533
  | some 3 => 382331822979
  | some 4 => 385700385296
  | _ => 348820667180

def BankSt.code : BankSt → Nat
  | .empty => 0 | .loading => 1 | .valid => 2
def XFmt.num (f : XFmt) : Nat := XFmt.code f

/-- What an arrival that is missing adds to the count of a graph: its declared jobs (R374). -/
def Arrival.isJob : Arrival → Bool
  | .job _ _ | .unsubmitted _ => true
  | _ => false
/-- Members of a graph that are not complete: its launches and its declared jobs (R374). -/
def State.membersLeft (s : State) (id : Nat) (ms : List Arrival) : Nat :=
  (s.hcounts.filter (fun l => l.level = 1 && l.seq = id && !l.pre && !l.done)).length + ms.countP Arrival.isJob
/-- COUNT of a counter (R374): a phase's missing arrivals, a graph's launches and declared jobs, else the stored one. That of the
job counts the phases completed so far, as R374 has it; the table of R53 gives it as the phases not yet complete (log 57). One
cancelled outside a timed phase reads 0 (R375). -/
def State.countOf (s : State) (h : HCount) : Nat :=
  let ms := match s.bound with | some b => if b.seq = h.id && !b.start then b.missing else [] | none => []
  if h.zero then 0
  else if h.done then (if h.level = 4 then h.count else 0)
  else if h.level = 3 then ms.length
  else if h.level = 2 then s.membersLeft h.id ms
  else h.count
/-- PHID (R359). -/
def State.phid (s : State) : Word := fields [(s.phSeq.toNat, 20, 32), (s.phBank.toNat, 9, 1), (s.phIndex.toNat, 0, 9)]
/-- HCVAL: the counter that HCSEL names (R374, R376). -/
def State.hcval (s : State) (sel : Word) : Word :=
  let level := wb sel 63 61
  let id := wb sel 31 0
  match s.hcounts.find? (fun h => h.level = level ∧ (level = 4 ∨ h.id = id)) with
  | none => 0
  | some h =>
    let done := h.done || (level = 2 && s.countOf { h with zero := false } = 0)
    fields [(1, 63, 1), (done.toNat, 62, 1), (h.canc.toNat, 61, 1), (s.countOf h, 0, 48)]

def SReq.stageNo : SReq → Nat
  | r => match r.stage with | .queued => 0 | .fetch => 1 | .execute _ => 2 | .commit _ _ => 3

/-- One bank's half of XBST (R299). -/
def bankStat (b : Bank) (mvalid : Nat) : Nat :=
  (fields [(b.clrrun, 16, 8), (mvalid, 15, 1), (b.act.toNat, 14, 1), (XFmt.num b.bfmt, 11, 3), (b.chunk.toNat, 10, 1),
    (b.slev, 7, 3), (b.drow, 0, 7)]).toNat

/-- PCTL and its companions of port p (R418). -/
def portReg (p : Port) (j : Nat) : Word :=
  match j with
  | 0 => p.ctl
  | 1 => fields [(p.up.toNat, 63, 1), (p.rate.toNat, 61, 2), (p.train.toNat, 60, 1), (p.peerDev.toNat, 50, 10),
      (p.peerPort.toNat, 44, 6), (p.retrains.toNat, 16, 16), (p.lat.toNat, 0, 16)]
  | 2 => fields [(p.feccor.toNat, 32, 32), (p.fecunc.toNat, 16, 16), (p.crcerr.toNat, 0, 16)]
  | _ => fields [(p.rply.toNat, 32, 32), (p.naktx.toNat, 16, 16), (p.winrpl, 0, 16)]

/-- A banked register has a copy for each stream; F and H reach the companion's at its number + 0x800 (R180, R353, R376). -/
def bankedReg (n : Nat) : Bool :=
  (0x010 ≤ n && n ≤ 0x012) || n = 0x024 || (0x030 ≤ n && n ≤ 0x036) || n = 0x130 || n = 0x131 || n = 0x140 || n = 0x141
/-- The register and the stream that a number names at F and H; none for a number that is not assigned (R180, R492). -/
def hostReg (n : Nat) : Option (Nat × Bool) :=
  if n < 0x800 then some (n, false) else if bankedReg (n - 0x800) then some (n - 0x800, true) else none
/-- A W1S bit reads 1 from its write until the machine takes the request (R7; log 58). -/
def State.asked (s : State) (e : Event) : Nat := (s.agenda.contains e).toNat
/-- A row of bytes, low byte first. -/
def bytesOf (x n : Nat) : List Byte := (List.range n).map fun i => BitVec.ofNat 8 (x / 2 ^ (8 * i))
/-- The signature continued over one write: A, M and D (R471). -/
def Sign.onto (sig : Word) (w : Sign) : Word :=
  let data := w.data.toNat &&& ((List.range 128).foldr (fun i x => (if w.en.getLsbD i then 255 else 0) + 256 * x) 0)
  BitVec.ofNat 64 (crc64 sig.toNat (bytesOf w.addr 8 ++ bytesOf w.en.toNat 16 ++ bytesOf data 128))
/-- The writes of the present instant enter the signature by slot, those of one slot as they performed (R471). -/
def Core.signAll (c : Core) : Core :=
  { c with stsig := (c.signs.mergeSort fun a b => a.slot ≤ b.slot).foldl Sign.onto c.stsig, signs := [] }
/-- What a read of control register n by a stream of core k returns. -/
def State.cread (s : State) (k : CoreId) (comp : Bool) (n : Nat) : Word :=
  let c := s.core k
  let t := c.strm comp
  let cl := s.cluster (clusterOf k)
  let h := s.health
  let v := s.ctxView c.ctx
  match n with
  | 0x000 => s.cyc
  | 0x001 => BitVec.ofNat 64 k.val
  | 0x002 => BitVec.ofNat 64 (k.val / 8)
  | 0x003 => v.phid
  | 0x008 => fields [(c.holdchk.toNat, 0, 1)]
  | 0x010 => t.axen.setWidth 64
  | 0x011 => t.axflag.setWidth 64
  | 0x012 => t.srctr
  | 0x014 => rd c.srkey 0 0
  | 0x015 => rd c.srkey 1 0
  | 0x016 => rd c.srkey 2 0
  | 0x017 => rd c.srkey 3 0
  | 0x020 => c.loop.lc.setWidth 64
  | 0x021 => c.loop.ec.setWidth 64
  | 0x022 => fields [(c.loop.act.toNat, 8, 1), (c.loop.base.toNat, 0, 4)]
  | 0x024 => BitVec.ofNat 64 t.ras.length
  | 0x028 => fields [(c.uivAddr.toNat, 5, 47), (c.uivEn.toNat, 0, 1)]
  | 0x029 => fields [(c.uiq.length, 8, 8), (if c.comp.mode = .waiti then 1 else 0, 1, 1), (c.inh.toNat, 0, 1)]
  | 0x02A => c.uiepc.setWidth 64
  | 0x02C => keep (c.segpc.setWidth 64) 51 5
  | 0x030 => fields [(t.trap.pend.toNat, 31, 1), (t.trap.cls.toNat, 16, 3), (t.trap.cause.toNat, 0, 7)]
  | 0x031 => keep (t.trap.pc.setWidth 64) 51 5
  | 0x032 => keep (t.trap.npc.setWidth 64) 51 5
  | 0x033 => t.trap.slot.setWidth 64
  | 0x034 => t.trap.info
  | 0x035 => t.trap.cyc
  | 0x040 => c.frzcnt
  | 0x041 => c.weircnt
  | 0x042 => c.frzmax.setWidth 64
  | 0x043 => fields [(c.weirSet.toNat, 32, 16), (c.weirFlr.toNat, 16, 16), (c.weirLim.toNat, 0, 16)]
  | 0x048 => fields [(c.mx.off.toNat, 63, 1), (c.mx.ret.isSome.toNat, 62, 1), (c.mx.ret.getD 0, 59, 3),
      (c.mx.lch.getD 0, 56, 3), (c.mx.lch.isSome.toNat, 55, 1), (hact c.mx.ret, 0, 39)]
  | 0x049 => c.mx.rnslim.setWidth 64
  | 0x04A => BitVec.ofNat 64 c.mx.z0.mtr
  | 0x100 => s.ptbase
  | 0x110 => BitVec.ofNat 64 c.mx.z1.mtr
  | 0x111 => fields ((c.mx.ucnt, 56, 8) :: (List.range 7).map (fun i => (rd c.mx.ch i 0, 8 * i, 8)))
  | 0x112 => fields [(bankStat c.mx.z1 0, 32, 32), (bankStat c.mx.z0 c.mx.mvalid.toNat, 0, 32)]
  | 0x120 => c.barbase
  | 0x121 => c.uiRing
  | 0x122 => fields [(c.uiTail.toNat, 24, 6), (c.uiHead.toNat, 16, 6), (c.uiOvf.toNat, 8, 1), (c.uien.toNat, 0, 4)]
  | 0x130 => t.nmstat
  | 0x131 => fields [(t.nmnext.toNat, 32, 32),
      ((s.nm.filter (fun q => q.stamp.core = k ∧ q.stamp.comp = comp ∧ q.stamp.ctx = c.ctx)).length, 0, 5)]
  | 0x140 => t.hcsel
  | 0x141 => v.hcval t.hcsel
  | 0x142 => fields [(s.slkKind.toNat, 32, 4), (s.slkSpan.toNat, 0, 32)]
  | 0x143 => fields [(s.asked .seqctlAbort, 1, 1), (s.asked .seqctlGo, 0, 1), ((v.bound.map (fun b => b.hold)).getD 0, 24, 8), (v.bankB.st.code, 6, 2), (v.bankA.st.code, 4, 2)]
  | 0x150 => s.partctl
  | 0x151 => s.partq
  | 0x152 => s.stbase
  | 0x153 => s.ctxbase
  | 0x160 => s.devid
  | 0x161 => v.spandly.setWidth 64
  | 0x162 => s.rtbase
  | 0x1F0 => cl.smpbase
  | 0x1F1 => fields [(wb cl.smpblogA 51 12, 12, 40), (cl.smpblogS.toNat, 0, 5)]
  | 0x1F2 => cl.smpbcnt
  | 0x1F3 => fields [(cl.stall.toNat, 32, 32), ((cl.reqs.filter (fun r => r.stageNo = 0)).length, 8, 6),
      ((cl.reqs.map SReq.stageNo).foldl max 0, 0, 2)]
  | 0x1F4 => s.seedbase
  | 0x1F5 => s.seedcnt
  | 0x1F6 => s.kvpool
  | 0x1F7 => s.kvstate
  | 0x1F8 => s.kvlen.setWidth 64
  | 0x200 => fields [(c.seg.isOpen.toNat, 63, 1), (c.seg.valid.toNat, 62, 1), (c.seg.fix.toNat, 61, 1),
      (c.seg.rpl.toNat, 60, 1), (c.seg.held.length, 40, 7), (c.seg.ingress.length, 32, 7), (c.seg.rewinds, 16, 16)]
  | 0x201 => fields [(s.rcvPend.toNat, 63, 1), (if s.rcvPend then s.rcvReq.toNat else s.rcvId.toNat, 0, 32)]
  | 0x202 => s.rcvbase
  | 0x203 => s.audctl
  | 0x204 => rd s.audkey 0 0
  | 0x205 => rd s.audkey 1 0
  | 0x206 => rd s.audkey 2 0
  | 0x207 => rd s.audkey 3 0
  | 0x208 => s.audbase
  | 0x209 => fields [(s.auddrop.toNat, 48, 16), (s.audmis.toNat, 32, 16), (s.audpass.toNat, 0, 32)]
  | 0x20A => s.errbase
  | 0x20B => s.errhead
  | 0x20C => c.signAll.stsig
  | 0x220 => fields [(h.tgt.toNat, 4, 3), (h.mode.toNat, 1, 1), (max (s.asked .opctlGoSync) (s.asked .opctlGoRunning), 0, 1)]
  | 0x221 => h.opat
  | 0x222 => fields [(h.busy.toNat, 63, 1), (h.cur.toNat, 60, 3), (h.req.toNat, 57, 3), (h.err.toNat, 54, 3), (h.chg.toNat, 0, 32)]
  | 0x223 => fields [(h.plim.toNat, 16, 16), (h.tcrit.toNat, 8, 8), (h.thot.toNat, 0, 8)]
  | 0x224 => h.uvctl
  | 0x225 => h.pfstat0
  | 0x226 => h.pfstat1
  | 0x240 => fields [(s.startWhy.toNat, 48, 8), (s.startStep.toNat, 40, 4), (s.startFails.toNat, 34, 2),
      (s.startMin.toNat, 33, 1), (s.startUp.toNat, 32, 1), (s.asked .startClr, 1, 1), (s.asked .startGo, 0, 1)]
  | 0x241 => s.hw1base
  | 0x242 => fields [(s.tlbBusy.toNat, 63, 1), (wb s.tlbinv 59 0, 0, 60)]
  | _ =>
    if 0x168 ≤ n ∧ n ≤ 0x16F then
      let e := rd c.tq (n - 0x168) .reset
      fields [(e.bound.toNat, 63, 1), (e.flush.toNat, 62, 1), (e.rows.length, 55, 7), (e.count, 32, 23), (e.bind.toNat, 0, 32)]
    else if h : 0x180 ≤ n ∧ n ≤ 0x1DF then
      let p : PortId := ⟨(n - 0x180) / 4, by omega⟩
      portReg (rd s.ports p.val .reset) ((n - 0x180) % 4) ||| (if (n - 0x180) % 4 = 0 then BitVec.ofNat 64 (s.asked (.pctlRetrain p)) else 0)
    else 0

def Port.write (p : Port) (j : Nat) (v : Word) : Port :=
  match j with
  | 0 => { p with ctl := fields [(wb v 40 32, 32, 9), (wb v 31 1, 1, 31)] }
  | 2 => { p with feccor := BitVec.ofNat 32 (wb v 63 32), fecunc := BitVec.ofNat 16 (wb v 31 16), crcerr := BitVec.ofNat 16 (wb v 15 0) }
  | 3 => { p with rply := BitVec.ofNat 32 (wb v 63 32), naktx := BitVec.ofNat 16 (wb v 31 16) }
  | _ => p

/-- What a write of control register n stores, under the access codes of R7. The actions that a write sets off
(TRAPACT, SEQCTL, OPCTL.GO, PCTL.RETRAIN, START, TLBINV) are steps of their own; a write at U reaches only what
cAccess lets it. -/
def State.cwrite (s : State) (k : CoreId) (comp : Bool) (n : Nat) (v : Word) : State :=
  let ms := s.modStrm k comp
  let mc := s.modCore k
  let mh := fun (f : Health → Health) => { s with health := f s.health }
  match n with
  | 0x008 => mc fun c => { c with holdchk := v.getLsbD 0 }
  | 0x010 => ms fun t => { t with axen := v.setWidth 6 }
  | 0x011 => ms fun t => { t with axflag := t.axflag &&& ~~~(v.setWidth 6) }
  | 0x012 => ms fun t => { t with srctr := v }
  | 0x014 => mc fun c => { c with srkey := wr c.srkey 0 v }
  | 0x015 => mc fun c => { c with srkey := wr c.srkey 1 v }
  | 0x016 => mc fun c => { c with srkey := wr c.srkey 2 v }
  | 0x017 => mc fun c => { c with srkey := wr c.srkey 3 v }
  | 0x020 => mc fun c => { c with loop := { c.loop with lc := v.setWidth 32 } }
  | 0x021 => mc fun c => { c with loop := { c.loop with ec := v.setWidth 6 } }
  | 0x022 => mc fun c => { c with loop := { c.loop with base := v.setWidth 4, act := v.getLsbD 8 } }
  | 0x028 => mc fun c => { c with uivAddr := BitVec.ofNat 47 (wb v 51 5), uivEn := v.getLsbD 0 }
  | 0x02A => mc fun c => { c with uiepc := v.setWidth 52 }
  | 0x031 => ms fun t => { t with trap := { t.trap with pc := (keep v 51 5).setWidth 52 } }
  | 0x032 => ms fun t => { t with trap := { t.trap with npc := (keep v 51 5).setWidth 52 } }
  | 0x040 => mc fun c => { c with frzcnt := v }
  | 0x041 => mc fun c => { c with weircnt := v }
  | 0x042 => mc fun c => { c with frzmax := if wb v 31 0 < 1024 then 1024 else v.setWidth 32 }
  | 0x043 => mc fun c =>
      { c with weirSet := BitVec.ofNat 16 (wb v 47 32), weirFlr := BitVec.ofNat 16 (wb v 31 16)
               weirLim := BitVec.ofNat 16 (min (wb v 15 0) (wb v 47 32)) }
  | 0x049 => mc fun c => { c with mx := { c.mx with rnslim := v.setWidth 8 } }
  | 0x100 => { s with ptbase := keep v 51 16 ||| keep v 0 0 }
  | 0x111 => mc fun c =>
      { c with mx := { c.mx with ucnt := wb v 63 56, ch := Vector.ofFn (fun i => wb v (8 * i.val + 7) (8 * i.val)) } }
  | 0x120 => mc fun c => { c with barbase := keep v 51 10 }
  | 0x121 => mc fun c => { c with uiRing := keep v 51 12 }
  | 0x122 => mc fun c => { c with uiOvf := c.uiOvf && !v.getLsbD 8 }
  | 0x140 => ms fun t => { t with hcsel := fields [(wb v 63 61, 61, 3), (wb v 31 0, 0, 32)] }
  | 0x150 =>
    let mode := if wb v 1 0 = 3 then wb s.partctl 1 0 else wb v 1 0
    -- in adaptive mode a write of SPLIT sets NEXTP (R383)
    let split := if mode = 1 then wb s.partctl 19 16 else wb v 19 16
    let nextp := if mode = 1 then wb v 19 16 else wb s.partctl 31 28
    { s with partctl := fields [(wb v 63 48, 48, 16), (wb v 47 32, 32, 16), (nextp, 28, 4), (wb v 27 24, 24, 4),
        (wb v 23 20, 20, 4), (split, 16, 4), (mode, 0, 2)] }
  | 0x151 => { s with partq := keep v 51 4 }
  | 0x152 => { s with stbase := keep v 51 12 ||| keep v 7 0 }
  | 0x153 => { s with ctxbase := keep v 51 7 }
  | 0x160 => { s with devid := keep v 29 0 }
  | 0x162 => { s with rtbase := keep v 51 13 }
  | 0x1F0 => s.modCluster (clusterOf k) fun c => { c with smpbase := keep v 51 8 }
  | 0x1F1 => s.modCluster (clusterOf k) fun c =>
      { c with smpblogA := keep v 51 12
               smpblogS := if 6 ≤ wb v 4 0 ∧ wb v 4 0 ≤ 16 then v.setWidth 5 else 6 }
  | 0x1F2 => s.modCluster (clusterOf k) fun c => { c with smpbcnt := v }
  | 0x1F3 => s.modCluster (clusterOf k) fun c => { c with stall := BitVec.ofNat 32 (wb v 63 32) }
  | 0x1F4 => { s with seedbase := keep v 51 8 }
  | 0x1F6 => { s with kvpool := keep v 51 0 }
  | 0x1F7 => { s with kvstate := keep v 51 8 }
  | 0x1F8 => { s with kvlen := v.setWidth 32 }
  | 0x200 => mc fun c => { c with seg := { c.seg with rewinds := wb v 31 16 } }
  | 0x201 => { s with rcvReq := v.setWidth 32, rcvPend := true }
  | 0x202 => { s with rcvbase := keep v 51 20 }
  | 0x203 => { s with audctl := fields [(wb v 23 16, 16, 8), (wb v 11 8, 8, 4), (min (wb v 4 0) 16, 0, 5)] }
  | 0x204 => { s with audkey := wr s.audkey 0 v }
  | 0x205 => { s with audkey := wr s.audkey 1 v }
  | 0x206 => { s with audkey := wr s.audkey 2 v }
  | 0x207 => { s with audkey := wr s.audkey 3 v }
  | 0x208 => { s with audbase := keep v 51 24 ||| keep v 7 0 }
  | 0x209 => { s with auddrop := BitVec.ofNat 16 (wb v 63 48), audmis := BitVec.ofNat 16 (wb v 47 32), audpass := v.setWidth 32 }
  | 0x20A => { s with errbase := keep v 51 17 }
  | 0x220 => mh fun h => { h with tgt := BitVec.ofNat 3 (wb v 6 4), mode := v.getLsbD 1 }
  | 0x221 => mh fun h => { h with opat := v }
  | 0x222 => mh fun h => { h with err := h.err &&& ~~~(BitVec.ofNat 3 (wb v 56 54)) }
  | 0x223 => mh fun h => { h with plim := BitVec.ofNat 16 (wb v 31 16), tcrit := BitVec.ofNat 8 (wb v 15 8), thot := v.setWidth 8 }
  | 0x224 => mh fun h =>
      { h with uvctl := keep v 63 32 ||| keep v 11 4 ||| keep v 1 0 ||| (keep h.uvctl 13 12 &&& ~~~(keep v 13 12)) }
  | 0x225 => mh fun h => { h with pfstat0 := h.pfstat0 &&& ~~~v }
  | 0x226 => mh fun h => { h with pfstat1 := h.pfstat1 &&& ~~~v }
  | 0x241 => { s with hw1base := keep v 51 30 }
  | 0x242 => { s with tlbinv := keep v 59 0, tlbBusy := true }
  | _ =>
    if 0x180 ≤ n ∧ n ≤ 0x1DF then
      let p := (n - 0x180) / 4
      { s with ports := wr s.ports p (Port.write (rd s.ports p .reset) ((n - 0x180) % 4) v) }
    else s

end Sys2Proof.Machine
end

