-- ==== Sys2Proof/Machine/Access.lean ====
section
/-!
DEFINITION. Machine/Access.lean: translation (R253 to R255), the homes of sectors and what an access does there
(R248 to R250, R506), accesses sent and answered (R246), the error log (R473) and the exposed-write set (R465).
-/
namespace Sys2Proof.Machine

/-! ### Physical addresses (R399) -/

/-- The address lies in this package: its own memory or its host's. -/
def State.ownAddr (s : State) (pa : Nat) : Bool := pa / 2 ^ 42 = wb s.devid 9 0
def isHostAddr (pa : Nat) : Bool := pa / 2 ^ 41 % 2 = 1
/-- Unbacked: no memory stands there (R399), or no port leads to it (R400). -/
def State.unbacked (s : State) (pa : Nat) : Bool :=
  if 2 ^ 52 ≤ pa then true
  else if !isHostAddr pa && (pa / 2 ^ 39 % 4 ≠ 0 || 0xC_0000_0000 ≤ pa % 2 ^ 36) then true
  else if s.ownAddr pa then false
  else Memory.getN s.mem (wb s.rtbase 51 13 * 2 ^ 13 + 8 * (pa / 2 ^ 42)) 8 % 2 ^ 24 = 0
/-- The stack that holds an address. -/
def stackOf (pa : Nat) : Nat := pa / 2 ^ 36 % 8

/-! ### Page tables (R254) -/

/-- The levels from 0 to 3: lowest index bit, index bits, and whether a leaf may stand there. -/
def walkLevels : List (Nat × Nat × Bool) := [(39, 13, false), (30, 9, true), (21, 9, true), (16, 5, true)]
/-- The walk from a table through the levels left, without regard to backing; none when an entry is missing or malformed. -/
def State.walk (s : State) (va : Nat) : Nat → List (Nat × Nat × Bool) → Option Tlb
  | _, [] => none
  | base, (lo, n, leafOk) :: r =>
    let e := Memory.getN s.mem (base + 8 * (va / 2 ^ lo % 2 ^ n)) 8
    let a := bitsOf e 51 12 * 2 ^ 12
    if e % 2 = 0 ∨ bitsOf e 63 52 ≠ 0 ∨ bitsOf e 11 5 ≠ 0 then none
    else if e / 2 % 2 = 1 then
      if leafOk ∧ a % 2 ^ lo = 0 then
        some { va := va / 2 ^ lo * 2 ^ lo, size := lo, pa := a, perm := BitVec.ofNat 3 (bitsOf e 4 2) }
      else none
    else s.walk va a r
/-- The leaf that the tables at a level-0 base give (R254). -/
def State.walkLeaf (s : State) (pt : Word) (va : Nat) : Option Tlb :=
  if pt.getLsbD 0 = false ∨ 2 ^ 52 ≤ va then none else s.walk va (wb pt 51 16 * 2 ^ 16) walkLevels
/-- The translation: a leaf whose page reaches an unbacked address is malformed (R254, R399). -/
def State.walkFrom (s : State) (pt : Word) (va : Nat) : Option Tlb :=
  match s.walkLeaf pt va with
  | none => none
  | some t => if s.unbacked t.pa || s.unbacked (t.pa + 2 ^ t.size - 1) then none else some t
def Tlb.covers (t : Tlb) (va : Nat) : Bool := t.va ≤ va && va < t.va + 2 ^ t.size
def Tlb.at (t : Tlb) (va : Nat) : Nat := t.pa + (va - t.va)
/-- Permission bits: R 1, W 2, X 4 (R254). -/
def Tlb.allows (t : Tlb) (need : Nat) : Bool := (t.perm.toNat &&& need) = need
/-- The level-0 table of a context (R255, R377). -/
def State.ptOf (s : State) (ctx : Option Nat) : Word :=
  match ctx with
  | none => s.ptbase
  | some x => if s.curCtx = some x then s.ptbase else BitVec.ofNat 64 (Memory.getN s.mem (wb s.ctxbase 51 7 * 2 ^ 7 + 128 * x) 8)
/-- An untimed translation (R253): a cached one, or the walk; none while PTBASE.EN is 0 (R255). The answer is the address or the
cause. -/
def State.translate (s : State) (k : CoreId) (va need : Nat) : Except Nat (Nat × Option Tlb) :=
  if !(s.ptOf (s.core k).ctx).getLsbD 0 then .error 0x25
  else match (s.core k).tlb.find? (·.covers va) with
  | some t => if t.allows need then .ok (t.at va, none) else .error 0x26
  | none =>
    match s.walkFrom (s.ptOf (s.core k).ctx) va with
    | none => .error 0x25
    | some t => if t.allows need then .ok (t.at va, some t) else .error 0x26
def State.cacheTlb (s : State) (k : CoreId) : Option Tlb → State
  | none => s
  | some t => s.modCore k fun c => { c with tlb := c.tlb ++ [t] }
/-- The phase translation cache of core k's cluster, of the phase that its context runs (R361, R378). -/
def State.ptcOf (s : State) (k : CoreId) : List Tlb :=
  match s.keptSeq (s.core k).ctx with
  | none => (s.cluster (clusterOf k)).ptc
  | some q => (rd q.ptcs (clusterOf k).val ([], [])).1
/-- A timed translation: the phase translation cache of the cluster, no walk (R253). -/
def State.timedXlate (s : State) (k : CoreId) (va need : Nat) : Except Nat Nat :=
  match (s.ptcOf k).find? (·.covers va) with
  | none => .error 0x24
  | some t => if t.allows need then .ok (t.at va) else .error 0x26

/-! ### Memory at its homes -/

def sectorsOf (pa n : Nat) : List Nat := (List.range ((pa % 64 + n + 63) / 64)).map (fun i => pa / 64 + i)
/-- A block joins ranges of blocks, each a base and a length: it fills the gap between two, extends one, or stands alone. -/
def joinRanges (b : Nat) (rs : List (Nat × Nat)) : List (Nat × Nat) :=
  if rs.any (fun r => r.1 ≤ b && b < r.1 + r.2) then rs
  else match rs.find? (fun r => r.1 + r.2 = b), rs.find? (fun r => r.1 = b + 1) with
    | some l, some u => (rs.erase u).map fun r => if r = l then (l.1, l.2 + 1 + u.2) else r
    | some l, none => rs.map fun r => if r = l then (l.1, l.2 + 1) else r
    | none, some u => rs.map fun r => if r = u then (b, u.2 + 1) else r
    | none, none => rs ++ [(b, 1)]
/-- A plain write: bytes, poison per sector (R506) and the exposed-write set (R465). -/
def State.store (s : State) (pa n data en : Nat) (byHost : Bool := false) : State :=
  let full := fun sec => pa ≤ sec * 64 ∧ sec * 64 + 64 ≤ pa + n ∧ bitsOf en (sec * 64 - pa + 63) (sec * 64 - pa) = 2 ^ 64 - 1
  let s := { s with mem := Memory.putN s.mem pa n data en
                    poison := s.poison.filter (fun sec => !(decide (full sec))) }
  if byHost then s
  else if isHostAddr pa then
    let rs := joinRanges (pa / 2 ^ 16) s.hostRng
    if 1024 < rs.length then { s with hostOvf := true } else { s with hostRng := rs }
  else { s with exposed := insertAsc (pa / 2 ^ 16) s.exposed }
def State.poisoned (s : State) (pa n : Nat) : Bool := (sectorsOf pa n).any (fun x => s.poison.contains x)
/-- A unit of the device writes n bytes to its own memory: the bytes, their poison and the exposed-write set (R465, R506). -/
def State.fillBytes (s : State) (at' n : Nat) (bytes : Memory) : State :=
  { s with
    mem := Memory.fill s.mem at' n bytes
    poison := s.poison.filter fun x => !decide (at' ≤ x * 64 ∧ x * 64 + 64 ≤ at' + n)
    exposed := (List.range ((at' + n - 1) / 2 ^ 16 + 1 - at' / 2 ^ 16)).foldl (fun l i => insertAsc (at' / 2 ^ 16 + i) l) s.exposed }
/-- A write of firmware or of an engine that needs no access of its own: words at a physical address. -/
def State.putWords (s : State) (pa : Nat) : List Word → State
  | [] => s
  | w :: r => (s.store pa 8 w.toNat 0xFF).putWords (pa + 8) r
def State.getWord (s : State) (pa : Nat) : Word := BitVec.ofNat 64 (Memory.getN s.mem pa 8)

/-- An entry of the error log (R473). -/
def State.logError (s : State) (kind core chan cause count addr detail : Nat) : State :=
  let i := s.errhead.toNat % 4096
  let s := s.putWords (wb s.errbase 51 17 * 2 ^ 17 + 32 * i)
    [fields [(kind, 0, 8), (core, 8, 8), (chan, 16, 8), (cause, 24, 8), (count, 32, 32)], s.cyc, BitVec.ofNat 64 addr,
     BitVec.ofNat 64 detail]
  { s with errhead := s.errhead + 1 }

/-- The new word of an AOP (R248): op code, old word, operand, expected value. -/
def aopNew (op : Nat) (old b exp : Word) : Word :=
  match op with
  | 0x0 => old + b
  | 0x2 => if old.toInt ≤ b.toInt then old else b
  | 0x3 => if old.toInt ≤ b.toInt then b else old
  | 0x4 => if old.toNat ≤ b.toNat then old else b
  | 0x5 => if old.toNat ≤ b.toNat then b else old
  | 0x6 => old &&& b
  | 0x7 => old ||| b
  | 0x8 => old ^^^ b
  | 0x9 => b
  | 0xA => if old = exp then b else old
  | _ => old
/-- FADD32 on one word (R134, R248). -/
def fadd32 (x y : Nat) : Nat := (fadd .f32 .rne (FFmt.decode .f32 x) (FFmt.decode .f32 y)).bits

/-- The lock word of R249: P, W, WW, RD. -/
def lockWord (p w : Bool) (ww rd : Nat) : Word := fields [(p.toNat, 63, 1), (w.toNat, 62, 1), (ww, 48, 14), (rd, 0, 48)]
/-- RWL's new word and outcome (R249): op 0 RDACQ, 1 RDREL, 2 WRACQ, 3 WRREL, 4 SETPREF. -/
def rwlNew (op : Nat) (old : Word) (xin : Bool) : Word × Bool :=
  let p := old.getLsbD 63
  let w := old.getLsbD 62
  let ww := wb old 61 48
  let r := wb old 47 0
  match op with
  | 0 =>
    let ok := !w && !(p && 0 < ww) && r < 2 ^ 48 - 1
    (lockWord p w ww (if ok then r + 1 else r), ok)
  | 1 => (lockWord p w ww (r - 1), 0 < r)
  | 2 =>
    if !w ∧ r = 0 then (lockWord p true (if xin ∧ 0 < ww then ww - 1 else ww) r, true)
    else (lockWord p w (if !xin ∧ p ∧ ww < 2 ^ 14 - 1 then ww + 1 else ww) r, false)
  | 3 => (lockWord p false ww r, w)
  | _ => (lockWord xin w ww r, true)

/-- Reduction rows (R238): 32 FP32 words or 16 words of 64 bits, in ascending word address. -/
def State.reduceRow (s : State) (pa : Nat) (isF : Bool) (d : Row) : State :=
  let w := if isF then 4 else 8
  (List.range (128 / w)).foldl (fun s i =>
    let a := pa + w * i
    let x := lane (8 * w) d i
    if s.poisoned a w then s.logError 10 0 (stackOf a) 0 1 a 0
    else
      let old := Memory.getN s.mem a w
      s.store a w (if isF then fadd32 old x else (old + x) % 2 ^ 64) (2 ^ w - 1)) s

/-- An access performs at its home, as one indivisible step (R250, R506). The result is the bytes returned, with a
lock operation's outcome in bit 64. -/
def State.perform (s : State) (a : Access) : State × Row × Bool :=
  let hostSide := a.who = .host
  match a.op with
  | .read n => (s, BitVec.ofNat 1024 (Memory.getN s.mem a.pa n), s.poisoned a.pa n)
  | .peer h row => (s, (s.core h).spRow row, (s.core h).spBad.contains row)
  | .write d en => (s.store a.pa 128 d.toNat en.toNat hostSide, 0, false)
  | .spoil d en =>
    let s := s.store a.pa 128 d.toNat en.toNat hostSide
    let secs := (sectorsOf a.pa 128).filter fun x => bitsOf en.toNat (x * 64 + 63 - a.pa) (x * 64 - a.pa) ≠ 0
    ({ s with poison := secs.foldl (fun l x => insertAsc x l) s.poison }, 0, false)
  | .aop op b exp ret =>
    let w := if op = 0x1 then 4 else 8
    let pa := a.pa / w * w
    if s.poisoned pa w then
      if ret then (s, 0, true) else (s.logError 10 0 (stackOf pa) 0 1 pa 0, 0, false)
    else
      let old := Memory.getN s.mem pa w
      let new := if op = 0x1 then fadd32 old (b.toNat % 2 ^ 32) else (aopNew op (BitVec.ofNat 64 old) b exp).toNat
      (s.store pa w new (2 ^ w - 1), BitVec.ofNat 1024 old, false)
  | .rwl op xin =>
    let pa := a.pa / 8 * 8
    if s.poisoned pa 8 then (s, 0, true)
    else
      let old := s.getWord pa
      let r := rwlNew op old xin
      (s.store pa 8 r.1.toNat 0xFF, BitVec.ofNat 1024 (old.toNat + r.2.toNat * 2 ^ 64), false)
  | .hostAtomic op wide b cmp =>
    let w := if wide then 8 else 4
    let pa := a.pa / w * w
    if s.poisoned pa w then (s, 0, true)
    else
      let old := Memory.getN s.mem pa w
      let m := 2 ^ (8 * w)
      let new := match op with
        | 0 => (old + b.toNat) % m
        | 1 => b.toNat % m
        | _ => if old = cmp.toNat % m then b.toNat % m else old
      (s.store pa w new (2 ^ w - 1) true, BitVec.ofNat 1024 old, false)
  | .reduce isF d => (s.reduceRow a.pa isF d, 0, false)

/-- Whether an access changes memory. -/
def AccOp.writes : AccOp → Bool
  | .read _ | .peer _ _ => false
  | _ => true
/-- A read of a row of another core's scratchpad, which has no physical address (R235). -/
def AccOp.ofPeer : AccOp → Bool
  | .peer _ _ => true
  | _ => false
def AccOp.size : AccOp → Nat
  | .read n => n
  | .write _ _ | .spoil _ _ | .reduce _ _ => 128
  | _ => 8

/-- The rows of timed writes of a stamp's core that have performed while their windows stay open: a job or command of its primary
does not see them (R261, R349). -/
def State.opensOf (s : State) (st : Stamp) : List Nat :=
  if !st.comp && (s.core st.core).ctx = st.ctx then (s.core st.core).opens.map fun o => o.1 else []
/-- The ports that the routing table gives for a device (R400). -/
def State.route (s : State) (dom : Nat) : Nat := Memory.getN s.mem (wb s.rtbase 51 13 * 2 ^ 13 + 8 * dom) 8 % 2 ^ 24
/-- The port a sector's messages take: one of the mask, chosen by a hash the manual does not give, the same for the two sectors of a
row, so that a message of a whole row takes the port of each of them (R400; log 3). -/
def State.portFor (s : State) (dom sector : Nat) : Option Nat :=
  let ps := (List.range 24).filter (fun i => s.route dom / 2 ^ i % 2 = 1)
  if ps.length = 0 then none else ps[Config.portOf dom (sector / 2) % ps.length]?
def State.port (s : State) (i : Nat) : Port := rd s.ports i .reset
def State.modPort (s : State) (i : Nat) (f : Port → Port) : State := { s with ports := wr s.ports i (f (s.port i)) }
def State.postMsg (s : State) (port op : Nat) (m : Msg) : State := s.modPort port fun p => { p with outMsgs := p.outMsgs ++ [(op, m)] }
/-- A Clapel port, or from 24 a port of the bridge (R397). -/
def State.anyPort (s : State) (p : PortId) : Port := if p.val < 24 then s.port p.val else rd s.bridge (p.val - 24) .reset
def State.modAny (s : State) (p : PortId) (f : Port → Port) : State :=
  if p.val < 24 then s.modPort p.val f else { s with bridge := wr s.bridge (p.val - 24) (f (rd s.bridge (p.val - 24) .reset)) }
/-- A training begins at a rate; the replay buffer is kept (R394). -/
def Port.beginTraining (p : Port) (rate : BitVec 2) (now : Nat) : Port :=
  { p with train := true, trainAt := now, rate := rate, retrains := if p.retrains = 0xFFFF then p.retrains else p.retrains + 1 }
/-- The timing port. -/
def State.timingPort (s : State) : Option Nat := (List.range 24).find? fun p => (s.port p).ctl.getLsbD 3
/-- Replays at a port of the bridge: more than 64 in a window retrain it at its own rate (R397). -/
def Port.bridgeReplays (p : Port) (n now : Nat) : Port :=
  let q := { p with rply := p.rply + BitVec.ofNat 32 n, winrpl := min (p.winrpl + n) 0xFFFF }
  if p.winrpl ≤ 64 && 64 < q.winrpl then q.beginTraining q.rate now else q
/-- The bridge ports that carry traffic. -/
def State.bridgeUp (s : State) : List Nat := (List.range 32).filter fun i => let p := rd s.bridge i .reset; p.up && !p.train && !p.held
/-- A message crosses by bridge port i, and is sent again as often as a free value says (R397; log 55). -/
def State.crossBy (s : State) (i : Nat) : State × Nat :=
  let n := Config.pick s.fresh % 3
  ({ s.draw with bridge := wr s.bridge i ((rd s.bridge i .reset).bridgeReplays n s.cyc.toNat) }, n)
/-- Units of 16 bytes of a row or sector. -/
def unitsOf (d : Nat) (n : Nat) : List (BitVec 128) := (List.range n).map (fun i => BitVec.ofNat 128 (d / 2 ^ (128 * i)))

/-- A message from this package (R389). -/
def State.mkMsg (s : State) (cls dst len a : Nat) (b : Nat) (data : List (BitVec 128)) : Msg :=
  { cls := BitVec.ofNat 2 cls, dst := BitVec.ofNat 10 dst, src := BitVec.ofNat 10 (wb s.devid 9 0), len := BitVec.ofNat 4 len
    a := BitVec.ofNat 32 a, b := BitVec.ofNat 64 b, data := data }
/-- The context has a class-0 slot: it is the one that the present slot runs (R378, R401). -/
def State.inClass0 (s : State) (ctx : Option Nat) : Bool := s.slotClass = 0 && s.slotOn && ctx.isSome && ctx = s.curCtx
/-- The traffic class of an access: class 0 for a context in a class-0 slot, else by its sender (R401). -/
def State.classOf (s : State) (who : Party) : Nat :=
  match who with
  | .host | .nm _ => 2
  | .job cl serial =>
    match (s.cluster cl).jobs.find? fun j => j.stamp.serial = serial with
    | some j => if s.inClass0 j.stamp.ctx then 0 else 3
    | none => 3
  | .unit k _ _ | .strm k _ => if s.inClass0 (s.core k).ctx then 0 else 1
  | _ => 1
/-- The operation and message of an access to another package (R390): the tag is the access's number. -/
def State.remoteMsg (s : State) (a : Access) : Nat × Msg :=
  let cls := s.classOf a.who
  let mk := fun (op len extra : Nat) (data : List (BitVec 128)) =>
    (op, s.mkMsg cls (a.pa / 2 ^ 42) len (a.id % 2 ^ 16 + extra * 2 ^ 16) a.pa data)
  match a.op with
  | .read n => mk 2 0 ((n + 15) / 16) []
  | .peer _ _ => mk 2 0 8 []
  | .write d en => if en = BitVec.allOnes 128 then mk 3 8 0 (unitsOf d.toNat 8) else mk 3 9 8 (unitsOf d.toNat 8 ++ [en])
  | .spoil d en => mk 3 9 (8 + 16) (unitsOf d.toNat 8 ++ [en]) -- poisoned data is told by bit 20 (DESIGN CHOICE, log 65)
  | .aop op b exp _ => mk 5 1 op [BitVec.ofNat 128 (b.toNat + exp.toNat * 2 ^ 64)]
  | .rwl op xin => mk 5 1 (0xB + op) [BitVec.ofNat 128 xin.toNat]
  | .hostAtomic op wide b cmp =>
    -- a 32-bit operand is told by bit 20 (DESIGN CHOICE, log 65)
    mk 5 1 ((match op with | 0 => 0x0 | 1 => 0x9 | _ => 0xA) + if wide then 0 else 16) [BitVec.ofNat 128 (b.toNat + cmp.toNat * 2 ^ 64)]
  | .reduce isF d => mk 3 8 (if isF then 1 else 2) (unitsOf d.toNat 8)

/-- The phase that an engine takes part in: that of a core's streams, or of a job that the phase's graph declares (R259). A declared
job is one that its phase's boundary still misses (R367). -/
def State.phaseOf (s : State) : Party → Option (Option Nat × Nat)
  | .unit k _ _ => some ((s.core k).ctx, (s.ctxView (s.core k).ctx).phSeq.toNat)
  | .job cl serial =>
    ((s.cluster cl).jobs.find? fun j => j.stamp.serial = serial &&
      (s.ctxView j.stamp.ctx).bound.any fun b => b.missing.contains (.job cl serial)).map fun j => (j.stamp.ctx, j.seq)
  | _ => none
/-- A new access, sent now. -/
def State.newAccess (s : State) (who : Party) (op : AccOp) (pa : Nat) (dst : List PRef) (pos : Nat) (pc : BitVec 52) (lead : Nat) :
    Access :=
  { id := s.nextId, who := who, op := op, pa := pa, sent := s.cyc.toNat
    inst := match who with | .unit k _ _ => (s.core k).prim.inst | .strm k comp => (s.strm k comp).inst | _ => 0
    lead := lead, ctx := match who with | .unit k _ _ | .strm k _ => (s.core k).ctx | _ => none, grp := match who with | .unit k _ _ => (s.core k).group | _ => none
    phase := s.phaseOf who, shut := none, dst := dst, pos := pos, pc := pc, out := true, done := false, held := false, result := 0, poison := false }
def State.addAccess (s : State) (a : Access) : State := { s with accs := s.accs ++ [a], nextId := s.nextId + 1 }
/-- The access leaves for its home in another package (R390, R400). -/
def State.sendOn (s : State) (a : Access) : State :=
  match s.portFor (a.pa / 2 ^ 42) (a.pa / 64) with
  | some p => s.postMsg p (s.remoteMsg a).1 (s.remoteMsg a).2
  | none => s
/-- The requests of peer streams of a context that their homes have not served are served at once, before its next phase starts
(R259; log 68). -/
def State.servePeers (s : State) (ctx : Option Nat) : State :=
  { s with accs := s.accs.map fun a => match a.op with
      | .peer h r => if a.done || !a.phase.any (fun p => p.1 = ctx) then a
          else { a with done := true, result := (s.core h).spRow r, poison := (s.core h).spBad.contains r }
      | _ => a }
/-- A posted write of the host. -/
def Access.posted (a : Access) : Bool :=
  match a.who, a.op with
  | .host, .write _ _ => true
  | _, _ => false
/-- An access of the host that a posted write before it, not yet performed, keeps from leaving (R493). -/
def State.hostWaits (s : State) (a : Access) : Bool :=
  a.who = .host && s.accs.any fun b => b.posted && !b.done && decide (b.id < a.id)
/-- An access is sent to its home: a queue entry, and a message when another package is the home (R250, R390). -/
def State.send (s : State) (who : Party) (op : AccOp) (pa : Nat) (dst : List PRef := []) (pos : Nat := 0)
    (pc : BitVec 52 := 0) (lead : Nat := 0) : State :=
  let a := s.newAccess who op pa dst pos pc lead
  let wait := !s.ownAddr pa && s.hostWaits a
  let s := s.addAccess { a with out := !wait }
  if s.ownAddr pa || wait then s else s.sendOn a
/-- Accesses of the host whose earlier posted writes have all performed leave now (R493). -/
def State.hostPosts (s : State) : State :=
  s.accs.foldl (fun s a =>
    if a.out || s.hostWaits a then s
    else State.sendOn { s with accs := s.accs.map fun b => if b.id = a.id then { b with out := true } else b } a) s

end Sys2Proof.Machine
end

