-- ==== Sys2Proof/Machine/Audit.lean ====
section
/-!
DEFINITION. Machine/Audit.lean: the audit engine: selection of slices, their logs, signatures, replays and comparison
(R468 to R472), and recovery points (R464). What a replay on another core writes is not run: its signature is a free value
(log 42).
-/
namespace Sys2Proof.Machine

/-- A message in the device-to-host ring: its kind, whose code the manual does not give (log 3), its count, and words
(R496). -/
def State.toHost (s : State) (kind : Nat) (ws : List Word) : State :=
  { s with d2h := s.d2h ++ [Config.freeWord (2 ^ 60 + kind) :: BitVec.ofNat 64 s.d2hCnt :: ws], d2hCnt := s.d2hCnt + 1 }

/-! ### Signatures (R471) -/

/-- A write at the present instant, by slot `slot` of the bundle of instant iss of core k's primary, is one of those that the
signature of the selected slice covers: kind, address, byte enables and data. -/
def State.sign (s : State) (k : CoreId) (iss slot kind addr : Nat) (en : Mask) (d : Row) : State :=
  s.modCore k fun c =>
    if c.audit.any (fun a => a.2 ≤ iss) then
      { c with signs := c.signs ++ [{ slot := slot, addr := addr % 2 ^ 60 + kind * 2 ^ 60, en := en, data := d }] }
    else c

/-! ### Selection and logging (R468, R469) -/

/-- The slice of core k in launch j of phase SEQ is selected. -/
def State.audSelected (s : State) (k : CoreId) (seq j : Nat) : Bool :=
  let n := wb s.audctl 4 0
  n ≠ 0 && wb s.audbase 7 0 ≠ 0 && (chacha8Block (keyWords s.audkey) seq (128 * j + k.val)).toNat % 2 ^ n = 0
/-- Values of n bytes each, the first lowest. -/
def bytesIn (n : Nat) (xs : List Nat) : Nat := xs.foldr (fun x y => x % 2 ^ (8 * n) + y * 2 ^ (8 * n)) 0
/-- The length of a block's register part. -/
def audRegsLen : Nat := 0x5400
/-- The registers that a log holds, in the model's own layout (DESIGN CHOICE, log 42): words, mask registers, latches, rows, the mask
block, g registers and the last-result file. -/
def Core.auditRegs (c : Core) : Nat :=
  let t := c.prim
  let ts := t.t.toList
  let bits := fun (bs : List Bool) => (bs.map (·.toNat)).foldr (fun b x => b + 2 * x) 0
  let words := t.x.toList.map (·.toNat) ++ [bits t.p.toList] ++ ts.map (·.addr.toNat) ++
    ts.map (fun g => g.valid.toNat + 2 * min (t.inst - g.prep) 3) ++ (t.ras.map BitVec.toNat ++ List.replicate 16 0).take 16 ++
    [t.ras.length, c.loop.lc.toNat, c.loop.ec.toNat, c.loop.base.toNat + c.loop.act.toNat * 2 ^ 8, t.axflag.toNat, t.srctr.toNat] ++
    c.srkey.toList.map (·.toNat) ++ [c.mx.bcfg0.toNat, c.mx.bcfg1.toNat, c.mx.mvalid.toNat, bits (c.mx.latch.toList.map fun l => l.half),
      (c.mx.g.toList.map fun g => g.tag.toNat).foldr (fun g x => g + 4 * x) 0]
  let rows := fun (xs : List Row) => bytesIn 128 (xs.map (·.toNat))
  let at' := fun (off x : Nat) => x * 2 ^ (8 * off)
  bytesIn 8 words + at' 0x400 (bytesIn 16 (t.m.toList.map (·.toNat))) + at' 0x800 (bytesIn 64 (c.mx.latch.toList.map (·.bytes.toNat))) +
    at' 0x1000 (rows t.v.toList) + at' 0x2000 (rows t.o.toList) + at' 0x2800 (bytesIn 16 (c.mx.mask.toList.map (·.toNat))) +
    at' 0x3000 (bytesIn 256 (c.mx.g.toList.map fun g => bytesIn 2 (g.vals.toList.map (·.toNat)))) + at' 0x5000 (rows t.j.toList)
/-- A bundle with an LNCH is about to issue in a phase body, while the audit engine selects slices: what its log would hold. -/
def State.auditImage (s : State) (launches : Bool) : State :=
  if !launches || s.focus.2 || s.cur.place ≠ .body || wb s.audctl 4 0 = 0 || wb s.audbase 7 0 = 0 then s
  else s.modCur fun c => { c with atLnch := some { iss := c.prim.inst, regs := c.auditRegs, sp := c.sp, ins := [], res := [] } }
def State.modBlk (s : State) (n : Nat) (f : AudBlk → AudBlk) : State :=
  { s with audblks := s.audblks.map fun b => if b.num = n then f b else b }
/-- The log that a bundle of instant iss of core k's primary belongs to, if any, changes: the block of the slice that runs, or what
stands ready for the slice that its LNCH may start. -/
def State.auditLog (s : State) (k : CoreId) (iss : Nat) (f : AudImage → AudImage) : State :=
  match (s.core k).audit with
  | some (n, from') => if from' ≤ iss then s.modBlk n fun b => { b with log := f b.log } else s
  | none => s.modCore k fun c => { c with atLnch := c.atLnch.map fun a => if a.iss = iss then f a else a }
/-- A row that the primary takes at the present instant is logged. -/
def State.auditIn (s : State) (tag : Nat × Nat) (r : Row) : State :=
  if s.focus.2 then s else s.auditLog s.focus.1 s.me.inst fun a => { a with ins := a.ins ++ [{ iss := s.me.inst, tag := tag, row := r }] }
/-- The tag of an address: the index of the first footprint region that holds it, and the offset in it; 2 ^ 32 - 1 and the address for
one that no region holds, a peer's (R469; DESIGN CHOICE, log 42). -/
def State.auditTag (s : State) (k : CoreId) (va : Nat) : Nat × Nat :=
  let rs := ((s.ctxView (s.core k).ctx).running.bind fun d => d.cores.find? (·.core = k)).elim [] (·.fplist)
  match rs.zipIdx.find? (fun r => r.1.1 ≤ va && va < r.1.1 + r.1.2.1) with
  | some r => (r.2, va - r.1.1)
  | none => (2 ^ 32 - 1, va)
/-- A value that an instruction of core k returns is logged. -/
def State.auditRes (s : State) (k : CoreId) (comp : Bool) (iss slot : Nat) (v : Word) : State :=
  if comp then s else s.auditLog k iss fun a => { a with res := a.res ++ [{ iss := iss, slot := slot, value := v }] }
/-- The bytes of a block: header, registers and scratchpad image, then 144 bytes for each input and 8 for each result (R469). -/
def AudBlk.size (b : AudBlk) : Nat := 256 + audRegsLen + 4 * 2 ^ 20 + 144 * b.log.ins.length + 8 * b.log.res.length
/-- The bytes of the ring that blocks written and not yet compared hold, up to the newest. -/
def State.audUsed (s : State) : Nat :=
  s.audHead - (s.audblks.filterMap fun b => b.spot.map (·.1)).foldl min s.audHead
/-- A block of so many bytes would overflow the ring. -/
def State.audFull (s : State) (size : Nat) : Bool := decide (wb s.audbase 7 0 * 2 ^ 24 < s.audUsed + size)
def State.audDrop (s : State) : State := { s with auddrop := if s.auddrop = 0xFFFF then 0xFFFF else s.auddrop + 1 }
/-- A selected slice starts at c+1: its block is begun, or its selection dropped when the ring has no room. A slice that starts again
after a rewind goes on with its block (R474). -/
def State.auditBegin (s : State) (k : CoreId) (seq j first len recAt recNum iss : Nat) (pc : BitVec 52) : State :=
  let ctx := (s.core k).ctx
  let start := fun (s : State) n => s.modCore k fun c => { c with audit := some (n, iss), stsig := 0, signs := [] }
  match (s.core k).atLnch, s.audSelected k seq j with
  | some a, true =>
    match s.audblks.find? (fun b => b.ctx = ctx && b.seq = seq && b.j = j && b.k = k && b.log.iss = iss) with
    | some b => start (s.modBlk b.num fun b => { b with log := { b.log with ins := a.ins, res := a.res }, ended := false, spot := none, runs := [] }) b.num
    | none =>
      let n := s.audblks.foldl (fun n b => max n (b.num + 1)) 0
      let b : AudBlk := { num := n, ctx := ctx, seq := seq, j := j, k := k, first := first, len := len, recAt := recAt, recNum := recNum, pc := pc
                          log := a, image := false, ended := false, sig := 0, spot := none, runs := [] }
      if s.audFull b.size then s.audDrop else start { s with audblks := s.audblks ++ [b] } n
  | _, _ => s
/-- A block's bytes (R469), in the model's layout (DESIGN CHOICE, log 42): the header's quantities, one to a word but for the launch
record, then the parts. -/
def AudBlk.bytes (b : AudBlk) : Memory :=
  let image := 256 + audRegsLen
  let ins := image + 4 * 2 ^ 20
  let res := ins + 144 * b.log.ins.length
  let head := [b.seq, b.j, b.k.val, b.first, b.len, b.recAt] ++ (List.range 8).map (fun i => b.recNum / 2 ^ (64 * i)) ++
    [b.pc.toNat, b.sig.toNat, 256, image, ins, res, b.log.ins.length, b.log.res.length]
  let rs := b.log.res.mergeSort fun x y => x.iss < y.iss || (x.iss = y.iss && x.slot ≤ y.slot)
  Memory.ofVal 0 256 (bytesIn 8 head) ++ Memory.ofVal 256 audRegsLen b.log.regs ++
    (b.log.sp.filter fun c => decide (c.1 < 4 * 2 ^ 20)).map (fun c => (image + c.1, c.2)) ++
    Memory.ofVal ins (144 * b.log.ins.length) (bytesIn 144 (b.log.ins.map fun i => i.tag.1 % 2 ^ 64 + i.tag.2 % 2 ^ 64 * 2 ^ 64 + i.row.toNat * 2 ^ 128)) ++
    Memory.ofVal res (8 * b.log.res.length) (bytesIn 8 (rs.map (·.value.toNat)))
/-- A block whose slice has ended and whose image is complete is written to the ring at AUDBASE, going on at its start past its end;
one that would overflow the ring is dropped (R469). -/
def State.auditWrite (s : State) (n : Nat) : State :=
  match s.audblks.find? (fun b => b.num = n) with
  | none => s
  | some b =>
    if !b.image || !b.ended || b.spot.isSome then s
    else if s.audFull b.size then { s.audDrop with audblks := s.audblks.filter fun x => x.num ≠ n }
    else
      let ring := wb s.audbase 7 0 * 2 ^ 24
      let base := wb s.audbase 51 24 * 2 ^ 24
      let off := s.audHead % ring
      let low := min b.size (ring - off)
      let s := s.fillBytes (base + off) low b.bytes
      let s := if low = b.size then s
        else s.fillBytes base (b.size - low) ((b.bytes.filter fun c => decide (low ≤ c.1)).map fun c => (c.1 - low, c.2))
      ({ s with audHead := s.audHead + b.size } : State).modBlk n fun x => { x with spot := some (s.audHead, base + off) }
/-- The slice of core k ends as its primary is to issue the bundle at CONT: the log takes the signature (R468, R471). -/
def State.auditEnd (s : State) (k : CoreId) : State :=
  match (s.core k).audit with
  | none => s
  | some (n, _) =>
    if s.focus.2 || (s.core k).slice.isSome then s
    else
      let sig := (s.core k).signAll.stsig
      ((s.modBlk n fun b => { b with ended := true, sig := sig }).modCore k fun c => { c with audit := none, stsig := 0, signs := [] }).auditWrite n
/-- A rewind to the instant `first`: the slice that ran then goes on with its block, which has logged what came before (R474). -/
def State.auditRewind (s : State) (k : CoreId) (first : Nat) : State :=
  match (s.core k).audit with
  | none => s
  | some (n, _) => s.modBlk n fun b =>
    { b with
      log := { b.log with ins := b.log.ins.filter fun i => i.iss < first, res := b.log.res.filter fun r => r.iss < first }
      ended := false, spot := none }
/-- AUDIT_LOG_COPY: the rest of the image of the block that logs core k's slice has been copied (R469). -/
def execAuditLogCopy (k : CoreId) (s : State) : Out :=
  .next (
    let s : State := { s with audblks := s.audblks.map fun b => if b.k = k then { b with image := true } else b }
    (s.audblks.filter fun b => b.k = k).foldl (fun s b => s.auditWrite b.num) s)

/-! ### Replay and comparison (R470, R472) -/

/-- The replay core for a cluster: its lowest core whose array is not offline; a cluster that has none, or is the original
one, gives way to the next. -/
def State.replayCore (s : State) (orig : Nat) : Nat → Nat → Option CoreId
  | 0, _ => none
  | f + 1, c =>
    let cl : ClusterId := ⟨c % 16, by omega⟩
    match ((List.range 8).map (coreIn cl)).find? (fun k => !(s.core k).mx.off) with
    | some k => if c % 16 = orig then s.replayCore orig f (c + 1) else some k
    | none => s.replayCore orig f (c + 1)
/-- AUDIT_REPLAY: in an audit slot, a complete block is replayed on another core; a third run, after a mismatch, in the
cluster after that of the first replay. -/
def execAuditReplay (blk : Nat) (s : State) : Out :=
  .next (
    match s.audblks.find? (fun b => b.num = blk) with
    | none => s
    | some b =>
      let third := b.runs.length = 1 && b.runs.any (fun r => r.2 ≠ b.sig)
      if !s.slotAudit || b.spot.isNone || !(b.runs.isEmpty || third) then s
      else
        let c := match b.runs.head? with | none => b.k.val / 8 + 1 + wb s.audctl 11 8 | some r => r.1.val / 8 + 1
        match s.replayCore (b.k.val / 8) 16 c with
        | none => s
        | some k =>
          (s.modBlk blk fun x => { x with runs := x.runs ++ [(k, Config.freeWord s.fresh)] }).draw)
/-- The suspect cores of three runs that do not all agree: the odd one, or all three. -/
def suspects (a b c : CoreId × Word) : List CoreId :=
  if a.2 = b.2 then [c.1] else if a.2 = c.2 then [b.1] else if b.2 = c.2 then [a.1] else [a.1, b.1, c.1]
/-- AUDIT_COMPARE: equal signatures pass; after a third run the suspects are reported to firmware, and a core that LIM
mismatches name is reported to the host (R472). -/
def execAuditCompare (blk : Nat) (s : State) : Out :=
  .next (
    match s.audblks.find? (fun b => b.num = blk) with
    | none => s
    | some b =>
      let drop := fun (s : State) => { s with audblks := s.audblks.filter fun x => x.num ≠ blk }
      match b.runs with
      | [r] =>
        if r.2 = b.sig then drop (State.logError { s with audpass := s.audpass + 1 } 9 b.k.val 0 0 1 0 0) else s
      | [r, t] =>
        let ks := suspects (b.k, b.sig) r t
        let mask : Word := BitVec.ofNat 64 (ks.foldl (fun m k => m ||| 2 ^ k.val) 0)
        let maskHi : Word := BitVec.ofNat 64 (ks.foldl (fun m k => m ||| 2 ^ k.val) 0 / 2 ^ 64)
        let s := (State.firmware { s with audmis := s.audmis + 1 } 4 b.k.val false 0x78 (BitVec.ofNat 64 (b.spot.elim 0 (·.2))) [mask, maskHi]).logError
          9 b.k.val 0 0x78 1 0 0
        drop (ks.foldl (fun s k =>
          let n := rd s.audNamed k.val 0 + 1
          let s := { s with audNamed := wr s.audNamed k.val n }
          if n = wb s.audctl 23 16 then s.toHost 2 [BitVec.ofNat 64 k.val] else s) s)
      | _ => s)

/-! ### Recovery points (R464) -/

/-- RCVMARK_WRITE: a recovery point is requested (R464). -/
def execRcvmarkWrite (v : Word32) (s : State) : Out := .next { s with rcvReq := v, rcvPend := true }
/-- At the last arrival L of a boundary a pending request takes effect. -/
def State.recoveryPoint (s : State) (l : Nat) : State :=
  if !s.rcvPend then s
  else { s with rcvPend := false, rcvId := s.rcvReq, rcvCyc := BitVec.ofNat 64 l, exposed := [], hostRng := [], hostOvf := false }

end Sys2Proof.Machine
end

