-- ==== Sys2Proof/Machine/Streams.lean ====
section
/-!
DEFINITION. Machine/Streams.lean: stream descriptors and patterns (R230, R231), reads and writes of stream registers
(R232, R237, R242, R243), checks of scratchpad rows (R218, R224, R234, R236), and conflicts of row writes (R28).
-/
namespace Sys2Proof.Machine

/-! ### The descriptor (R230) -/

def dsc (d : BitVec 512) (hi lo : Nat) : Nat := bitsOf d.toNat hi lo
def SUnit.kind (u : SUnit) : Nat := dsc u.desc 2 0
def SUnit.transpose (u : SUnit) : Bool := dsc u.desc 3 3 = 1
def SUnit.esize (u : SUnit) : Nat := 2 ^ dsc u.desc 5 4
def SUnit.startAt (u : SUnit) : Nat := dsc u.desc 35 20
def SUnit.period (u : SUnit) : Nat := dsc u.desc 43 36
def SUnit.ringRows (u : SUnit) : Nat := 2 ^ dsc u.desc 47 44
def SUnit.home (u : SUnit) : Nat := dsc u.desc 50 48
def SUnit.redOp (u : SUnit) : Nat := dsc u.desc 53 51
def SUnit.baseAddr (u : SUnit) : Nat := dsc u.desc 127 64
def SUnit.ringAddr (u : SUnit) : Nat := dsc u.desc 191 128
def SUnit.countOf (u : SUnit) (i : Nat) : Nat := dsc u.desc (192 + 16 * i + 15) (192 + 16 * i)
def SUnit.strideOf (u : SUnit) (i : Nat) : Int := sextNat 32 (dsc u.desc (256 + 32 * i + 31) (256 + 32 * i))
def SUnit.isRead (u : SUnit) : Bool := u.kind = 0 || u.kind = 2 || u.kind = 3
def SUnit.isRing (u : SUnit) : Bool := 2 ≤ u.kind
/-- LEAD, with the 1,024 that a global stream of LEAD 0 uses (R235). -/
def SUnit.lead (u : SUnit) : Nat := if 3 ≤ u.kind ∧ dsc u.desc 19 8 = 0 then 1024 else dsc u.desc 19 8
/-- The positions of the pattern (R231). -/
def SUnit.total (u : SUnit) : Nat := u.countOf 0 * u.countOf 1 * u.countOf 2 * u.countOf 3
/-- The row address of position p (R231). -/
def SUnit.addr (u : SUnit) (p : Nat) : Nat :=
  let i0 := p % u.countOf 0
  let p1 := p / u.countOf 0
  let i1 := p1 % u.countOf 1
  let p2 := p1 / u.countOf 1
  let i2 := p2 % u.countOf 2
  let i3 := p2 / u.countOf 2
  (((u.baseAddr : Int) + i0 * u.strideOf 0 + i1 * u.strideOf 1 + i2 * u.strideOf 2 + i3 * u.strideOf 3) % (2 ^ 64 : Nat)).toNat
/-- The due instant of position p (R231). -/
def SUnit.due (u : SUnit) (p : Nat) : Nat := u.start + u.startAt + p * u.period
/-- Positions of a transposed group (R236). -/
def SUnit.groupSize (u : SUnit) : Nat := 128 / u.esize
/-- The ring row of position p. -/
def SUnit.ringRow (u : SUnit) (p : Nat) : Nat := u.ringAddr / 128 + p % u.ringRows
def Core.unit (c : Core) (k : Nat) : SUnit := rd c.q k .reset
def Core.modUnit (c : Core) (k : Nat) (f : SUnit → SUnit) : Core := { c with q := wr c.q k (f (c.unit k)) }
/-- The unit that a bundle of instant iss wrote through q k: the one now bound, or one freed since (R241). -/
def Core.unitAt (c : Core) (k iss : Nat) : SUnit :=
  ((c.oldUnits.find? fun o => o.1 = k && iss < o.2.1).map fun o => o.2.2).getD (c.unit k)
/-- TRAPINFO of a cause that position p meets: its address, or for BUF_OWNER that of the row touched, which is its ring row when the
row could not land; for poison the instant at which it was asked for, which `State.meet` takes (R224, R232, R236). -/
def SUnit.info (u : SUnit) (p cause : Nat) : Word :=
  BitVec.ofNat 64 (
    if cause = 0x27 then
      if u.transpose then u.due (p / u.groupSize * u.groupSize) + 1 - u.lead - u.groupSize / 4 else u.due p - u.lead
    else if cause = 0x21 then (if u.isRing && u.isRead && !u.landed.any (fun l => l.1 = p) then u.ringRow p else u.addr p / 128) * 128
    else u.addr p)

/-! ### Rows that a stream reserves (R234, R236) -/

/-- The row lies in the landing ring of a stream other than `but`. -/
def Core.ringHolds (c : Core) (row : Nat) (but : Option Nat) : Bool :=
  ((List.range 8).any fun k =>
    let u := c.unit k
    u.bound && u.isRing && some k ≠ but &&
      u.ringAddr / 128 ≤ row && row < u.ringAddr / 128 + u.ringRows) ||
    c.oldRings.any fun r => r.base ≤ row && row < r.base + r.rows
/-- The row was reserved before stream q was bound: it lies in the ring of a stream bound earlier, or of one whose rows are still
on their way, and q may not touch it (R234). -/
def Core.reservedFrom (c : Core) (row q : Nat) : Bool :=
  ((List.range 8).any fun k =>
    let u := c.unit k
    u.bound && u.isRing && k ≠ q && u.start < (c.unit q).start &&
      u.ringAddr / 128 ≤ row && row < u.ringAddr / 128 + u.ringRows) ||
    c.oldRings.any fun r => r.base ≤ row && row < r.base + r.rows
/-- The row is a source of the group that the transposer holds (R236). -/
def Core.transposerHolds (c : Core) (row : Nat) : Bool :=
  (List.range 8).any fun k =>
    let u := c.unit k
    match u.group with
    | none => false
    | some (g, _) => u.bound && u.transpose && u.next < (g + 1) * u.groupSize &&
        (List.range u.groupSize).any (fun j => u.addr (g * u.groupSize + j) / 128 = row)
/-- A load of a row: the lowest cause that forbids it (R218, R224, R234). -/
def State.loadCause (s : State) (k : CoreId) (a : Nat) : Option Nat :=
  if 0x40_0000 ≤ a then some 0x20
  else if !s.homeReads k (a / 128) then some 0x21
  else if (s.core k).ringHolds (a / 128) none then some 0x23
  else none
/-- A write of a row by an instruction, a drain or a stream (R218, R224, R234, R236). -/
def State.storeCause (s : State) (k : CoreId) (a : Nat) (but : Option Nat) : Option Nat :=
  if 0x40_0000 ≤ a then some 0x20
  else if !s.homeWrites k (a / 128) then some 0x21
  else if (s.core k).ringHolds (a / 128) but || (s.core k).transposerHolds (a / 128) then some 0x23
  else none

/-! ### Conflicts of row writes (R28, R84) -/

/-- The byte addresses at which an entry in flight will write rows of the scratchpad, and when. -/
def Pend.rowWrites (c : Core) (e : Pend) : List (Nat × Nat) :=
  let ofDst : VDst → Nat → List (Nat × Nat)
    | .q k pos, t => if (c.unitAt k e.iss).kind = 1 then [((c.unitAt k e.iss).addr pos, t)] else []
    | _, _ => []
  match e.eff with
  | .rowWrite a _ _ _ => [(a, e.due)]
  | .vec d _ _ _ => ofDst d e.due
  | .vop op _ _ => ofDst op.dst (e.due + vLatency op.stage op.kind op.t)
  | .drain o => if o.uncorr then [] else if o.dkind = 1 then o.rows.map (fun r => (r * 128, e.due)) else
      if o.dkind = 0 then (List.range o.data.length).flatMap (fun i => ofDst (.q o.dnum (o.pos + i)) e.due) else []
  | _ => []
/-- Whether a stream of the core writes the row in the n-th unfrozen cycle from wall cycle `now`. A primary that a trap has stopped
writes nothing until its group goes on (R171). -/
def Core.writesRow (c : Core) (now : Nat) (comp : Bool) (row n : Nat) : Bool :=
  let t := c.strm comp
  t.pend.any fun e => (e.rowWrites c).any fun w => w.1 / 128 = row ∧
    if comp ∨ t.run ≠ .trapped then w.2 = t.inst + n else c.goAt.any fun g => g + w.2 = now + n + t.inst + 1
/-- The companion's store loses to the primary's write of the same cycle: suppressed, with the trap, which reports the store's
own byte address (R28, R169). -/
def State.dropCompStore (s : State) (k : CoreId) (row n : Nat) : State :=
  let c := s.core k
  let at' := fun (e : Pend) => (e.rowWrites c).find? fun w => w.1 / 128 = row ∧ w.2 = c.comp.inst + n
  let hit := fun (e : Pend) => (at' e).isSome
  match c.comp.pend.find? hit with
  | none => s
  | some e =>
    let s := s.modStrm k true fun t => { t with pend := t.pend.filter (fun e => !hit e) }
    let info := BitVec.ofNat 64 ((at' e).elim 0 (·.1))
    if e.iss = c.comp.inst ∧ e.pc = c.comp.pc then s.takeTrap k true 1 0x29 e.slot e.pc c.comp.npc info
    else s.takeTrap k true 1 0x29 e.slot c.comp.last c.comp.pc info
/-- A row write at address a that performs n instants after the present bundle, with the conflict rule of R28: the
answer says whether the present slot's write stands. -/
def State.claimRow (s : State) (slot a n : Nat) : State × Bool :=
  let k := s.focus.1
  let c := s.core k
  let row := a / 128
  let info := BitVec.ofNat 64 a
  if c.writesRow s.cyc.toNat s.focus.2 row n then (s.execTrap 0x29 slot info, false)
  else if c.writesRow s.cyc.toNat (!s.focus.2) row n then
    if s.focus.2 then (s.execTrap 0x29 slot info, false) else (s.dropCompStore k row n, true)
  else (s, true)

/-! ### Reads of a stream register (R71, R232) -/

/-- The position that a read of q k at the present instant takes: one for all reads of one bundle (R71). -/
def State.readPos (s : State) (k : Nat) : Nat :=
  let u := s.cur.unit k
  if u.took = s.me.inst + 1 then u.next - 1 else u.next
/-- The cause that a read of q k meets: unbound, exhausted, not due, failed, or what its fill brought (R232, R239,
R243); none when a good row stands in staging. -/
def State.readCause (s : State) (k : Nat) : Option (Nat × Word) :=
  let u := s.cur.unit k
  let p := s.readPos k
  if !u.bound || !u.isRead || u.total ≤ p then some (0x23, BitVec.ofNat 64 u.baseAddr)
  else if s.me.inst < u.due p then some (0x23, BitVec.ofNat 64 (u.addr p))
  else match u.lost.find? (fun l => l.1 = p) with
    | some l => some (l.2, u.info p l.2)
    | none => match u.stage.find? (fun r => r.pos = p) with
      | none => none
      | some r => if r.bad = 0 then none else some (r.bad, u.info p r.bad)
/-- The row is due and stands neither in staging nor among the failed positions: the core freezes (R36), and the
bundle does not issue. -/
def State.readMissing (s : State) (k : Nat) : Bool :=
  let u := s.cur.unit k
  let p := s.readPos k
  u.bound && u.isRead && decide (p < u.total) && decide (u.due p ≤ s.me.inst) &&
    !u.lost.any (fun l => l.1 = p) && !u.stage.any (fun r => r.pos = p)
/-- The row that a read of q k delivers. -/
def State.readRow (s : State) (k : Nat) : Row :=
  match (s.cur.unit k).stage.find? (fun r => r.pos = s.readPos k) with
  | some r => r.row
  | none => 0
/-- The position is consumed once the bundle issues, one that is not yet due too (R71, R232); past the end there is none. -/
def State.consumeQ (s : State) (k : Nat) : State :=
  let u := s.cur.unit k
  if u.took = s.me.inst + 1 || !u.bound || !u.isRead || u.total ≤ u.next then s
  else
    let s := match (if u.kind = 2 ∨ u.kind = 3 then u.stage.find? (fun r => r.pos = u.next && r.bad = 0) else none) with
      | some r => s.auditIn (s.auditTag s.focus.1 (u.addr u.next)) r.row
      | none => s
    s.modCur fun c => c.modUnit k fun u => { u with next := u.next + 1, took := s.me.inst + 1 }

/-! ### Writes of a stream register (R237) -/

/-- The open segment was opened before the bundle of instant iss issued, so that its rows belong to it (R455). -/
def Core.inSegment (c : Core) (iss : Nat) : Bool := c.seg.isOpen && decide (c.seg.s0 ≤ iss)
/-- A row that lands now, of a bundle of instant iss, was sent before a rewind and is not sent again (R455). -/
def Core.alreadySent (c : Core) (iss : Nat) : Bool := !c.inSegment iss && decide (c.prim.inst ≤ c.seg.sent)
/-- Rows that an entry in flight will bring to the egress buffer. -/
def Pend.egress (c : Core) (e : Pend) : Nat :=
  if !c.inSegment e.iss then 0 else
  let ofDst : VDst → Nat | .q k _ => if (c.unitAt k e.iss).kind = 4 then 1 else 0 | _ => 0
  match e.eff with
  | .vec d _ _ _ => ofDst d
  | .vop op _ _ => ofDst op.dst
  | .drain o => if o.dkind = 2 ∨ (o.dkind = 0 ∧ (c.unitAt o.dnum e.iss).kind = 4) then o.data.length else 0
  | _ => 0
/-- Rows held and due to the egress buffer (R456). -/
def State.egressDue (s : State) : Nat :=
  s.me.pend.foldl (fun n e => n + e.egress s.cur) s.cur.seg.held.length
/-- The cause that a write of q k by the present slot meets at its issue (R237, R243). -/
def State.writeCause (s : State) (k n : Nat) : Option (Nat × Word) :=
  let u := s.cur.unit k
  if !u.bound || u.isRead || u.total < u.next + n then some (0x23, BitVec.ofNat 64 (if u.total ≤ u.next then u.baseAddr else u.addr u.next))
  else if u.kind = 1 then
    ((List.range n).filterMap (fun i => (s.storeCause s.focus.1 (u.addr (u.next + i)) none).map
      (fun c => (c, u.info (u.next + i) c)))).head?
  else
    ((List.range n).filterMap (fun i =>
      let row := u.ringRow (u.next + i)
      if !s.homeWrites s.focus.1 row then some (0x21, BitVec.ofNat 64 (row * 128))
      else if s.cur.reservedFrom row k then some (0x23, u.info (u.next + i) 0x23)
      else match s.timedXlate s.focus.1 (u.addr (u.next + i) / 128 * 128) 2 with
        | .error c => some (c, u.info (u.next + i) c)
        | .ok _ => none)).head?
/-- n positions of q k are allotted to the present slot; the answer is the first. -/
def State.allotQ (s : State) (k n : Nat) : State × Nat :=
  let u := s.cur.unit k
  (s.modCur fun c => c.modUnit k fun u => { u with next := u.next + n }, u.next)

/-! ### Poison consumed at issue (R84, R459) -/

/-- The access of the given instant came before the segment's opening, so its snapshot carries what it brings (R459). -/
def Core.carries (c : Core) (since : Nat) : Bool :=
  match c.seg.snap with
  | some sn => decide (since + 1 < sn.inst)
  | none => false
/-- A primary in a phase body that consumes poison asks for a replay; any other stream traps (R84, R221). The bundle at pc was
issued at the instant iss, and the access that brings the poison was made at the instant `since`. -/
def State.poisonAt (s : State) (k : CoreId) (comp : Bool) (slot iss since : Nat) (pc : BitVec 52) : State :=
  if !comp ∧ (s.core k).place = .body then
    { s with agenda := s.agenda ++
        [.freezeAnnounce k .replay (slot + 8 * ((s.core k).carries since).toNat + 16 * pc.toNat + 2 ^ 56 * iss)] }
  else s.deferTrap k comp iss 0x27 slot (pc.setWidth 64)
/-- A slot meets a cause: poison, whose information is the instant of the request, or an execution-class trap. -/
def State.meet (s : State) (slot : Nat) (c : Nat × Word) : State :=
  if c.1 = 0x27 then s.poisonAt s.focus.1 s.focus.2 slot s.me.inst c.2.toNat s.me.pc else s.execTrap c.1 slot c.2

end Sys2Proof.Machine
end

