-- ==== Sys2Proof/Machine/Matrix.lean ====
section
/-!
DEFINITION. Machine/Matrix.lean: the arithmetic of the matrix array (07; R115 to R129): alignment, residue channels,
beats, drains and what they deliver. No state outside the array is read here.
-/
namespace Sys2Proof.Machine

/-! ### Slices (R118, R119) -/

/-- An exact value m · 2^e. -/
abbrev Exact := Int × Int
/-- round_rne(m · 2^e) as an integer (R114). -/
def rneInt (x : Exact) : Int :=
  if 0 ≤ x.2 then x.1 * (2 ^ x.2.toNat : Nat)
  else
    let q := (roundInt (.mode .rne) (x.1 < 0) x.1.natAbs x.2).1
    if x.1 < 0 then -(q : Int) else q
/-- The exact value of a finite float; none for an infinity or a NaN. -/
def FVal.exact : FVal → Option Exact
  | .nan _ => none
  | .inf _ => none
  | .zero _ => some (0, 0)
  | .fin neg m e => some (if neg then -(m : Int) else m, e)
/-- align_slice of R119: the aligned integer, or none where ok is false. -/
def alignSlice (x : Exact) (e : Int) (F : Nat) : Option Int :=
  let a := rneInt (x.1, x.2 + F - e)
  if a.natAbs ≤ 2 ^ (F + 1) - 1 then some a else none

/-- slice_split of R119: slice k of n, the most significant first. -/
def sliceSplit (n : Nat) (a : Int) (k : Nat) : Int :=
  let step := fun (a : Int) =>
    let d := a % 2048
    (a - (if d ≥ 1024 then d - 2048 else d)) / 2048
  let at' := (List.range (n - 1 - k)).foldl (fun a _ => step a) a
  if k = 0 then at' else
    let d := at' % 2048
    if d ≥ 1024 then d - 2048 else d

/-! ### Formats (R79, R275) -/

inductive Side where
  | int8 | uint8g | uint4g | fp (f : FFmt) | slice
  deriving DecidableEq, Repr
def XFmt.sides : XFmt → Side × Side
  | .i8i8 => (.int8, .int8)
  | .f16f16 => (.fp .f16, .fp .f16)
  | .bf16bf16 => (.fp .bf16, .fp .bf16)
  | .f16u4 => (.fp .f16, .uint4g)
  | .bf16u4 => (.fp .bf16, .uint4g)
  | .i8u4 => (.int8, .uint4g)
  | .slice => (.slice, .slice)
  | .i8u8 => (.int8, .uint8g)
/-- The worst-case product of a beat (R129). -/
def XFmt.bound : XFmt → Nat
  | .i8i8 => 16384
  | .f16f16 => 4190209
  | .bf16bf16 => 4161600
  | .f16u4 => 4190209
  | .bf16u4 => 4175880
  | .i8u4 => 262016
  | .slice => 1048576
  | .i8u8 => 262016
def Side.wide : Side → Bool
  | .fp _ | .slice => true
  | _ => false
/-- The side is aligned to an exponent register (R278). -/
def Side.aligned : Side → Bool
  | .int8 | .slice => false
  | _ => true

/-! ### Bank configuration (R270) -/

def bcDstride (w : Word) : Nat := wb w 55 46
def bcDbase (w : Word) : Nat := wb w 45 31
def bcGzp (w : Word) : Nat := wb w 29 25
def bcGsc (w : Word) : Nat := wb w 24 20
def bcGeb (w : Word) : Nat := wb w 19 15
def bcGea (w : Word) : Nat := wb w 14 10
def bcFp64 (w : Word) : Bool := w.getLsbD 9
def bcMask (w : Word) : Bool := w.getLsbD 8
def bcDnum (w : Word) : Nat := wb w 7 5
def bcDkind (w : Word) : Nat := wb w 4 3
def bcOfmt (w : Word) : Nat := wb w 2 0
/-- n of the slice format (R288). -/
def bcSlices (w : Word) : Nat := if bcFp64 w then 5 else 3
def bcFrac (w : Word) : Nat := if bcFp64 w then 53 else 31
/-- XCFG's checks (R271). -/
def bcBad (w : Word) : Bool :=
  wb w 63 56 ≠ 0 || w.getLsbD 30 || wb w 4 3 = 3 || 4 < wb w 2 0 || (w.getLsbD 8 && wb w 2 0 = 4)
/-- Bytes of an element, and scratchpad rows of a drained row (R285). -/
def ofmtBytes (o : Nat) : Nat := if o = 0 then 4 else if o = 1 ∨ o = 2 then 2 else 8
def ofmtRows (o : Nat) : Nat := ofmtBytes o
def ofmtFloat (o : Nat) : FFmt := if o = 0 then .f32 else if o = 1 then .bf16 else if o = 2 then .f16 else .f64

def Matrix.bank (x : Matrix) (b : Bool) : Bank := if b then x.z1 else x.z0
def Matrix.setBank (x : Matrix) (b : Bool) (z : Bank) : Matrix := if b then { x with z1 := z } else { x with z0 := z }
def Matrix.modBank (x : Matrix) (b : Bool) (f : Bank → Bank) : Matrix := x.setBank b (f (x.bank b))
def Matrix.cfg (x : Matrix) (b : Bool) : Word := if b then x.bcfg1 else x.bcfg0
def Matrix.greg (x : Matrix) (n : Nat) : GRegister := rd x.g n { vals := Vector.replicate 128 0, tag := 0 }
def GRegister.entry (g : GRegister) (n : Nat) : Nat := (rd g.vals n 0).toNat
def GRegister.exp (g : GRegister) (n : Nat) : Int := sextNat 16 (g.entry n)
/-- The bank just accumulated or cleared is the active one (R268). -/
def Matrix.activate (x : Matrix) (b : Bool) : Matrix :=
  { x with z0 := { x.z0 with act := !b }, z1 := { x.z1 with act := b } }

/-! ### Feeds (R275 to R278) -/

/-- One element: its slice and special bit; none for X_FORMAT. -/
def elemSlice (x : Matrix) (w : Word) (eReg : Nat) (sd : Side) (raw n : Nat) : Option (Int × Bool) :=
  let e := (x.greg eReg).exp n
  match sd with
  | .int8 => some (sextNat 8 raw, false)
  | .slice =>
    let v := sextNat 16 raw
    if -1024 ≤ v ∧ v ≤ 1024 then some (v, false) else none
  | .fp f =>
    match FVal.exact (f.decode raw) with
    | none => some (0, true)
    | some v => (alignSlice v e 10).map (fun a => (a, false))
  | .uint4g | .uint8g =>
    let z := (x.greg (bcGzp w)).entry n
    if sd = .uint4g ∧ 15 < z then none
    else match FVal.exact (FFmt.f16.decode ((x.greg (bcGsc w)).entry n)) with
      | none => none
      | some s => (alignSlice (s.1 * ((raw : Int) - z), s.2) e 10).map (fun a => (a, false))
/-- The tags a side needs, and the zero points that a UINT4g side allows (R278). -/
def tagsOk (x : Matrix) (w : Word) (eReg : Nat) (sd : Side) : Bool :=
  match sd with
  | .int8 | .slice => true
  | .fp _ => (x.greg eReg).tag = 3
  | sd => (x.greg eReg).tag = 3 && (x.greg (bcGsc w)).tag = 1 && (x.greg (bcGzp w)).tag = 2 &&
      (sd ≠ .uint4g || (List.range 128).all fun n => (x.greg (bcGzp w)).entry n ≤ 15)
/-- The raw elements of a side: from one row, two rows, or 64 bytes of nibbles. -/
def rawElems (sd : Side) (r0 r1 : Row) (nib : BitVec 512) : List Nat :=
  (List.range 128).map fun n =>
    match sd with
    | .int8 | .uint8g => lane 8 r0 n
    | .uint4g => nib.toNat / 2 ^ (4 * n) % 16
    | _ => if n < 64 then lane 16 r0 n else lane 16 r1 (n - 64)
def feedOf (x : Matrix) (w : Word) (eReg : Nat) (sd : Side) (raws : List Nat) : Option Feed :=
  if !tagsOk x w eReg sd then none
  else
    let es := raws.zipIdx.map (fun p => elemSlice x w eReg sd p.1 p.2)
    if es.any Option.isNone then none
    else
      let vs := es.filterMap id
      some { sl := vs.map (fun v => v.1), spec := BitVec.ofNat 128 (packLanes 1 (vs.map (fun v => v.2.toNat))) }

/-! ### Residue channels (R124 to R127) -/

def modulus (k : Nat) : Nat := [241, 239, 233, 229, 227, 251, 256].getD k 256
def residueOf (cell : BitVec 56) (k : Nat) : Nat := cell.toNat / 2 ^ (8 * k) % 256
def packRes (rs : List Nat) : BitVec 56 := BitVec.ofNat 56 (packLanes 8 rs)
/-- The residues of an integer. -/
def residues (v : Int) : BitVec 56 := packRes ((List.range 7).map (fun k => (v % modulus k).toNat))
/-- The cell after one product is added (R125). -/
def cellAdd (c : BitVec 56) (a b : Int) : BitVec 56 :=
  packRes ((List.range 7).map (fun k =>
    (residueOf c k + (a % modulus k).toNat * (b % modulus k).toNat) % modulus k))
def modInv (a m : Nat) : Nat := ((List.range m).find? (fun x => a * x % m = 1 % m)).getD 0
/-- crt_decode of R126 over a list of channels. -/
def crtDecode (cell : BitVec 56) (chs : List Nat) : Int :=
  let p := chs.foldl (fun p k => p * modulus k) 1
  let x := chs.foldl (fun x k =>
    let pk := p / modulus k
    x + residueOf cell k * pk * modInv (pk % modulus k) (modulus k)) 0 % p
  if (p - 1) / 2 < x then (x : Int) - p else x
def agrees (v : Int) (cell : BitVec 56) (k : Nat) : Bool := (v % modulus k).toNat = residueOf cell k
/-- The status of rrns_check (R127). -/
inductive RnsRes where
  | ok (v : Int) | corrected (v : Int) (ch : Nat) | uncorr
  deriving DecidableEq, Repr
def RnsRes.value : RnsRes → Int
  | .ok v => v | .corrected v _ => v | .uncorr => 0
/-- rrns_check of R127. -/
def rrnsCheck (cell : BitVec 56) (ret : Option Nat) : RnsRes :=
  match ret with
  | none =>
    let x := crtDecode cell [0, 1, 2, 3, 4]
    if agrees x cell 5 && agrees x cell 6 then .ok x
    else
      let hits := (List.range 7).filterMap (fun k =>
        let chs := ((List.range 6).filter (· ≠ k)).take 5
        let y := crtDecode cell chs
        if y.natAbs ≤ hact none && ((List.range 7).filter (· ≠ k)).all (agrees y cell) then some (y, k) else none)
      match hits with
      | [h] => .corrected h.1 h.2
      | _ => .uncorr
  | some f =>
    let chs := if f ≤ 4 then (List.range 6).filter (· ≠ f) else [0, 1, 2, 3, 4]
    let x := crtDecode cell chs
    if agrees x cell (if f = 6 then 5 else 6) then .ok x else .uncorr

/-! ### Beats (R279) -/

def zeroRow : MRow := { cells := Vector.replicate 128 0, spec := 0 }
def Bank.clear (z : Bank) : Bank := { z with rows := Vector.replicate 128 zeroRow }
/-- One array row after a beat: a and its special bit from the A side. -/
def MRow.beat (r : MRow) (a : Int) (sa : Bool) (fb : Feed) : MRow :=
  { cells := Vector.ofFn (fun n => cellAdd (rd r.cells n.val 0) a (fb.sl.getD n.val 0))
    spec := if sa then BitVec.allOnes 128 else r.spec ||| fb.spec }
/-- The update of a beat at c+4. -/
def Bank.beat (z : Bank) (clear : Bool) (fa fb : Feed) : Bank :=
  let z := if clear then z.clear else z
  { z with rows := Vector.ofFn (fun i =>
      MRow.beat (rd z.rows i.val zeroRow) (fa.sl.getD i.val 0) (fa.spec.getLsbD i.val) fb) }

/-! ### Drains (R283 to R293) -/

/-- The shift of R283, row 127 being given. -/
def Bank.shift (z : Bank) (last : MRow) : Bank :=
  { z with rows := Vector.ofFn (fun i => if i.val = 127 then last else rd z.rows (i.val + 1) zeroRow) }
def Bank.edge (z : Bank) : MRow := rd z.rows 0 zeroRow
/-- The decoded edge row. -/
def decodeRow (r : MRow) (ret : Option Nat) : List RnsRes := (List.range 128).map (fun n => rrnsCheck (rd r.cells n 0) ret)
def anyUncorr (rs : List RnsRes) : Bool := rs.any (· = .uncorr)
/-- The channels corrected in the row (R294). -/
def correctedChs (rs : List RnsRes) : List Nat :=
  (List.range 7).filter (fun k => rs.any (fun r => match r with | .corrected _ c => c = k | _ => false))
/-- Chunk w of a cell (R290). -/
def chunkOf (c : BitVec 56) (w : Nat) : Nat := c.toNat / 2 ^ (11 * (w - 1)) % 2048
def setChunk (c : BitVec 56) (w rr : Nat) : BitVec 56 :=
  BitVec.ofNat 56 (c.toNat - chunkOf c w * 2 ^ (11 * (w - 1)) + rr * 2 ^ (11 * (w - 1)))
/-- round_to of an exact value (R108, R114); zero is +0. -/
def roundExact (f : FFmt) (v : Exact) : FRes := roundVal f (.mode .rne) (.ofInt v.1 v.2 false)

/-- The value a cell delivers (R284, R287): OFMT, masked, special, S or the scaled sum. -/
def deliver (ofmt : Nat) (masked spec : Bool) (v : Exact) : FRes :=
  if ofmt = 4 then
    if spec then ⟨2 ^ 63, Causes.invalid⟩ else ⟨intBits 64 v.1, 0⟩
  else
    let f := ofmtFloat ofmt
    if masked then f.infRes true
    else if spec then f.nanRes Causes.invalid
    else roundExact f v

/-- What a drain of bank b delivers at d (R284, R291): elements by column, from the decoded row. -/
def drainElems (x : Matrix) (b : Bool) (rs : List RnsRes) (final : Bool) : List FRes :=
  let z := x.bank b
  let w := x.cfg b
  let other := x.bank (!b)
  let sides := XFmt.sides z.bfmt
  let row := z.drow
  let n := bcSlices w
  let edge := z.edge
  let mrow := rd x.mask row 0
  let chunkRow := rd other.rows row zeroRow
  let epsA : Int := if final then (x.greg (bcGea w)).exp row - bcFrac w
    else if sides.1.aligned then (x.greg (bcGea w)).exp row - 10 else 0
  (List.range 128).map fun c =>
    let s := (rs.getD c .uncorr).value
    let epsB : Int := if final then (x.greg (bcGeb w)).exp c - bcFrac w
      else if sides.2.aligned then (x.greg (bcGeb w)).exp c - 10 else 0
    let masked := bcMask w && !mrow.getLsbD c
    let v : Exact :=
      if bcOfmt w = 4 then (s, 0)
      else if final then
        let u := s * (2 ^ (11 * (n - 1)) : Nat) + ((List.range n).foldl (fun acc k =>
          if k = 0 then acc else acc + chunkOf (rd chunkRow.cells c 0) k * 2 ^ (11 * (n - 1 - k))) 0 : Nat)
        (u * (2 ^ (11 * (n - 1)) : Nat), epsA + epsB)
      else (s, epsA + epsB)
    deliver (bcOfmt w) masked (edge.spec.getLsbD c) v
/-- The k rows of a drained row (R285). -/
def drainRows (ofmt : Nat) (es : List FRes) : List Row :=
  let k := ofmtRows ofmt
  let per := 128 / k
  (List.range k).map fun t => BitVec.ofNat 1024 (packLanes (8 * k) (((es.drop (per * t)).take per).map (fun e => e.bits)))

/-- The array row that a carry drain rewrites in the other bank, and the carried edge row (R290). -/
def carryRows (x : Matrix) (b : Bool) (rs : List RnsRes) : MRow × MRow :=
  let z := x.bank b
  let lvl := z.slev
  let old := rd (x.bank (!b)).rows z.drow zeroRow
  let t := fun n => (rs.getD n .uncorr).value
  ({ old with cells := Vector.ofFn (fun n => setChunk (rd old.cells n.val 0) lvl (t n.val % 2048).toNat) },
   { cells := Vector.ofFn (fun n => residues (t n.val / 2048)), spec := 0 })

/-- The status of R283 after a drain's shift. -/
def Bank.drained (z : Bank) (clear : Bool) : Bank :=
  let run := if clear then min (z.clrrun + 1) 128 else 0
  { z with drow := (z.drow + 1) % 128, clrrun := run, mtr := if run = 128 then 0 else z.mtr }

/-- XCFG at c+2: the bank's word, and every half bit 0 (R271, R277). -/
def Matrix.configured (x : Matrix) (bank : Bool) (w : Word) : Matrix :=
  let x := { x with latch := x.latch.map fun (l : Latch) => ({ l with half := false } : Latch) }
  if bank then { x with bcfg1 := w } else { x with bcfg0 := w }
/-- A drain's effect on the channel state at d+9 (R294 to R296). Of several channels corrected in one row, LCH names the highest;
a drain with which both one CHk and UCNT reach the limit takes a full core offline (log 59). -/
def Matrix.account (x : Matrix) (corr : List Nat) (uncorr : Bool) : Matrix :=
  let ch := corr.foldl (fun c k => wr c k (min (rd c k 0 + 1) 255)) x.ch
  let u := if uncorr then min (x.ucnt + 1) 255 else x.ucnt
  let x := { x with ch := ch, ucnt := u, lch := match corr.getLast? with | some k => some k | none => x.lch }
  let lim := x.rnslim.toNat
  if lim = 0 ∨ x.off then x
  else
    let hit := corr.filter (fun k => lim ≤ rd ch k 0)
    if x.ret.isSome then (if uncorr ∧ lim ≤ u then { x with off := true } else x)
    else if 2 ≤ hit.length ∨ (uncorr ∧ lim ≤ u) then { x with off := true }
    else match hit with
      | [k] => { x with ret := some k, ucnt := 0 }
      | _ => x

/-- scale_byte_to_f16 (R116). -/
def scaleByte (b : Nat) : Nat := b % 256 * 256
/-- GLS (R273): the new entries, or the lowest failing column. -/
def glsDecode (g : GRegister) (first : Bool) (va vb : Row) : Except Nat (List Nat) :=
  (List.range 128).foldl (fun acc n =>
    match acc with
    | .error e => .error e
    | .ok l =>
      let code := lane 4 va n
      let b : Option Int :=
        if code = 8 then some (lane 8 vb n)
        else if first then none
        else
          let v := (g.entry n / 256 : Nat) + sextNat 4 code
          if v < 0 ∨ 255 < v then none else some v
      match b with
      | none => .error n
      | some v => if v.toNat / 4 % 32 = 31 then .error n else .ok (l ++ [scaleByte v.toNat])) (.ok [])

end Sys2Proof.Machine
end

