-- ==== Sys2Proof/Machine/Issue.lean ====
section
/-!
DEFINITION. Machine/Issue.lean: what stands between a slot and its effect: the issue-class causes (R84, R85), the
waits of R67, and the guard (R60, R62).
-/
namespace Sys2Proof.Machine

/-! ### Tile-queue endpoints as sources and destinations (R409 to R414, R458) -/

def Core.tqAt (c : Core) (k : Nat) : Endpoint := rd c.tq k .reset
def Core.modTq (c : Core) (k : Nat) (f : Endpoint → Endpoint) : Core := { c with tq := wr c.tq k (f (c.tqAt k)) }
def Endpoint.outbound (e : Endpoint) : Bool := e.bind.getLsbD 30
def Endpoint.readable (e : Endpoint) : Bool := e.bound && !e.outbound && !e.flush
def Endpoint.writable (e : Endpoint) : Bool := e.bound && e.outbound && !e.flush
/-- The rows of the ingress log that a replay has still to serve to an endpoint (R458). -/
def Core.logged (c : Core) (k : Nat) : List Row :=
  if c.seg.replayTo.isNone then [] else
  ((c.seg.ingress.filter (fun r => r.1 = k)).map (fun r => r.2)).drop (c.seg.logpos.getD k 0)
/-- The row that a read of endpoint k takes. -/
def Core.tqRow (c : Core) (k : Nat) : Option Row :=
  match c.logged k with
  | r :: _ => some r
  | [] => ((c.tqAt k).rows.head?).map (fun r => r.2)

/-! ### Sources and destinations of an X slot -/

/-- The sources of a feed, with their rows (R275, R277). A UINT4g side with its half bit set reads nothing, and its source meets no
condition of R276 then (DESIGN CHOICE, log 59). -/
def feedSources (x : Matrix) (sd : Side) (m : MSrc) : List MSrc :=
  let nxt : MSrc → MSrc | .q k => .q (k + 1) | .tq k => .tq (k + 1)
  let no : MSrc → Nat | .q k => k.toNat | .tq k => 8 + k.toNat
  match sd with
  | .uint4g => if (rd x.latch (no m) { bytes := 0, half := false }).half then [] else [m]
  | .fp _ | .slice => [m, nxt m]
  | _ => [m]
/-- The sources that an XACC or XACCZ reads, each once (R71). -/
def beatSources (x : Matrix) (f : XFmt) (a b : MSrc) : List MSrc :=
  (feedSources x (XFmt.sides f).1 a ++ feedSources x (XFmt.sides f).2 b).eraseDups
/-- A source's row is due and absent: the core is frozen and the bundle does not issue (R36). -/
def State.srcMissing (s : State) : MSrc → Bool
  | .q k => s.readMissing k.toNat
  | .tq k => (s.cur.tqAt k.toNat).readable && (s.cur.tqRow k.toNat).isNone
/-- A drain of bank b that delivers rows (R290). -/
def Matrix.isCarry (x : Matrix) (b : Bool) : Bool :=
  bcOfmt (x.cfg b) ≠ 4 && (x.bank b).slev ≠ 7 && 0 < (x.bank b).slev
def Matrix.isFinal (x : Matrix) (b : Bool) : Bool :=
  bcOfmt (x.cfg b) ≠ 4 && (x.bank b).bfmt = .slice && (x.bank b).slev = 0
/-- The stream that the drain of a slot is configured to, for R66 and R71; a carry drain counts, though it delivers nothing
(R305). -/
def drainStream (x : Matrix) (db : Bool) : Option Nat :=
  if bcDkind (x.cfg db) = 0 then some (bcDnum (x.cfg db)) else none
end Sys2Proof.Machine

namespace Sys2Proof

/-- The drain part of an X slot: none, or its bank and whether it clears. -/
def Instr.drainPart : Instr → Option (Bool × Bool)
  | .xacc _ _ _ _ _ _ _ dr db | .xaccz _ _ _ _ _ _ _ dr db | .xzero _ _ dr db | .xdrn _ dr db =>
    match dr with
    | .none => none
    | .shift => some (db, false)
    | .clear => some (db, true)
  | _ => none
def Instr.beatPart : Instr → Option (XFmt × MSrc × MSrc)
  | .xacc _ _ f a b _ _ _ _ | .xaccz _ _ f a b _ _ _ _ => some (f, a, b)
  | _ => none

end Sys2Proof

namespace Sys2Proof.Machine

/-! ### The egress and ingress limits of a segment (R456, R458) -/

/-- Rows that the slot will hold in the egress buffer. -/
def State.egressRows (s : State) (i : Instr) : Nat :=
  if !s.cur.seg.isOpen then 0 else
  let viaStream := fun k n => if (s.cur.unit k).kind = 4 && (s.cur.unit k).bound then n else 0
  match i.drainPart with
  | some (db, _) =>
    let w := s.cur.mx.cfg db
    let n := ofmtRows (bcOfmt w)
    if s.cur.mx.isCarry db then 0
    else if bcDkind w = 2 then n
    else if bcDkind w = 0 then viaStream (bcDnum w) n else 0
  | none =>
    let ws := i.shape.writes.filterMap (fun w => match w.1 with | .v r => if r.isQ then some (r.toNat - 0x38) else none | _ => none)
    ws.foldl (fun n k => n + viaStream k 1) 0
/-- Rows that the slot will add to the ingress log. -/
def State.ingressRows (s : State) (i : Instr) : Nat :=
  if !s.cur.seg.isOpen then 0 else
  match i.beatPart with
  | none => 0
  | some (f, a, b) => ((beatSources s.cur.mx f a b).filter (fun m => match m with
      | .tq k => (s.cur.tqAt k.toNat).readable && (s.cur.logged k.toNat).isEmpty
      | .q _ => false)).length

/-! ### Entries of the engines (R318, R349, R421) -/

def State.jobsHeld (s : State) (k : CoreId) (comp : Bool) : Nat :=
  ((s.cluster (clusterOf k)).jobs.filter fun j => j.stamp.comp = comp && (comp || j.stamp.core = k)).length
def State.nmHeld (s : State) (k : CoreId) (comp : Bool) : Nat :=
  (s.nm.filter fun q => q.stamp.core = k && q.stamp.comp = comp && q.stamp.ctx = (s.core k).ctx).length
def State.smpHeld (s : State) (k : CoreId) (comp : Bool) : Nat :=
  ((s.cluster (clusterOf k)).reqs.filter fun r => r.stamp.comp = comp && (comp || r.stamp.core = k)).length
/-- Submissions of a kind that are on their way from a stream. -/
def Strm.coming (t : Strm) (p : Effect → Bool) : Nat := (t.pend.filter (fun e => p e.eff)).length
/-- No entry is free for a submission by the present stream; submissions on their way count, and of entries that the companions
of a cluster share those of every companion (R306, R421). -/
def State.noEntry (s : State) (i : Instr) : Bool :=
  let k := s.focus.1
  let comp := s.focus.2
  let coming := fun (p : Effect → Bool) =>
    if comp then ((List.range 8).map fun n => (s.core (coreIn (clusterOf k) n)).comp.coming p).sum else s.me.coming p
  match i with
  | .jsub _ _ _ => (if comp then 128 else 16) ≤ s.jobsHeld k comp + coming (fun e => match e with | .jsub _ _ _ => true | _ => false)
  | .nmsub _ _ _ => 16 ≤ s.nmHeld k comp + s.me.coming (fun e => match e with | .nmsub _ _ _ => true | _ => false)
  | .smpsub _ _ _ => (if comp then 16 else 2) ≤ s.smpHeld k comp + coming (fun e => match e with | .smpsub _ _ _ => true | _ => false)
  | _ => false

/-! ### Issue-class causes beyond the operands' own -/

/-- The checked target of a branch (R149). -/
def State.badTarget (s : State) (t : TReg) : Option (Nat × Word) :=
  let r := rd s.me.t t.toNat { addr := 0, valid := false, prep := 0 }
  if !r.valid || wb r.addr 4 0 ≠ 0 || wb r.addr 63 52 ≠ 0 then some (0x08, r.addr) else none
/-- Causes that hold whatever the guard: ILLEGAL, PRIV, COMPANION_SLOT (R62). -/
def State.stateFault (s : State) (i : Instr) : Option (Nat × Word) :=
  let ill := some (0x01, illegalInfo 2 i)
  let ofC := fun n w => (cFault n s.focus.2 w).map (fun c => (c, if c = 1 then illegalInfo 0 i else wordInfo i))
  match i with
  | .rdc _ _ n => ofC n.toNat false
  | .wrc _ _ n => ofC n.toNat true
  | .tend _ => if s.cur.slice.isNone then ill else none
  | .realign _ => if s.cur.place ≠ .startCode ∨ s.cur.realigned then ill else none
  | .uiret _ => if !s.cur.inh then ill else none
  | .waiti _ => if s.cur.inh ∨ !s.cur.uivEn then ill else none
  | .jsub _ _ _ | .nmsub _ _ _ | .smpsub _ _ _ => if s.inBody && s.noEntry i then ill else none
  | .phsel _ _ => if !(s.ctxView s.cur.ctx).selOpen || !s.selects s.focus.1 then ill else none
  | .lnch _ _ _ => if s.cur.slice.isSome then ill else none
  | _ => none
/-- Causes that a guard of 0 suppresses (R62). -/
def State.guardedFault (s : State) (i : Instr) (bundle : List Instr) : Option (Nat × Word) :=
  let tooMany := decide (64 < s.egressDue + s.egressRows i) || decide (64 < s.cur.seg.ingress.length + s.ingressRows i)
  match i with
  | .br _ t => s.badTarget t
  | .call _ t => if 16 ≤ s.me.ras.length then some (0x05, wordInfo i) else s.badTarget t
  | .ret _ => if s.me.ras.isEmpty then some (0x06, wordInfo i) else none
  | .loop _ a _ => if s.cur.loop.act ∨ 2 ^ 32 ≤ (s.x a).toNat then some (0x09, wordInfo i) else none
  | .brl _ t =>
    if !s.cur.loop.act then some (0x09, wordInfo i)
    else if 1 < s.cur.loop.lc.toNat ∨ s.cur.loop.ec ≠ 0 then s.badTarget t else none
  | .uiret _ => if wb (s.cur.uiepc.setWidth 64) 4 0 ≠ 0 then some (0x08, s.cur.uiepc.setWidth 64) else none
  | .trap _ c => some (0x07, c.setWidth 64)
  | .segb _ =>
    if s.cur.place ≠ .body ∨ bundle.any (fun j => j.shape.slot = 5 ∧ j.shape.occ) ∨
        s.cur.xIss.any (fun t => t < s.me.inst ∧ s.me.inst ≤ t + 8) then some (0x0A, wordInfo i) else none
  | _ => if tooMany && !s.focus.2 then some (0x0A, wordInfo i) else none

/-- The scale, zero-point and exponent registers that the feeds of a beat read (R278). -/
def beatGregs (x : Matrix) (i : Instr) : List LRef :=
  let of := fun (w : Word) (e : Nat) (sd : Side) => (match sd with
    | .int8 | .slice => []
    | .fp _ => [e]
    | .uint4g | .uint8g => [e, bcGsc w, bcGzp w]).map fun n => LRef.g (BitVec.ofNat 5 n)
  match i with
  | .xacc _ b f _ _ _ _ _ _ | .xaccz _ b f _ _ _ _ _ _ =>
    let w := x.cfg b
    of w (bcGea w) (XFmt.sides f).1 ++ of w (bcGeb w) (XFmt.sides f).2
  | _ => []
/-- The lowest issue-class cause of a slot (R84, R85). An instruction of the other stream is judged by R25 and R26 alone: what
its entry asks of the state of its own stream does not arise there (DEDUCED, log 8). -/
def State.slotFault (s : State) (i : Instr) (bundle : List Instr) (lag : Nat) : Option (Nat × Word) :=
  let sh := i.shape
  if !sh.occ then none else
  match s.wrongStream i sh with
  | some f => some f
  | none =>
    match s.stateFault i with
    | some f => some f
    | none =>
      match s.holdShort sh lag (beatGregs s.cur.mx i) with
      | some w => some (0x04, w)
      | none => if s.guardOn sh then s.guardedFault i bundle else none

/-- Untimed writes of earlier bundles of the present stream that no home has acknowledged (R246). -/
def State.unackedEarlier (s : State) : Bool :=
  s.accs.any fun a => decide (a.id < s.bundleId) && a.who = .strm s.focus.1 s.focus.2 && a.op.writes
/-- The slot waits: a pending register (R67), a row that a freeze waits for (R36), or, for a submission outside a
phase body, an entry and the stream's own writes (R318, R349, R421). -/
def State.slotWaits (s : State) (i : Instr) : Bool :=
  let sh := i.shape
  if !sh.occ then false
  else if s.pendingReg sh then true
  else if !s.guardOn sh then false
  else match i with
  | .jsub _ _ _ | .nmsub _ _ _ | .smpsub _ _ _ =>
    !s.inBody && (s.noEntry i || s.unackedEarlier)
  | .xacc _ _ f a b _ _ _ _ | .xaccz _ _ f a b _ _ _ _ => (beatSources s.cur.mx f a b).any s.srcMissing
  | _ => sh.reads.any (fun r => match r with | .v q => q.isQ && s.readMissing (q.toNat - 0x38) | _ => false)

/-- Instructions that keep an open segment from being rewound (R454). -/
def fixesSegment : Instr → Bool
  | .jsub _ _ _ | .jcan _ _ | .nmsub _ _ _ | .nmfn _ _ _ | .smpsub _ _ _ | .phld _ _ _ _ | .cancLaunch _ _ | .cancGraph _ _
  | .cancPhase _ _ | .cancJob _ _ | .barmSet _ _ _ _ | .barmAdd _ _ _ _ | .uien _ _ | .bgive _ _ _ | .btake _ _ | .bpub _ _
  | .bret _ _ => true
  | _ => false
def State.fixSegment (s : State) (i : Instr) : State :=
  if fixesSegment i && !s.focus.2 && s.cur.seg.isOpen then s.modCur fun c => { c with seg := { c.seg with fix := true } } else s

/-- A slot issues: it waits, traps in the issue class, or takes its place and, unless its guard is 0, has its effect. -/
def runSlot (i : Instr) (s : State) (body : State → State) : State :=
  if s.slotWaits i then s
  else match s.slotFault i [i] (s.cascadeLag i.shape) with
  | some f => (if f.1 = 0x07 then s.holdFor i.shape.hold else s).issueTrap f.1 i.shape.slot f.2
  | none =>
    let s := (s.occupy i.shape).fixSegment i
    if s.guardOn i.shape then body s else s

end Sys2Proof.Machine
end

