-- ==== Sys2Proof/Machine/Memory.lean ====
section
/-!
DEFINITION. Machine/Memory.lean: the L slot (06, R227 to R229, R245 to R252), streams and buffers of the Q slot
(R226, R240 to R242), and the steps of the stream transfer units (R233 to R236).
-/
namespace Sys2Proof.Machine

/-! ### Direct scratchpad access (R227, R228) -/

/-- The address of the row form and of GLD and GST (R228, R245). -/
def State.rowAddr (s : State) (a : XReg) (off : BitVec 10) : Nat := (s.x a + 128 * off.signExtend 64).toNat
/-- The address of the indexed form (R228). -/
def State.indexAddr (s : State) (a b : XReg) : Nat := (s.x a + s.x b).toNat
/-- TRAPINFO of a scratchpad access: the computed address, or the row's for BUF_OWNER (R218, R224). -/
def spInfo (cause a : Nat) : Word := BitVec.ofNat 64 (if cause = 0x21 then a / 128 * 128 else a)
/-- The checks of a Q-slot row read at issue (R218, R224). -/
def State.submitRow (s : State) (a : XReg) (f : Nat → State) : State :=
  match s.loadCause s.focus.1 (s.x a).toNat with
  | some c => s.execTrap c 7 (spInfo c (s.x a).toNat)
  | none => f (s.x a).toNat
/-- A load: the row is read at c+1 (R220, R228). -/
def State.spLoad (s : State) (a : Nat) (xf : LdXf) (v : VSel) : State :=
  match s.loadCause s.focus.1 a with
  | some c => s.execTrap c 6 (spInfo c a)
  | none => s.later 6 1 (.rowRead (a / 128) xf (s.vDst v))
/-- A store: the row is written at c+2 (R220, R228). -/
def State.spStore (s : State) (a : Nat) (d : Row) (en : Mask) (whole : Bool) : State :=
  match s.storeCause s.focus.1 a none with
  | some c => s.execTrap c 6 (spInfo c a)
  | none =>
    let r := s.claimRow 6 a 2
    if r.2 then r.1.later 6 2 (.rowWrite a d en whole) else r.1

/-- LD (R228). -/
def execLd (g : PReg) (v : VSel) (a : XReg) (off : BitVec 10) (s : State) : Out :=
  .next (runSlot (.ld g v a off) s fun s => s.spLoad (s.rowAddr a off) .row v)
/-- LDT (R228). -/
def execLdt (g : PReg) (v : VSel) (a : XReg) (off : BitVec 10) (s : State) : Out :=
  .next (runSlot (.ldt g v a off) s fun s => s.spLoad (s.rowAddr a off) .transpose v)
/-- LDB: the 16-byte part that address bits [6:4] name (R228). -/
def execLdb (g : PReg) (v : VSel) (a : XReg) (off : BitVec 10) (s : State) : Out :=
  .next (runSlot (.ldb g v a off) s fun s => s.spLoad (s.rowAddr a off) (.bcast (s.rowAddr a off / 16 % 8)) v)
/-- LDX (R228). -/
def execLdx (g : PReg) (v : VSel) (a b : XReg) (s : State) : Out :=
  .next (runSlot (.ldx g v a b) s fun s => s.spLoad (s.indexAddr a b) .row v)
/-- ST (R228). -/
def execSt (g : PReg) (v : VSel) (a : XReg) (off : BitVec 10) (s : State) : Out :=
  .next (runSlot (.st g v a off) s fun s => s.spStore (s.rowAddr a off) (s.v v) (BitVec.allOnes 128) true)
/-- STM: the bytes that m7 enables (R228). -/
def execStm (g : PReg) (v : VSel) (a : XReg) (off : BitVec 10) (s : State) : Out :=
  .next (runSlot (.stm g v a off) s fun s => s.spStore (s.rowAddr a off) (s.v v) (s.m 7) false)
/-- STX (R228). -/
def execStx (g : PReg) (v : VSel) (a b : XReg) (s : State) : Out :=
  .next (runSlot (.stx g v a b) s fun s => s.spStore (s.indexAddr a b) (s.v v) (BitVec.allOnes 128) true)
/-- What a load makes of its row (R228). -/
def LdXf.apply (xf : LdXf) (r : Row) : Row :=
  match xf with
  | .row => r
  | .transpose => BitVec.ofNat 1024 (packLanes 16 ((List.range 64).map (fun n => lane 16 r (8 * (n % 8) + n / 8))))
  | .bcast p => BitVec.ofNat 1024 (packLanes 128 (List.replicate 8 (lane 128 r p)))
/-- RMRG: 128 bytes from byte k of va then vd (R229). -/
def execRmrg (g : PReg) (vd va : VSel) (a : XReg) (s : State) : Out :=
  .next (runSlot (.rmrg g vd va a) s fun s =>
    let t := (s.v va).toNat + (s.v vd).toNat * 2 ^ 1024
    let k := (s.x a).toNat % 128
    s.later 6 2 (.vec (s.vDst vd) (BitVec.ofNat 1024 (t / 2 ^ (8 * k))) (BitVec.allOnes 128) none))

/-! ### Untimed global access (R245 to R249) -/

/-- An untimed access translates as its bundle issues; a fault suppresses the slot (R253). A walk, of whose length the rules say
nothing, is over in the cycle of the issue (DESIGN CHOICE, log 64). -/
def State.untimed (s : State) (va need : Nat) (f : State → Nat → State) : State :=
  match s.translate s.focus.1 va need with
  | .error c => s.execTrap c 6 (BitVec.ofNat 64 va)
  | .ok (pa, t) => f (s.cacheTlb s.focus.1 t) pa
/-- The access goes to its home; the registers its reply writes are pending (R67). -/
def State.sendUntimed (s : State) (op : AccOp) (pa : Nat) (dst : List PRef) : State :=
  let id := s.nextId
  (s.send (.strm s.focus.1 s.focus.2) op pa dst 0 s.me.pc).modMe fun t =>
    { t with waits := t.waits ++ dst.map (fun r => (id, r)) }
/-- GLD (R245). -/
def execGld (g : PReg) (v : VSel) (a : XReg) (off : BitVec 10) (s : State) : Out :=
  .next (runSlot (.gld g v a off) s fun s =>
    s.untimed (s.rowAddr a off / 128 * 128) 1 fun s pa =>
      s.sendUntimed (.read 128) pa (s.cur.phys s.focus.2 (.v v)).toList)
/-- GST (R245). -/
def execGst (g : PReg) (v : VSel) (a : XReg) (off : BitVec 10) (s : State) : Out :=
  .next (runSlot (.gst g v a off) s fun s =>
    s.untimed (s.rowAddr a off / 128 * 128) 2 fun s pa => s.sendUntimed (.write (s.v v) (BitVec.allOnes 128)) pa [])
/-- An access to a word: readable and writable, in device memory (R248, R249). -/
def State.wordAccess (s : State) (a : XReg) (bytes : Nat) (op : AccOp) (dst : List PRef) : State :=
  let va := (s.x a).toNat / bytes * bytes
  s.untimed va 3 fun s pa =>
    if isHostAddr pa then s.execTrap 0x26 6 (BitVec.ofNat 64 va) else s.sendUntimed op pa dst
/-- AOP with op code op: without a result when xd is x0 (R247, R248). -/
def State.aop (s : State) (op : Nat) (d a b : XReg) : State :=
  let dst := (s.cur.phys s.focus.2 (.x d)).toList
  s.wordAccess a (if op = 1 then 4 else 8) (.aop op (s.x b) (s.x d) (!dst.isEmpty)) dst
/-- AOP.ADD (R248). -/
def execAopAdd (g : PReg) (d a b : XReg) (s : State) : Out := .next (runSlot (.aopAdd g d a b) s fun s => s.aop 0x0 d a b)
/-- AOP.FADD32 (R248). -/
def execAopFadd32 (g : PReg) (d a b : XReg) (s : State) : Out := .next (runSlot (.aopFadd32 g d a b) s fun s => s.aop 0x1 d a b)
/-- AOP.MIN (R248). -/
def execAopMin (g : PReg) (d a b : XReg) (s : State) : Out := .next (runSlot (.aopMin g d a b) s fun s => s.aop 0x2 d a b)
/-- AOP.MAX (R248). -/
def execAopMax (g : PReg) (d a b : XReg) (s : State) : Out := .next (runSlot (.aopMax g d a b) s fun s => s.aop 0x3 d a b)
/-- AOP.MINU (R248). -/
def execAopMinu (g : PReg) (d a b : XReg) (s : State) : Out := .next (runSlot (.aopMinu g d a b) s fun s => s.aop 0x4 d a b)
/-- AOP.MAXU (R248). -/
def execAopMaxu (g : PReg) (d a b : XReg) (s : State) : Out := .next (runSlot (.aopMaxu g d a b) s fun s => s.aop 0x5 d a b)
/-- AOP.AND (R248). -/
def execAopAnd (g : PReg) (d a b : XReg) (s : State) : Out := .next (runSlot (.aopAnd g d a b) s fun s => s.aop 0x6 d a b)
/-- AOP.OR (R248). -/
def execAopOr (g : PReg) (d a b : XReg) (s : State) : Out := .next (runSlot (.aopOr g d a b) s fun s => s.aop 0x7 d a b)
/-- AOP.XOR (R248). -/
def execAopXor (g : PReg) (d a b : XReg) (s : State) : Out := .next (runSlot (.aopXor g d a b) s fun s => s.aop 0x8 d a b)
/-- AOP.XCHG (R248). -/
def execAopXchg (g : PReg) (d a b : XReg) (s : State) : Out := .next (runSlot (.aopXchg g d a b) s fun s => s.aop 0x9 d a b)
/-- AOP.CAS (R248). -/
def execAopCas (g : PReg) (d a b : XReg) (s : State) : Out := .next (runSlot (.aopCas g d a b) s fun s => s.aop 0xA d a b)
/-- RWL with op code op (R249). -/
def State.rwl (s : State) (op : Nat) (d a : XReg) (pd : PReg) : State :=
  let dst := (s.cur.phys s.focus.2 (.x d)).toList ++ (s.cur.phys s.focus.2 (.p pd)).toList
  s.wordAccess a 8 (.rwl op ((s.x d).getLsbD 0)) dst
/-- RWL.RDACQ (R249). -/
def execRwlRdacq (g : PReg) (d a : XReg) (pd : PReg) (s : State) : Out := .next (runSlot (.rwlRdacq g d a pd) s fun s => s.rwl 0 d a pd)
/-- RWL.RDREL (R249). -/
def execRwlRdrel (g : PReg) (d a : XReg) (pd : PReg) (s : State) : Out := .next (runSlot (.rwlRdrel g d a pd) s fun s => s.rwl 1 d a pd)
/-- RWL.WRACQ (R249). -/
def execRwlWracq (g : PReg) (d a : XReg) (pd : PReg) (s : State) : Out := .next (runSlot (.rwlWracq g d a pd) s fun s => s.rwl 2 d a pd)
/-- RWL.WRREL (R249). -/
def execRwlWrrel (g : PReg) (d a : XReg) (pd : PReg) (s : State) : Out := .next (runSlot (.rwlWrrel g d a pd) s fun s => s.rwl 3 d a pd)
/-- RWL.SETPREF (R249). -/
def execRwlSetpref (g : PReg) (d a : XReg) (pd : PReg) (s : State) : Out := .next (runSlot (.rwlSetpref g d a pd) s fun s => s.rwl 4 d a pd)

/-! ### Fences (R251, R252) -/

/-- The fence stands before every later bundle of its stream; in a phase body it has no effect. -/
def State.fenceOf (s : State) (kind : Nat) (sc : FScope) : State :=
  if s.inBody then s else s.modMe fun t => { t with fence := some { kind := kind, scope := sc, upto := s.nextId } }
/-- FENCE.ACQ (R251). -/
def execFenceAcq (g : PReg) (sc : FScope) (s : State) : Out := .next (runSlot (.fenceAcq g sc) s fun s => s.fenceOf 0 sc)
/-- FENCE.REL (R251). -/
def execFenceRel (g : PReg) (sc : FScope) (s : State) : Out := .next (runSlot (.fenceRel g sc) s fun s => s.fenceOf 1 sc)
/-- FENCE.FULL (R251). -/
def execFenceFull (g : PReg) (sc : FScope) (s : State) : Out := .next (runSlot (.fenceFull g sc) s fun s => s.fenceOf 2 sc)
/-- The targets of a scope that an untimed access can have (R251). -/
def State.inScope (s : State) (sc : FScope) (pa : Nat) : Bool :=
  match sc with
  | .core | .cluster => false
  | .package => s.ownAddr pa && !isHostAddr pa
  | .domain => !isHostAddr pa
  | .system => true
/-- The fence's condition: no access before it and in scope is still to return its value (ACQ) or to complete. -/
def State.fenceHolds (s : State) (k : CoreId) (comp : Bool) (f : FenceWait) : Bool :=
  !s.accs.any fun a =>
    a.who = .strm k comp && decide (a.id < f.upto) && s.inScope f.scope a.pa && (f.kind ≠ 0 || !a.dst.isEmpty)

/-! ### Buffers (R226) -/

/-- The buffer that a handle names: home core × 64 + buffer. -/
def handleIdx (h : Word) : Nat := h.toNat % 512
/-- A stream bound on core k uses the buffer as ring or transposer group (R226). -/
def State.bufBusy (s : State) (k : CoreId) (idx : Nat) : Bool :=
  idx / 64 = k.val % 8 &&
    (let c := s.core k
     let lo := idx % 64 * 512
     (List.range 8).any fun q =>
       let u := c.unit q
       u.bound && ((u.isRing && lo ≤ u.ringAddr / 128 && u.ringAddr / 128 < lo + 512) ||
         (match u.group with
          | none => false
          | some (g, _) => u.transpose && u.next < (g + 1) * u.groupSize &&
              (List.range u.groupSize).any fun j => u.addr (g * u.groupSize + j) / 65536 = idx % 64)))
/-- A peer read stream of the cluster is bound on the buffer (R226, R240): on the one that holds its BASE, whatever others its
pattern reaches (DESIGN CHOICE, log 62). -/
def State.peerBound (s : State) (cl : ClusterId) (idx : Nat) : Bool :=
  (List.range 8).any fun n => (List.range 8).any fun q =>
    let u := (s.core (coreIn cl n)).unit q
    u.bound && u.kind = 2 && u.home * 64 + u.baseAddr / 65536 = idx
/-- A request of a peer stream of the cluster for a row of the buffer is in flight (R265). -/
def State.peerAsks (s : State) (cl : ClusterId) (idx : Nat) : Bool :=
  s.accs.any fun a => match a.op with
    | .peer h row => decide (clusterOf h = cl) && decide (h.val % 8 * 64 + row / 512 = idx)
    | _ => false
/-- A buffer instruction: the state that follows, effective at c+2, or BUF_STATE (R225, R226). -/
def State.bufOp (s : State) (h : Word) (ok : Bool) (e : BufState) : State :=
  if ok then s.later 7 2 (.bufState (handleIdx h) e) else s.execTrap 0x22 7 h
/-- BTAKE (R226). -/
def execBtake (g : PReg) (a : XReg) (s : State) : Out :=
  .next (runSlot (.btake g a) s fun s =>
    let me := s.focus.1.val % 8
    s.bufOp (s.x a) (s.buf s.focus.1 (handleIdx (s.x a)) = .transit me) (.owned me))
/-- BGIVE (R226). -/
def execBgive (g : PReg) (a b : XReg) (s : State) : Out :=
  .next (runSlot (.bgive g a b) s fun s =>
    let i := handleIdx (s.x a)
    s.bufOp (s.x a) (s.buf s.focus.1 i = .owned (s.focus.1.val % 8) && !s.bufBusy s.focus.1 i)
      (.transit ((s.x b).toNat % 8)))
/-- BPUB (R226). -/
def execBpub (g : PReg) (a : XReg) (s : State) : Out :=
  .next (runSlot (.bpub g a) s fun s =>
    let i := handleIdx (s.x a)
    let me := s.focus.1.val % 8
    s.bufOp (s.x a) (s.buf s.focus.1 i = .owned me && !s.bufBusy s.focus.1 i) (.published me))
/-- BRET (R226). -/
def execBret (g : PReg) (a : XReg) (s : State) : Out :=
  .next (runSlot (.bret g a) s fun s =>
    let i := handleIdx (s.x a)
    let me := s.focus.1.val % 8
    s.bufOp (s.x a) (s.buf s.focus.1 i = .published me && !s.peerBound (clusterOf s.focus.1) i && !s.peerAsks (clusterOf s.focus.1) i) (.owned me))

/-! ### SBIND, SFREE, SADV (R240 to R242) -/

/-- SBIND: the descriptor is read and checked at c+1 (R240, R505). -/
def execSbind (g : PReg) (q : QReg) (a : XReg) (s : State) : Out :=
  .next (runSlot (.sbind g q a) s fun s =>
    let da := (s.x a).toNat / 64 * 64
    if (s.cur.unit q.toNat).bound || 0x40_0000 ≤ da then s.execTrap 0x23 7 (BitVec.ofNat 64 da)
    else s.later 7 1 (.sbind q.toNat da))
/-- SFREE (R241). -/
def execSfree (g : PReg) (q : QReg) (s : State) : Out :=
  .next (runSlot (.sfree g q) s fun s =>
    let u := s.cur.unit q.toNat
    if !u.bound then s.execTrap 0x23 7 (BitVec.ofNat 64 u.baseAddr) else s.later 7 2 (.sfree q.toNat))
/-- The cause that n reads from the next position on meet: exhausted, not due, failed or poisoned (R232, R242). -/
def SUnit.advCause (u : SUnit) (inst n : Nat) : Option (Nat × Word) :=
  if u.total < u.next + n then some (0x23, BitVec.ofNat 64 u.baseAddr)
  else if u.isRead && decide (inst < u.due (u.next + n - 1)) then some (0x23, BitVec.ofNat 64 (u.addr (u.next + n - 1)))
  else if !u.isRead then none
  else match u.lost.find? (fun l => u.next ≤ l.1 && l.1 < u.next + n) with
    | some l => some (l.2, u.info l.1 l.2)
    | none => (u.stage.find? (fun r => u.next ≤ r.pos && r.pos < u.next + n && r.bad ≠ 0)).map fun r => (r.bad, u.info r.pos r.bad)
/-- SADV: n positions are consumed, or skipped (R242). -/
def execSadv (g : PReg) (q : QReg) (n : BitVec 8) (s : State) : Out :=
  .next (runSlot (.sadv g q n) s fun s =>
    let u := s.cur.unit q.toNat
    if !u.bound then s.execTrap 0x23 7 (BitVec.ofNat 64 u.baseAddr)
    else match u.advCause s.me.inst n.toNat with
      | some c => s.meet 7 c
      | none => s.modCur fun c => c.modUnit q.toNat fun u => { u with next := u.next + n.toNat })

/-- The checks of R240 on the descriptor row. An OP of 3 or more in a GLOBAL_WR descriptor, of which neither R230 nor R240 speaks,
counts as a malformed descriptor (DESIGN CHOICE, log 63). -/
def State.dscBad (s : State) (k : CoreId) (d : BitVec 512) : Bool :=
  let u := { SUnit.reset with desc := d }
  let kd := u.kind
  let cs := [u.countOf 0, u.countOf 1, u.countOf 2, u.countOf 3]
  let lg := dsc d 47 44
  let g := u.groupSize
  let local_ := kd ≤ 1
  let ends := (List.range 4).map fun i => ((u.countOf i : Int) - 1) * u.strideOf i
  let lo : Int := (u.baseAddr : Int) + (ends.map (fun e => if e < 0 then e else 0)).sum
  let hi : Int := (u.baseAddr : Int) + (ends.map (fun e => if 0 < e then e else 0)).sum
  let r0 := u.ringAddr / 128
  let other := (List.range 8).any fun q => let v := (s.core k).unit q; v.bound && v.transpose
  4 < kd || dsc d 7 6 ≠ 0 || dsc d 63 54 ≠ 0 || dsc d 511 384 ≠ 0 ||
  (local_ && (lg ≠ 0 || u.ringAddr ≠ 0)) || (kd ≠ 2 && u.home ≠ 0) || (kd ≠ 4 && u.redOp ≠ 0) || 2 < u.redOp ||
  cs.contains 0 ||
  (u.transpose && (kd ≠ 0 || u.esize = 1 || other || u.total % g ≠ 0 || u.lead < 8 + g / 4 ||
    (g < u.total && u.period < u.lead + g / 4))) ||
  (if u.isRead then u.period = 0 || u.startAt < u.lead else u.period ≠ 0 || u.startAt ≠ 0) ||
  (kd = 0 && !u.transpose && (u.lead < 8 || 8 * u.period < u.lead)) ||
  (u.isRing && (lg < 4 || 9 < lg || 0x40_0000 < u.ringAddr / 128 * 128 + u.ringRows * 128 ||
    r0 / 512 ≠ (r0 + u.ringRows - 1) / 512 || !s.homeWrites k r0 ||
    (u.isRead && u.ringRows < (u.lead + u.period - 1) / u.period + 8))) ||
  (kd ≤ 2 && (lo < 0 || 0x40_0000 ≤ hi)) || (kd = 2 && u.home = k.val % 8)
/-- The unit is bound at c+1 by the SBIND of instant b, in the bundle at pc (R231, R240); a bad descriptor binds nothing
(R505). -/
def State.bindStream (s : State) (k : CoreId) (q addr b : Nat) (pc : BitVec 52) : State :=
  let s := s.modCore k fun c => { c with dscAt := c.prim.inst + 1 }
  let c := s.core k
  let row := addr / 128
  let d : BitVec 512 := BitVec.ofNat 512 ((c.spRow row).toNat / 2 ^ (if addr / 64 % 2 = 1 then 512 else 0))
  if c.spBad.contains row then s.poisonAt k false 7 b b pc
  else if s.dscBad k d then s.deferTrap k false b 0x23 7 (BitVec.ofNat 64 addr)
  else s.modCore k fun c => c.modUnit q fun u =>
    { SUnit.reset with bound := true, gen := u.gen + 1, desc := d, start := b }
/-- A row of binding gen of stream q is still to land or to be acknowledged: asked for, sent, held by the segment or in flight
(R241). -/
def State.ringBusy (s : State) (k : CoreId) (q gen : Nat) : Bool :=
  let c := s.core k
  let here := fun (n iss : Nat) => n = q && decide ((c.unitAt q iss).gen = gen)
  (s.accs.any fun a => a.who = .unit k q gen) || (c.seg.held.any fun h => !h.isTq && h.k = q && h.gen = gen) ||
    c.prim.pend.any fun e => match e.eff with
      | .vec (.q n _) _ _ _ => here n e.iss
      | .vop op _ _ => (match op.dst with | .q n _ => here n e.iss | _ => false)
      | .drain o => o.dkind = 0 && here o.dnum e.iss
      | _ => false
/-- The rings of freed streams of which nothing is on its way are free. -/
def State.releaseRings (s : State) (k : CoreId) : State :=
  if (s.core k).oldRings.isEmpty then s
  else s.modCore k fun c => { c with oldRings := c.oldRings.filter fun r => s.ringBusy k r.q r.gen }
/-- The unit is unbound; its ring stays reserved while rows are on their way, and rows in flight go where it would have sent
them (R241). -/
def State.freeStream (s : State) (k : CoreId) (q : Nat) : State :=
  let u := (s.core k).unit q
  if !u.bound then s else
  (s.modCore k fun c =>
    let c := c.modUnit q fun u => { SUnit.reset with gen := u.gen }
    { c with
      oldUnits := (c.oldUnits.filter fun o => c.prim.inst ≤ o.2.1 + 128) ++ (if u.isRead then [] else [(q, c.prim.inst, u)])
      oldRings := if u.isRing then c.oldRings ++ [{ q := q, gen := u.gen, base := u.ringAddr / 128, rows := u.ringRows }] else c.oldRings
      }).releaseRings k

/-! ### Fills (R233 to R236, R239) -/

/-- Whether position p of a read stream is filled at the present instant: at its instant, or, for instants before the
descriptor was read, at the first instant after (R233, R240). -/
def SUnit.fillsNow (u : SUnit) (before inst p : Nat) : Bool :=
  decide (u.due p - before = inst) || (decide (inst = u.start + 1) && decide (u.due p - before ≤ inst))
/-- Positions of a fill rule that fall at the present instant, at most two of them. -/
def SUnit.fillPositions (u : SUnit) (before inst : Nat) : List Nat :=
  let p := (inst + before - u.start - u.startAt) / max u.period 1
  [p - 1, p].eraseDups.filter fun p => p < u.total && u.fillsNow before inst p
/-- The group that the transposer reads next, and the rows of it that it holds (R236). -/
def SUnit.tpos (u : SUnit) : Nat × List Row :=
  match u.group with
  | some (g, rs) => if rs.length < u.groupSize then (g, rs) else (g + 1, [])
  | none => (u.next / u.groupSize, [])
/-- The instant of the transposer's next read. -/
def SUnit.tposDue (u : SUnit) : Nat :=
  let g := u.tpos
  u.due (g.1 * u.groupSize) + 1 + g.2.length / 4 - u.lead - u.groupSize / 4
/-- The transposer reads now. -/
def SUnit.tposNow (u : SUnit) (inst : Nat) : Bool :=
  u.bound && u.transpose && u.tpos.1 * u.groupSize < u.total && u.tposDue ≤ inst
/-- Read ports that a unit uses at an instant (R219, R239). -/
def SUnit.portsAt (u : SUnit) (inst : Nat) : Nat :=
  if !u.bound then 0
  else if u.transpose then (if u.tposNow inst || u.tread = inst + 1 then 4 else 0)
  else if u.kind = 0 then (u.fillPositions u.lead inst).length
  else if u.isRead then ((u.fillPositions 8 inst).filter fun p => u.landed.any (fun l => l.1 = p)).length
  else 0
/-- Ports left for stream q at the present instant: the descriptor read first, then ascending stream number (R239). -/
def Core.portsFree (c : Core) (q : Nat) : Nat :=
  let inst := c.prim.inst
  4 - ((decide (c.dscAt = inst + 1)).toNat + ((List.range q).map fun j => (c.unit j).portsAt inst).sum)

def Core.failPos (c : Core) (q p cause : Nat) : Core :=
  c.modUnit q fun u => if u.lost.any (fun l => l.1 = p) then u else { u with lost := u.lost ++ [(p, cause)] }
def Core.stageRow (c : Core) (q p : Nat) (r : Row) (bad : Bool) : Core :=
  c.modUnit q fun u => { u with stage := u.stage ++ [{ pos := p, row := r, bad := if bad then 0x27 else 0 }] }
/-- LOCAL_STREAM_FILL: a local read stream fills its positions of this instant (R225, R233, R239). -/
def execLocalStreamFill (k : CoreId) (q : QReg) (s : State) : Out :=
  .next (
    let u := (s.core k).unit q.toNat
    if !(u.bound && u.kind = 0 && !u.transpose) then s else
    let ps := (u.fillPositions u.lead (s.core k).prim.inst).filter (fun p => u.filled ≤ p)
    let free := (s.core k).portsFree q.toNat
    (ps.zipIdx.foldl (fun s p =>
      let s := s.modCore k fun c => c.modUnit q.toNat fun u => { u with filled := p.1 + 1 }
      let a := u.addr p.1
      if free ≤ p.2 then s.modCore k (·.failPos q.toNat p.1 0x23)
      else match s.loadCause k a with
        | some c => s.modCore k (·.failPos q.toNat p.1 c)
        | none => s.modCore k fun c => c.stageRow q.toNat p.1 (c.spRow (a / 128)) (c.spBad.contains (a / 128))) s))
/-- A peer or global read stream asks for position p. The window of the access closes at the detection instant d(p) − H; when the
position is asked for again it runs from the first request (R234, R235, R244, R460). -/
def State.askFor (s : State) (k : CoreId) (q p : Nat) : State :=
  let u := (s.core k).unit q
  let since := ((u.asked.find? fun a => a.1 = p).map fun a => a.2).getD s.cyc.toNat
  let left := u.due p - (s.core k).prim.inst
  let who := Party.unit k q u.gen
  let s := s.modCore k fun c => c.modUnit q fun u => { u with asked := if u.asked.any (fun a => a.1 = p) then u.asked else u.asked ++ [(p, since)] }
  if u.kind = 2 then
    s.addAccess (s.newAccess who (.peer (coreIn (clusterOf k) u.home) (u.addr p / 128)) 0 [] p 0 left)
  else match s.timedXlate k (u.addr p / 128 * 128) 1 with
    | .error c => s.modCore k (·.failPos q p c)
    | .ok pa =>
      let a := { s.newAccess who (.read 128) pa [] p 0 left with sent := since }
      if s.ownAddr pa then s.addAccess a else (s.addAccess a).sendOn a
/-- STREAM_REQUEST: a peer or global read stream asks for its positions of this instant (R234, R235, R243). -/
def execStreamRequest (k : CoreId) (q : QReg) (s : State) : Out :=
  .next (
    let u := (s.core k).unit q.toNat
    if !(u.bound && u.isRing && u.isRead) then s else
    let ps := (u.fillPositions u.lead (s.core k).prim.inst).filter (fun p => u.req ≤ p)
    ps.foldl (fun s p => (s.modCore k fun c => c.modUnit q.toNat fun u => { u with req := p + 1 }).askFor k q.toNat p) s)
/-- PEER_READ_SERVE: the peer port of core k reads one row; requests for the same row are served together (R235). -/
def execPeerReadServe (k : CoreId) (s : State) : Out :=
  .next (
    let mine := fun (a : Access) => match a.op with | .peer h r => if h = k ∧ !a.done then some r else none | _ => none
    match s.accs.findSome? mine with
    | none => s
    | some r =>
      let c := s.core k
      { s with accs := s.accs.map fun a =>
          if mine a = some r then { a with done := true, result := c.spRow r, poison := c.spBad.contains r } else a })
/-- A row lands in the ring: the earlier position that the ring row still holds unconsumed is lost (R234, R243). -/
def Core.ringLand (c : Core) (q p wall : Nat) (r : Row) (poison : Bool) : Core :=
  let u := c.unit q
  let row := u.ringRow p
  let c := c.spWrite row r (BitVec.allOnes 128) true
  let c := if poison then { c with spBad := insertAsc row c.spBad } else c
  let old := u.landed.filter fun l => u.next ≤ l.1 && l.1 < p && u.ringRow l.1 = row
  let c := old.foldl (fun c l => c.failPos q l.1 0x23) c
  c.modUnit q fun u => { u with landed := u.landed.filter (fun l => u.next ≤ l.1 && !old.contains l) ++ [(p, poison, wall)] }
/-- What keeps a landing from a ring row: its home does not own the buffer (R224), or an earlier stream has the row (R234). -/
def State.landCause (s : State) (k : CoreId) (q row : Nat) : Option Nat :=
  if !s.homeWrites k row then some 0x21 else if (s.core k).reservedFrom row q then some 0x23 else none
/-- RING_LANDING: the reply to a stream's request arrives (R234, R241). A landing that may not be made fails its position. -/
def execRingLanding (id : Nat) (s : State) : Out :=
  .next (
    match s.accs.find? (fun a => a.id = id) with
    | none => s
    | some a =>
      match a.who with
      | .unit k q gen =>
        if !a.done || a.op.writes then s else
        let s := { s with accs := s.accs.filter (fun b => b.id ≠ id) }
        let u := (s.core k).unit q
        if u.bound && u.gen = gen then
          match s.landCause k q (u.ringRow a.pos) with
          | some c => s.modCore k (·.failPos q a.pos c)
          | none => s.modCore k (·.ringLand q a.pos s.cyc.toNat a.result a.poison)
        else (s.modCore k fun c => match c.oldRings.find? (fun r => r.q = q && r.gen = gen) with
            | none => c
            | some r =>
              let row := r.base + a.pos % r.rows
              let c := c.spWrite row a.result (BitVec.allOnes 128) true
              if a.poison then { c with spBad := insertAsc row c.spBad } else c).releaseRings k
      | _ => s)
/-- The positions whose ring rows are to be staged now: those due in at most 8 instants (R234). -/
def SUnit.toStage (u : SUnit) (inst : Nat) : List Nat :=
  (u.landed.map (fun l => l.1)).filter fun p => u.next ≤ p && u.due p ≤ inst + 8 &&
    !u.stage.any (fun g => g.pos = p) && !u.lost.any (fun l => l.1 = p)
/-- A peer stream's fill needs the buffer owned by the reader, or published (R224). -/
def State.peerReads (s : State) (k : CoreId) (home row : Nat) : Bool :=
  match s.buf k (home * 64 + row / 512) with
  | .owned o => o = k.val % 8
  | .published _ => true
  | .transit _ => false
/-- RING_STAGE_FILL: landed rows enter staging at d(p) − 8, or as they land after it (R225, R234, R239). -/
def execRingStageFill (k : CoreId) (q : QReg) (s : State) : Out :=
  .next (
    let u := (s.core k).unit q.toNat
    let inst := (s.core k).prim.inst
    if !(u.bound && u.isRing && u.isRead) then s else
    let ps := u.toStage inst
    let free := (s.core k).portsFree q.toNat
    (ps.foldl (fun (r : State × Nat) p =>
      let onTime := u.fillsNow 8 inst p
      let s := r.1
      if onTime && r.2 = 0 then (s.modCore k (·.failPos q.toNat p 0x23), 0)
      else
        let n := if onTime then r.2 - 1 else r.2
        if u.kind = 2 && !s.peerReads k u.home (u.addr p / 128) then (s.modCore k (·.failPos q.toNat p 0x21), n)
        else (s.modCore k fun c => c.stageRow q.toNat p (c.spRow (u.ringRow p)) (c.spBad.contains (u.ringRow p)), n))
      (s, free)).1)
/-- Element j of each source row (R236). -/
def transposed (es j : Nat) (rows : List Row) : Row :=
  BitVec.ofNat 1024 (packLanes (8 * es) (rows.map fun r => lane (8 * es) r j))
/-- Four source rows enter the transposer; a whole group is staged (R236). -/
def State.transposeQuad (s : State) (k : CoreId) (q free : Nat) : State :=
  let u := (s.core k).unit q
  let g := u.tpos
  let G := u.groupSize
  let first := g.1 * G
  let s := if g.2.isEmpty then
      s.modCore k fun c =>
        let late := (List.range first).filter (fun p => u.next ≤ p)
        let c := late.foldl (fun c p => c.failPos q p 0x23) c
        c.modUnit q fun u => { u with stage := u.stage.filter (fun r => first ≤ r.pos) }
    else s
  let as := (List.range 4).map fun i => u.addr (first + g.2.length + i)
  let bad := if free < 4 then some 0x23
    else match as.findSome? (fun a => s.loadCause k a) with
      | some c => some c
      | none => if as.any (fun a => (s.core k).spBad.contains (a / 128)) then some 0x27 else none
  s.modCore k fun (c : Core) =>
    let c : Core := match bad with
      | some b => (List.range G).foldl (fun (c : Core) j => c.failPos q (first + j) b) c
      | none => c
    let rows := g.2 ++ as.map (fun a => c.spRow (a / 128))
    c.modUnit q fun u =>
      { u with
        group := some (g.1, rows), tread := (s.core k).prim.inst + 1, filled := if rows.length = G then first + G else u.filled
        stage := if rows.length = G then
            u.stage ++ ((List.range G).filter (fun j => !u.lost.any (fun l => l.1 = first + j))).map
              (fun j => { pos := first + j, row := transposed u.esize j rows, bad := 0 })
          else u.stage }
/-- The transposer reads its current group again, as far as it had read it, in cycles in which the primary does not issue: these reads
take no port of an instant (R244, R459). -/
def State.transposeAgain (s : State) (k : CoreId) : State :=
  (List.range 8).foldl (fun s q =>
    if !((s.core k).unit q).transpose then s
    else
      let s := s.modCore k fun c => c.modUnit q fun u => { u with group := none, stage := [] }
      let s := (List.range 32).foldl (fun s _ =>
        if ((s.core k).unit q).tposNow (s.core k).prim.inst then s.transposeQuad k q 4 else s) s
      s.modCore k fun c => c.modUnit q fun u => { u with tread := 0 }) s
/-- TRANSPOSER_READ: four rows per instant (R236). -/
def execTransposerRead (k : CoreId) (s : State) : Out :=
  .next (
    match (List.range 8).find? (fun q => ((s.core k).unit q).tposNow (s.core k).prim.inst) with
    | none => s
    | some q =>
      let free := (s.core k).portsFree q
      -- reads due before the descriptor was known are made up at once
      (List.range 16).foldl (fun s i =>
        if ((s.core k).unit q).tposNow (s.core k).prim.inst then s.transposeQuad k q (if i = 0 then free else 4) else s) s)
/-- A ninth staged row that no read of its instant made room for is lost (R243). -/
def Core.trimStages (c : Core) : Core :=
  (List.range 8).foldl (fun c q =>
    let u := c.unit q
    if u.transpose then c else
    let live := u.stage.filter (fun r => u.next ≤ r.pos)
    let c := (live.drop 8).foldl (fun c r => c.failPos q r.pos 0x23) c
    c.modUnit q fun u => { u with stage := live.take 8, landed := u.landed.filter (fun l => u.next ≤ l.1), asked := u.asked.filter (fun a => u.next ≤ a.1) }) c

end Sys2Proof.Machine
end

