-- ==== Sys2Proof/Machine/MatrixOps.lean ====
section
/-!
DEFINITION. Machine/MatrixOps.lean: the X slot (R275 to R298) and the Q-slot instructions that configure the array
(R270 to R274).
-/
namespace Sys2Proof.Machine

/-- An execution-class trap whose TRAPINFO the manual does not state: a free value (log 3). -/
def State.execTrapFree (s : State) (cause slot : Nat) : State := (s.execTrap cause slot (Config.freeWord s.fresh)).draw

/-! ### Tile queues as sources (R71, R276, R409) -/

/-- The row that a beat takes from endpoint k is consumed: a logged row during a replay, else the oldest row, which an
open segment logs (R409, R458). The log's read position goes past a row that a replay logs. -/
def State.consumeTq (s : State) (k : Nat) : State :=
  let c := s.cur
  let e := c.tqAt k
  if e.took = s.me.inst + 1 || !e.readable then s
  else match c.logged k with
    | r :: _ => (s.auditIn (2 ^ 63 + k, e.count) r).modCur fun c =>
        let c := c.modTq k fun e => { e with count := e.count + 1, took := s.me.inst + 1 }
        { c with seg := { c.seg with logpos := c.seg.logpos.set k (c.seg.logpos.getD k 0 + 1) } }
    | [] =>
      match e.rows with
      | [] => s
      | (_, r) :: rest => (s.auditIn (2 ^ 63 + k, e.count) r).modCur fun c =>
          let c := c.modTq k fun e => { e with rows := rest, count := e.count + 1, freed := e.freed + 1, took := s.me.inst + 1 }
          if !c.seg.isOpen then c
          else { c with seg := { c.seg with
            ingress := c.seg.ingress ++ [(k, r)]
            logpos := if c.seg.replayTo.isNone then c.seg.logpos else c.seg.logpos.set k (c.seg.logpos.getD k 0 + 1) } }

/-! ### Feeds -/

def MSrc.num : MSrc → Nat
  | .q k => k.toNat
  | .tq k => 8 + k.toNat
def State.srcRow (s : State) : MSrc → Row
  | .q k => s.readRow k.toNat
  | .tq k => if (s.cur.tqAt k.toNat).readable then (s.cur.tqRow k.toNat).getD 0 else 0
def State.consumeSrc (s : State) : MSrc → State
  | .q k => s.consumeQ k.toNat
  | .tq k => s.consumeTq k.toNat
/-- The cause that a source raises: X_SOURCE in place of STREAM_FAULT, TQ_BIND for a queue (R276). -/
def State.srcCause (s : State) : MSrc → Option (Nat × Option Word)
  | .q k => (s.readCause k.toNat).map fun c => if c.1 = 0x23 then (0x33, none) else (c.1, some c.2)
  | .tq k => if (s.cur.tqAt k.toNat).readable then none else some (0x73, none)
def Matrix.latchOf (x : Matrix) (m : MSrc) : Latch := rd x.latch (MSrc.num m) { bytes := 0, half := false }
/-- The feed of one side of a beat, none for X_FORMAT (R275, R278). -/
def State.feed (s : State) (b : Bool) (eReg : Nat) (sd : Side) (m : MSrc) : Option Feed :=
  let x := s.cur.mx
  let r := fun i => match (feedSources x sd m)[i]? with | some n => s.srcRow n | none => 0
  let l := x.latchOf m
  let nib := if l.half then l.bytes else (r 0).setWidth 512
  feedOf x (x.cfg b) eReg sd (rawElems sd (r 0) (r 1) nib)
/-- The nibble latch after a UINT4g side (R277). -/
def State.turnLatch (s : State) (sd : Side) (m : MSrc) (row : Row) : State :=
  if sd ≠ .uint4g then s else
  s.modCur fun c =>
    let l := c.mx.latchOf m
    let n : Latch := if l.half then { l with half := false } else { bytes := (row >>> 512).setWidth 512, half := true }
    { c with mx := { c.mx with latch := wr c.mx.latch (MSrc.num m) n } }

/-! ### Beats (R279 to R281, R289) -/

/-- The causes of a beat into bank b, each with its TRAPINFO where the manual states one. -/
def State.beatCauses (s : State) (clear b : Bool) (f : XFmt) (ma mb : MSrc) (si sj : Nat) : List (Nat × Option Word) :=
  let x := s.cur.mx
  let z := x.bank b
  let w := x.cfg b
  let sd := XFmt.sides f
  let srcs := beatSources x f ma mb
  let bad := srcs.filterMap s.srcCause
  let base := if clear then 0 else z.mtr
  let odd := (sd.1.wide && MSrc.num ma % 2 = 1) || (sd.2.wide && MSrc.num mb % 2 = 1)
  let lv := si + sj
  let n := bcSlices w
  let slices := decide (f = .slice) &&
    (decide (n ≤ si) || decide (n ≤ sj) || decide (n - 1 < lv) ||
      (if clear || z.slev = 7 then bcOfmt w ≠ 4 && lv ≠ n - 1 else decide (lv ≠ z.slev) || decide (z.drow ≠ 0)))
  let disc := !clear && ((z.mtr ≠ 0 && f ≠ z.bfmt) || z.chunk)
  -- a side without its row is judged by its registers alone, and one with one of its two rows by that row
  let unfit := fun (e : Nat) (side : Side) (m : MSrc) => !tagsOk x w e side ||
    ((side.wide || ((feedSources x side m).filterMap s.srcCause).isEmpty) && !(side.wide && MSrc.num m % 2 = 1) && (s.feed b e side m).isNone)
  bad ++ (if hact x.inForce < base + XFmt.bound f then [(0x30, none)] else []) ++ (if odd then [(0x33, none)] else []) ++
    (if disc || slices then [(0x34, none)] else []) ++
    (if unfit (bcGea w) sd.1 ma || unfit (bcGeb w) sd.2 mb then [(0x34, none)] else [])
/-- The status and meter after an accumulating beat. -/
def Bank.beatStatus (z : Bank) (clear : Bool) (f : XFmt) (lv : Nat) : Bank :=
  { z with
    mtr := (if clear then 0 else z.mtr) + XFmt.bound f, bfmt := f, clrrun := 0
    drow := if clear then 0 else z.drow, chunk := !clear && z.chunk
    slev := if f = .slice then lv else if clear then 7 else z.slev }
/-- The beat of a slot that raises nothing: feeds taken at c, the update at c+4. -/
def State.doBeat (s : State) (clear b : Bool) (f : XFmt) (ma mb : MSrc) (si sj : Nat) : State :=
  let w := s.cur.mx.cfg b
  let sd := XFmt.sides f
  match s.feed b (bcGea w) sd.1 ma, s.feed b (bcGeb w) sd.2 mb with
  | some fa, some fb =>
    let row := s.srcRow mb
    let s := s.modCur fun c => { c with mx := (c.mx.modBank b (fun z => z.beatStatus clear f (si + sj))).activate b }
    (s.turnLatch sd.2 mb row).later 5 4 (.beat b clear fa fb)
  | _, _ => s

/-! ### Drains (R283 to R293) -/

/-- The scratchpad rows of a drain: direct rows, or the positions of a local write stream (R285). -/
def State.drainTargets (s : State) (db : Bool) : List Nat :=
  let x := s.cur.mx
  let w := x.cfg db
  let n := ofmtRows (bcOfmt w)
  if bcDkind w = 1 then (List.range n).map fun t => bcDbase w + bcDstride w * (x.bank db).drow + t
  else if bcDkind w = 0 then
    let u := s.cur.unit (bcDnum w)
    if u.kind = 1 then (List.range n).map fun i => u.addr (u.next + i) / 128 else []
  else []
/-- The causes of a drain of bank db (R283, R284, R286, R287, R290, R291). A carry drain, which delivers nothing, makes no check of its
destination (DESIGN CHOICE, log 59). -/
def State.drainCauses (s : State) (db clear : Bool) : List (Nat × Option Word) :=
  let x := s.cur.mx
  let z := x.bank db
  let p := x.bank (!db)
  let w := x.cfg db
  let sd := XFmt.sides z.bfmt
  let carry := x.isCarry db
  let final := x.isFinal db
  let needA := final || sd.1.aligned
  let needB := final || sd.2.aligned
  let tags := bcOfmt w ≠ 4 && !carry &&
    ((needA && (x.greg (bcGea w)).tag ≠ 3) || (needB && (x.greg (bcGeb w)).tag ≠ 3))
  let rows := s.drainTargets db
  let fmt := z.chunk || tags || (carry && (clear || (!p.chunk && p.mtr ≠ 0))) || (final && !p.chunk)
  let dest : List (Nat × Option Word) :=
    if carry then []
    else if bcDkind w = 0 then ((s.writeCause (bcDnum w) (ofmtRows (bcOfmt w))).map fun c => (c.1, some c.2)).toList
    else if bcDkind w = 2 then (if (s.cur.tqAt (bcDnum w)).writable then [] else [(0x73, none)])
    else rows.filterMap fun r => (s.storeCause s.focus.1 (r * 128) none).map fun c => (c, some (BitVec.ofNat 64 (r * 128)))
  let clash := if carry then none
    else if rows.eraseDups.length ≠ rows.length then rows.head?
    else rows.find? fun r => s.cur.writesRow s.cyc.toNat s.focus.2 r 9
  (if fmt then [(0x34, none)] else []) ++ (if bcMask w && !x.mvalid then [(0x35, none)] else []) ++ dest ++
    (match clash with | some r => [(0x29, some (BitVec.ofNat 64 (r * 128)))] | none => [])
/-- A drain that raises nothing: sample and shift at d, the rest at d+9. Of a masked column R287 says that it raises nothing, and R284,
R294 and R295 raise and count for every cell: a corrected or uncorrectable cell counts and raises there too (DESIGN CHOICE, log 59). -/
def State.doDrain (s : State) (db clear : Bool) : State :=
  let x := s.cur.mx
  let z := x.bank db
  let w := x.cfg db
  let rs := decodeRow z.edge x.inForce
  let bad := anyUncorr rs
  let out : DrainOut :=
    { dkind := bcDkind w, dnum := bcDnum w, pos := 0, k := ofmtRows (bcOfmt w), rows := [], data := [], fl := 0
      corr := correctedChs rs, uncorr := bad, carry := x.isCarry db }
  if x.isCarry db then
    let cr := carryRows x db rs
    let z' := (z.shift (if bad then z.edge else cr.2)).drained false
    let z' := if z'.drow = 0 then { z' with slev := z.slev - 1, mtr := z.mtr / 2048 + 1 } else z'
    let s := s.modCur fun c =>
      { c with mx := (c.mx.setBank db z').modBank (!db) fun p =>
          { p with chunk := true, rows := if bad then p.rows else wr p.rows z.drow cr.1 } }
    s.later 5 9 (.drain out)
  else
    let es := drainElems x db rs (x.isFinal db)
    let rows := s.drainTargets db
    let s := s.modCur fun c => { c with mx := c.mx.setBank db ((z.shift (if clear then zeroRow else z.edge)).drained clear) }
    if bad then s.later 5 9 (.drain { out with rows := if bcDkind w = 1 then rows else [] })
    else
      let s := rows.foldl (fun s r => s.dropCompStore s.focus.1 r 9) s
      let a := if bcDkind w = 0 then s.allotQ (bcDnum w) (ofmtRows (bcOfmt w)) else (s, 0)
      a.1.later 5 9 (.drain { out with
        pos := a.2, rows := rows, data := drainRows (bcOfmt w) es, fl := es.foldl (fun c e => c ||| e.fl) 0 })

/-! ### The X slot -/

/-- An X slot: every check on the state at issue, then the drain and the beat; the lowest cause suppresses the slot
(R85, R279). Its sources advance with the bundle's issue (R71). The drain acts before the beat or the clear of the same slot, so that
a beat which clears the bank that a carry drain fills leaves CHUNK 0 (DESIGN CHOICE, log 59). -/
def State.xslot (s : State) (beat : Option (Bool × Bool × XFmt × MSrc × MSrc × Nat × Nat)) (zero : Option Bool)
    (dr : XDrain) (db : Bool) : State :=
  let drain : Option Bool := match dr with | .none => none | .shift => some false | .clear => some true
  let srcs := match beat with | some (_, _, f, ma, mb, _, _) => beatSources s.cur.mx f ma mb | none => []
  if s.cur.mx.off then (srcs.foldl State.consumeSrc s).execTrapFree 0x32 5
  else
    let bc := match beat with | some (cl, b, f, ma, mb, si, sj) => s.beatCauses cl b f ma mb si sj | none => []
    let dc := match drain with | some clear => s.drainCauses db clear | none => []
    let causes := (bc ++ dc).mergeSort (fun x y => x.1 ≤ y.1)
    let worst := match causes.find? (fun c => c.1 ≠ 0x27) with | some c => some c | none => causes.head?
    match worst with
    | some (c, info) =>
      let s' := srcs.foldl State.consumeSrc s
      match info with
      | some w => s'.meet 5 (c, w)
      | none => s'.execTrapFree c 5
    | none =>
      let s' := match drain with | some clear => s.doDrain db clear | none => s
      let s' := match beat with | some (cl, b, f, ma, mb, si, sj) => s'.doBeat cl b f ma mb si sj | none => s'
      let s' := srcs.foldl State.consumeSrc s'
      match zero with
      | some b =>
        (s'.modCur fun c => { c with mx := (c.mx.modBank b fun z =>
          { z with mtr := 0, slev := 7, chunk := false, drow := 0, clrrun := 0 }).activate b }).later 5 4 (.xclear b)
      | none => s'

/-- XACC (R279). -/
def execXacc (g : PReg) (bank : Bool) (f : XFmt) (a b : MSrc) (si sj : BitVec 3) (dr : XDrain) (db : Bool) (s : State) : Out :=
  .next (runSlot (.xacc g bank f a b si sj dr db) s fun s => s.xslot (some (false, bank, f, a, b, si.toNat, sj.toNat)) none dr db)
/-- XACCZ: the bank is cleared before the product lands (R279). -/
def execXaccz (g : PReg) (bank : Bool) (f : XFmt) (a b : MSrc) (si sj : BitVec 3) (dr : XDrain) (db : Bool) (s : State) : Out :=
  .next (runSlot (.xaccz g bank f a b si sj dr db) s fun s => s.xslot (some (true, bank, f, a, b, si.toNat, sj.toNat)) none dr db)
/-- XZERO (R279). -/
def execXzero (g : PReg) (bank : Bool) (dr : XDrain) (db : Bool) (s : State) : Out :=
  .next (runSlot (.xzero g bank dr db) s fun s => s.xslot none (some bank) dr db)
/-- XDRN (R283). -/
def execXdrn (g : PReg) (dr : XDrain) (db : Bool) (s : State) : Out :=
  .next (runSlot (.xdrn g dr db) s fun s => s.xslot none none dr db)

/-! ### Configuration (R270 to R274) -/

/-- XCFG: in force at c+2 (R271). -/
def execXcfg (g : PReg) (bank : Bool) (a : XReg) (s : State) : Out :=
  .next (runSlot (.xcfg g bank a) s fun s =>
    if bcBad (s.x a) then s.execTrap 0x34 7 (s.x a) else s.later 7 2 (.xcfg bank (s.x a)))
/-- ELD: 128 exponents (R272). -/
def execEld (g : PReg) (gd : GReg) (va vb : VSel) (s : State) : Out :=
  .next (runSlot (.eld g gd va vb) s fun s =>
    s.later 7 6 (.greg gd.toNat ((List.range 128).map fun n =>
      BitVec.ofNat 16 (if n < 64 then lane 16 (s.v va) n else lane 16 (s.v vb) (n - 64))) 3))
/-- ZLD: 128 zero points (R272). -/
def execZld (g : PReg) (gd : GReg) (va : VSel) (s : State) : Out :=
  .next (runSlot (.zld g gd va) s fun s =>
    s.later 7 6 (.greg gd.toNat ((List.range 128).map fun n => BitVec.ofNat 16 (lane 8 (s.v va) n)) 2))
/-- GLS: one group's scales (R273). -/
def execGls (g : PReg) (gd : GReg) (first : Bool) (va vb : VSel) (s : State) : Out :=
  .next (runSlot (.gls g gd first va vb) s fun s =>
    let r := s.cur.mx.greg gd.toNat
    if !first ∧ r.tag ≠ 1 then s.execTrap 0x34 7 0
    else match glsDecode r first (s.v va) (s.v vb) with
      | .error n => s.execTrap 0x34 7 (BitVec.ofNat 64 n)
      | .ok vs => s.later 7 6 (.greg gd.toNat (vs.map (BitVec.ofNat 16)) 1))
/-- XMASK.ROW (R274). The MVALID that it tests changes at c+2 of a FILL or INV, for it as for drains (DESIGN CHOICE, log 59). -/
def execXmaskRow (g : PReg) (ma : MReg) (a : XReg) (s : State) : Out :=
  .next (runSlot (.xmaskRow g ma a) s fun s =>
    if !s.cur.mx.mvalid then s.execTrapFree 0x35 7
    else s.later 7 2 (.xmaskRow ((s.x a).toNat % 128) (s.m ma)))
/-- XMASK.FILL (R274). -/
def execXmaskFill (g : PReg) (s : State) : Out := .next (runSlot (.xmaskFill g) s fun s => s.later 7 2 .xmaskFill)
/-- XMASK.INV (R274). -/
def execXmaskInv (g : PReg) (s : State) : Out := .next (runSlot (.xmaskInv g) s fun s => s.later 7 2 .xmaskInv)

end Sys2Proof.Machine
end

