-- ==== Sys2Proof/Machine/Launch.lean ====
section
/-!
DEFINITION. Machine/Launch.lean: launches and their tiles (R158, R370 to R373), the counters of the hierarchy (R374)
and the part of CANC that acts on launches (R54, R375).
-/
namespace Sys2Proof.Machine

/-! ### Launch records (R370) -/

/-- A launch record read from the scratchpad. -/
structure LRec where
  depth : Nat
  xuse  : Bool
  part  : Nat
  perm  : List Nat
  task  : BitVec 52
  count : List Nat
  cores : BitVec 128
  deriving DecidableEq, Repr
def listProd (l : List Nat) : Nat := l.foldl (· * ·) 1
/-- The record of 64 bytes, none when it is malformed (R370); with the partition controller off, a PART other than 00 is malformed
too (R381). -/
def LRec.parse (off : Bool) (r : Nat) : Option LRec :=
  let w := fun i => bitsOf r (64 * i + 63) (64 * i)
  let depth := bitsOf r 2 0
  let perm := (List.range 6).map fun k => bitsOf r (10 + 3 * k) (8 + 3 * k)
  let count := (List.range 6).map fun k => bitsOf r (143 + 16 * k) (128 + 16 * k)
  let bad := depth = 0 || depth = 7 || bitsOf r 5 4 = 3 || (off && bitsOf r 5 4 ≠ 0) || bitsOf r 7 6 ≠ 0 || bitsOf r 63 26 ≠ 0 || bitsOf r 127 116 ≠ 0 ||
    bitsOf r 255 224 ≠ 0 || w 6 ≠ 0 || w 7 ≠ 0 ||
    (List.range depth).any (fun d => !(perm.take depth).contains d) || (perm.drop depth).any (· ≠ 0) ||
    (count.take depth).any (· = 0) || (count.drop depth).any (· ≠ 0) || 2 ^ 32 ≤ listProd (count.take depth)
  if bad then none
  else some { depth := depth, xuse := bitsOf r 3 3 = 1, part := bitsOf r 5 4, perm := perm, task := BitVec.ofNat 52 (w 1)
              count := count, cores := BitVec.ofNat 128 (bitsOf r 383 256) }

/-! ### Core sets and slices (R372) -/

/-- The cores of a side: P clusters on the prompt side; no core has a side while the controller is off (R381). -/
def sideCores (prompt : Bool) (p : Nat) (off : Bool) : List CoreId :=
  if off then [] else allCores.filter fun k => if prompt then k.val < 8 * p else 8 * p ≤ k.val
/-- The partition controller is off for a launch: at the latch of its phase, or, outside a phase body, now (R381). -/
def State.sidesOff (s : State) (body : Bool) : Bool :=
  match if body then s.running else none with
  | some d => d.modeOff
  | none => wb s.partctl 1 0 = 0
/-- The core set of a launch: fixed at the latch of its phase, or, outside a phase body, now (R372). -/
def State.coreSet (s : State) (body : Bool) (r : LRec) : List CoreId :=
  let d := if body then s.running else none
  let p := match d with | some d => d.prompt | none => wb s.partctl 19 16
  let off := s.sidesOff body
  let dead := match d with | some d => d.xoff | none => allCores.filter fun k => (s.core k).mx.off
  let ks := if r.part = 0 then coresOf r.cores else sideCores (r.part = 1) p off
  if r.xuse then ks.filter (fun k => !dead.contains k) else ks
/-- The first linear index and the length of the slice of rank r of n, of t tiles (R372). -/
def sliceOf (t n r : Nat) : Nat × Nat :=
  (r * (t / n) + min r (t % n), if r < t % n then t / n + 1 else t / n)
/-- The rank of a core in a set in ascending order. -/
def rankIn (ks : List CoreId) (k : CoreId) : Nat := (ks.filter (fun j => j.val < k.val)).length
/-- The coordinate of linear index l: the innermost level varies fastest (R372). -/
def tileCoord (perm count : List Nat) : Nat → Nat → List Nat → List Nat
  | 0, _, i => i
  | k + 1, l, i =>
    let d := perm.getD k 0
    let c := max (count.getD d 1) 1
    tileCoord perm count k (l / c) (i.set d (l % c))

/-! ### Tiles (R139, R373) -/

/-- The primary's control state at a phase entry or a tile entry (R139); the half bits too (R277). -/
def Core.enterCode (c : Core) : Core :=
  { c with
    loop := .reset
    prim := { c.prim with ras := [], t := c.prim.t.map fun t => { t with valid := false } }
    mx := { c.mx with latch := c.mx.latch.map fun l => { l with half := false } } }
/-- Tile l of the running slice begins: x16 to x22 are usable by its first bundle (R373), to which the launch or the TEND has sent
the stream. -/
def Core.enterTile (c : Core) (l : Nat) (pc : BitVec 52) : Core :=
  match c.slice with
  | none => c
  | some sl =>
    let xs := tileCoord sl.perm sl.count sl.depth l (List.replicate 6 0) ++ [l]
    let c := c.enterCode
    let t := c.prim
    { c with
      slice := some { sl with cur := l }
      prim := { t with
        pend := t.pend ++ (xs.zipIdx.map fun v =>
          { due := max t.ready (t.inst + 1), iss := t.inst, pc := pc, slot := 7
            eff := .x false (16 + v.2) (BitVec.ofNat 64 v.1) : Pend }) } }

/-! ### Counters (R374) -/

/-- Level-1 counters are launches; newest first. -/
def State.launchOf (s : State) (seq addr : Nat) (pre : Bool) : Option HCount :=
  s.hcounts.find? fun h => h.level = 1 ∧ h.seq = seq ∧ h.recAddr = addr ∧ h.pre = pre
/-- The core stands outside a phase body: its launches are those of start code, whose handles phase 0 uses again (R371). -/
def Core.pre (c : Core) : Bool := decide (c.place ≠ .body)
def State.modHandle (s : State) (id : Nat) (pre : Bool) (f : HCount → HCount) : State :=
  match s.hcounts.find? (fun h => h.level = 1 ∧ h.id = id ∧ h.pre = pre) with
  | none => s
  | some h => { s with hcounts := s.hcounts.map fun g => if g = h then f g else g }
/-- The core runs a tile of the launch. -/
def Core.runsTile (c : Core) (id : Nat) (pre : Bool) : Bool := c.pre = pre && c.slice.any fun sl => sl.handle = id
/-- Some core runs a tile of the launch. -/
def State.tilesRun (s : State) (id : Nat) (pre : Bool) : Bool :=
  (allCores.any fun k => (s.core k).ctx = s.curCtx && (s.core k).runsTile id pre) ||
    s.ctxs.any fun x => s.curCtx = some x.num && x.saved.any fun c => c.2.runsTile id pre
/-- A launch is complete when its count is 0 and no tile of it runs (R374, R375). -/
def State.settleLaunch (s : State) (id : Nat) (pre : Bool) : State :=
  if s.tilesRun id pre then s else s.modHandle id pre fun h => if h.count = 0 then { h with done := true } else h
/-- A launch cancelled outside a timed phase starts no further tile (R375). -/
def State.launchCut (s : State) (id : Nat) (pre : Bool) : Bool :=
  pre && s.hcounts.any fun h => h.level = 1 && h.id = id && h.canc && h.pre

/-! ### LNCH (R371) -/

/-- LNCH at issue: range and buffer are checked as for a load (R224); the record is read at c+1. -/
def execLnch (g : PReg) (d a : XReg) (s : State) : Out :=
  .next (runSlot (.lnch g d a) s fun s =>
    s.submitRow a fun x => s.later 7 1 (.lnch true (match s.cur.xRef false d with | .x n => n | _ => 0) x))
/-- LNCH at c+1: the record is read, the handle goes to xd at c+2, and the slice starts or the stream goes on after it
(R371 to R373). A handle is the phase's number and the launch's ordinal. A record that faults has no further effect (R505).
Beside a taken branch, a launch that gives the core no tile leaves the branch as it is (R100), and one that gives it a tile
starts it (R373; DEDUCED, log 29). A stream that firmware has sent elsewhere does not follow its launch (R170). -/
def State.lnchLand (s : State) (k : CoreId) (e : Pend) (start : Bool) (xd addr : Nat) : State :=
  let c := s.core k
  let cont := e.pc + 32
  let rec512 := (c.spRow (addr / 128)).toNat / 2 ^ (if addr / 64 % 2 = 1 then 512 else 0) % 2 ^ 512
  let at' := addr / 64 * 64
  let body := decide (c.place = .body)
  let seq := s.phSeq.toNat
  let known := s.launchOf seq at' (!body)
  let n := (s.hcounts.filter fun h => h.level = 1 ∧ h.seq = seq ∧ h.pre = !body).length
  if c.spBad.contains (addr / 128) then s.poisonAt k false 7 e.iss e.iss e.pc
  else match LRec.parse (s.sidesOff body) rec512 with
    | none => s.deferTrap k false e.iss 0x62 7 0x03
    | some r =>
    if known.isNone ∧ 256 ≤ n then s.deferTrap k false e.iss 0x62 7 0x04
    else
      -- the next bundle issues three cycles after the hold
      let s := if start then s.modStrm k false fun t => { t with ready := max t.ready (t.holdTo + 3) } else s
      let h : HCount := known.getD
        { level := 1, id := seq % 2 ^ 24 * 256 + n, seq := seq, count := listProd (r.count.take r.depth), done := false
          canc := false, recAddr := at', pre := !body, set := s.coreSet body r, ended := [], zero := false }
      let s := if known.isNone then { s with hcounts := h :: s.hcounts } else s
      let s := s.modStrm k false fun t =>
        { t with pend := t.pend ++ [{ due := e.due + 1, iss := e.iss, pc := e.pc, slot := 7, eff := .x false xd (BitVec.ofNat 64 h.id) }] }
      let sl := sliceOf (listProd (r.count.take r.depth)) (max h.set.length 1) (rankIn h.set k)
      if !start || !h.set.contains k || sl.2 = 0 || s.launchCut h.id h.pre then s
      else if wb (r.task.setWidth 64) 4 0 ≠ 0 then s.deferTrap k false e.iss 0x08 7 (r.task.setWidth 64)
      else ((if body then s.auditBegin k seq (h.id % 256) sl.1 sl.2 at' rec512 e.iss e.pc else s).auditRes k false e.iss 7
          (BitVec.ofNat 64 h.id)).modCore k fun c =>
        { c with slice := some { handle := h.id, cont := cont, task := r.task, depth := r.depth, perm := r.perm
                                 count := r.count, first := sl.1, len := sl.2, cur := sl.1 } }
          |>.enterTile sl.1 e.pc |>.modStrm false fun t => { t with pc := r.task }

/-! ### TEND (R158, R373) -/

/-- TEND: the tile counts as ended, once for each index (R454); the next tile of the slice, or CONT, follows after three
bubbles. -/
def execTend (h : CHdr) (s : State) : Out :=
  .next (runSlot (.tend h) s fun s =>
    match s.cur.slice with
    | none => s
    | some sl =>
      let pre := s.cur.pre
      let cut := (s.ctxView s.cur.ctx).launchCut sl.handle pre
      let s := s.asCtx s.cur.ctx fun s => s.modHandle sl.handle pre fun c =>
        if c.ended.contains sl.cur then c else { c with count := c.count - 1, ended := sl.cur :: c.ended }
      let s := s.modMe fun t => { t with ready := t.ready + 3 }
      if sl.cur + 1 < sl.first + sl.len ∧ !cut then
        (s.modMe fun t => { t with npc := sl.task }).later 0 1 (.tile (sl.cur + 1))
      else
        -- TEND ends an active loop (R155)
        let s := (s.modMe fun t => { t with npc := sl.cont }).modCur fun c =>
          { c with slice := none, loop := { c.loop with act := false } }
        s.asCtx s.cur.ctx (·.settleLaunch sl.handle pre))

/-! ### Cancelling launches (R54, R375) -/

/-- The launches that a predicate names are cancelled: outside a timed phase the count is 0 at once; inside, every tile
still runs and the status applies at the boundary. -/
def State.cancelLaunches (s : State) (p : HCount → Bool) : State :=
  let mark := fun (h : HCount) =>
    if h.level = 1 && p h && !h.done then { h with canc := true, count := if h.pre then 0 else h.count } else h
  let s := { s with hcounts := s.hcounts.map mark }
  (s.hcounts.filter fun h => h.level = 1 && p h).foldl (fun s h => s.settleLaunch h.id h.pre) s
/-- At the last arrival of a phase its cancelled launches and graph complete (R375). -/
def State.closeLaunches (s : State) (seq : Nat) : State :=
  { s with hcounts := s.hcounts.map fun h =>
      if h.canc && h.seq = seq && !h.pre && (h.level = 1 || h.level = 2) then { h with count := 0, done := true } else h }

end Sys2Proof.Machine
end

