-- ==== Sys2Proof/Machine/TileQueues.lean ====
section
/-!
DEFINITION. Machine/TileQueues.lean: tile-queue endpoints: binding words, TQBIND and TQFL (R408 to R411), the rows of a
queue and its credit (R412 to R417), and the messages TQROW, TQACK and TQCLOSE (R390).
-/
namespace Sys2Proof.Machine

/-! ### Binding words (R409) -/

def bwDev (w : Word) : Nat := wb w 9 0
def bwCore (w : Word) : CoreId := coreOf (wb w 16 10)
def bwPep (w : Word) : Nat := wb w 19 17
def bwClass (w : Word) : Nat := wb w 21 20
def bwPort (w : Word) : Nat := wb w 26 22
def bwTq (w : Word) : Nat := wb w 29 27
def bwOut (w : Word) : Bool := w.getLsbD 30
def bwPair (w : Word) : Bool := w.getLsbD 31
/-- The checks of TQBIND that need no endpoint's state (R362, R410). -/
def State.bindMalformed (s : State) (k : CoreId) (w : Word) : Bool :=
  wb w 63 32 ≠ 0 || (24 ≤ bwPort w && bwPort w ≤ 30) || (decide (bwPort w = 31) != decide (bwDev w = wb s.devid 9 0)) ||
    (bwPair w && (bwOut w || bwTq w % 2 = 1)) ||
    (bwPort w = 31 && bwCore w = k && bwPep w = bwTq w)
/-- The endpoints that a word binds. -/
def bwEnds (w : Word) : List Nat := if bwPair w then [bwTq w, bwTq w + 1] else [bwTq w]
/-- An endpoint that the word binds is bound or flushing (R410). -/
def State.bindBusy (s : State) (k : CoreId) (w : Word) : Bool :=
  (bwEnds w).any fun q => ((s.core k).tqAt q).bound || ((s.core k).tqAt q).flush

/-! ### Messages of a queue (R390, R408) -/

/-- A message on its way inside the package, due in wall cycle w or after the one before it of its endpoint: a row to a cycle
(R408). -/
def State.tqCarry (s : State) (w op : Nat) (m : Msg) : State :=
  let prev := (s.tqNet.filter (fun e => e.2.2.a.toNat % 2 ^ 10 = m.a.toNat % 2 ^ 10 && e.2.1 = op)).getLast?
  { s with tqNet := s.tqNet ++ [(match prev with | some e => max w (e.1 + 1) | none => w, op, m)] }
/-- The bridge port that the messages to an endpoint take: one of those that are not held down, by a choice that the manual does not
give (R397; log 3). -/
def State.bridgeFor (s : State) (m : Msg) : Nat :=
  let ps := (List.range 32).filter fun i => !(rd s.bridge i .reset).held
  ps.getD (Config.portOf 2048 (m.a.toNat % 2 ^ 10) % max ps.length 1) 0
/-- A message of endpoint q of core k to its peer: through its port, or inside the package, where it takes 8 cycles in a die, or
goes by a bridge port (R397, R408). -/
def State.tqSend (s : State) (k : CoreId) (w : Word) (op : Nat) (a : Nat) (b : Nat) (data : List (BitVec 128)) : State :=
  let m := s.mkMsg (bwClass w) (bwDev w) data.length a b data
  if bwPort w ≠ 31 then s.postMsg (bwPort w) op m
  else if k.val / 64 = (bwCore w).val / 64 then s.tqCarry (s.cyc.toNat + 8) op m
  else { s with bridge := wr s.bridge (s.bridgeFor m) (let p := rd s.bridge (s.bridgeFor m) .reset; { p with outMsgs := p.outMsgs ++ [(op, m)] }) }
/-- Bridge port i sends one message in a cycle while it carries traffic, of class 0 first: it arrives 24 cycles after it was handed
to the port, with 48 more for each replay (R397, R401). -/
def State.bridgeSend (s : State) (i : Nat) : State :=
  let p := rd s.bridge i .reset
  match (p.outMsgs.find? fun m => m.2.cls.toNat = 0).or p.outMsgs.head? with
  | none => s
  | some m =>
    if !p.up || p.train || p.held then s
    else
      let r := s.crossBy i
      State.tqCarry { r.1 with bridge := wr r.1.bridge i (let p := rd r.1.bridge i .reset; { p with outMsgs := p.outMsgs.erase m }) }
        (s.cyc.toNat + 23 + 48 * r.2) m.1 m.2
/-- The peer endpoint as A of R390 gives it. -/
def bwPeer (w : Word) : Nat := (bwCore w).val + bwPep w * 2 ^ 7
/-- The core stands pre-empted: its endpoints send nothing and grant nothing (R416). -/
def Core.parked (c : Core) : Bool := c.freezes.any fun f => f.src = .preempt && f.eff.isSome && f.clr.isNone
/-- Rows that have credit leave, in order (R413); a row stays until a TQACK reports it landed. -/
def State.tqPush (s : State) (k : CoreId) (q : Nat) : State :=
  let e := (s.core k).tqAt q
  if !(e.bound && e.outbound) || (s.core k).parked then s else
  let unsent := e.rows.drop (e.moved - e.acked)
  let go := unsent.take e.credit
  let s := go.zipIdx.foldl (fun s r =>
    s.tqSend k e.bind 1 (bwPeer e.bind) ((e.moved + r.2) % 2 ^ 16) (unitsOf r.1.2.toNat 8)) s
  s.modCore k (·.modTq q fun e => { e with moved := e.moved + go.length, credit := e.credit - go.length })
/-- A row is written to an outbound endpoint (R413). -/
def State.tqWrite (s : State) (k : CoreId) (q iss slot : Nat) (r : Row) : State :=
  let e := (s.core k).tqAt q
  let s := s.sign k iss slot 2 (e.bind.toNat % 2 ^ 32 + e.count % 2 ^ 16 * 2 ^ 32) (BitVec.allOnes 128) r
  (s.modCore k (·.modTq q fun e => { e with rows := e.rows ++ [(s.cyc.toNat, r)], count := e.count + 1 })).tqPush k q

/-! ### Binding and flushing (R410, R411) -/

/-- A TQACK to the peer of a binding: rows landed and rows freed since the last one (R390). -/
def State.tqAckSend (s : State) (k : CoreId) (w : Word) (landed freed : Nat) : State :=
  s.tqSend k w 9 (bwPeer w + landed * 2 ^ 10 + freed * 2 ^ 20) 0 []
/-- The endpoints of a word are bound; an inbound one grants 64 rows of credit, a pair 128 (R410). -/
def State.tqBindNow (s : State) (k : CoreId) (w : Word) : State :=
  let s := (bwEnds w).foldl (fun s q => s.modCore k (·.modTq q fun e =>
    { Endpoint.reset with
      bound := true, bind := w, everBound := true, stale := e.stale
      credit := if bwOut w then e.grant else 0, freed := if bwOut w then e.grant else 0, grant := if bwOut w then 0 else e.grant })) s
  if bwOut w then s else s.tqAckSend k w 0 (if bwPair w then 128 else 64)
/-- An inbound endpoint is unbound and its rows are discarded, after a last report of those that landed; an outbound one
begins to flush (R410). -/
def State.tqFlushNow (s : State) (k : CoreId) (q : Nat) : State :=
  let e := (s.core k).tqAt q
  if !e.bound then s
  else if e.outbound then s.modCore k (·.modTq q fun e => { e with flush := true })
  else
    let s := if e.acked = 0 && e.freed = 0 then s else s.tqAckSend k e.bind e.acked e.freed
    (bwEnds e.bind).foldl (fun s q => s.modCore k (·.modTq q fun e =>
      { Endpoint.reset with everBound := true, stale := if e.closed then none else some e.bind })) s
/-- Rows still on their way to an outbound endpoint: drains in flight and held rows (R410, R455). -/
def Core.tqComing (c : Core) (q : Nat) : Nat :=
  (c.prim.pend.filter (fun e => match e.eff with | .drain o => o.dkind = 2 && o.dnum = q | _ => false)).length +
    (c.seg.held.filter (fun h => h.isTq && h.k = q)).length
/-- The service of an endpoint at the end of a cycle: rows landed and freed are reported, and a flush that has nothing
left to wait for completes with a TQCLOSE (R410, R413). -/
def State.tqService (s : State) (k : CoreId) (q : Nat) : State :=
  let e := (s.core k).tqAt q
  if !e.bound || (s.core k).parked then s
  else if !e.outbound then
    if e.acked = 0 && e.freed = 0 then s
    else (s.tqAckSend k e.bind e.acked e.freed).modCore k (·.modTq q fun e => { e with acked := 0, freed := 0 })
  else if e.flush && e.rows.isEmpty && (s.core k).tqComing q = 0 then
    (s.tqSend k e.bind 8 (bwPeer e.bind) 0 []).modCore k (·.modTq q fun _ => { Endpoint.reset with everBound := true })
  else s.tqPush k q
def State.tqServiceAll (s : State) : State :=
  allCores.foldl (fun s k =>
    if ((s.core k).tq.toList.any (fun e => e.bound)) then (List.range 8).foldl (fun s q => s.tqService k q) s else s) s

/-- TQBIND (R410). -/
def execTqbind (g : PReg) (a : XReg) (s : State) : Out :=
  .next (runSlot (.tqbind g a) s fun s =>
    let w := s.x a
    if s.bindMalformed s.focus.1 w || s.bindBusy s.focus.1 w then s.execTrap 0x73 7 w else s.later 7 2 (.tqbind w))
/-- TQFL (R410). -/
def execTqfl (g : PReg) (q : QReg) (s : State) : Out :=
  .next (runSlot (.tqfl g q) s fun s =>
    let e := s.cur.tqAt q.toNat
    if !e.bound || (bwPair e.bind && bwTq e.bind ≠ q.toNat) then s.execTrapFree 0x73 7 else s.later 7 2 (.tqflush q.toNat))

/-! ### Arrivals (R390, R412 to R417) -/

/-- TQ_PROTOCOL to firmware: the message is discarded (R417). -/
def State.tqProtocol (s : State) (m : Msg) : State :=
  s.firmware 2 (m.a.toNat % 2 ^ 7) false 0x70 (m.a.setWidth 64) [m.b]
/-- The even member of a pair, which counts the rows of its queue. -/
def Core.tqHead (c : Core) (q : Nat) : Nat := if bwPair (c.tqAt q).bind then bwTq (c.tqAt q).bind else q
/-- The endpoint belongs to a queue from the package src. -/
def Endpoint.hears (e : Endpoint) (src : Nat) : Bool := (e.bound && bwDev e.bind = src) || e.stale.any (fun w => bwDev w = src)
/-- A message reaches endpoint q of core k: the one of the context that the core runs, or of one that is switched out, whose
rows then go to its saved state (R416). -/
def State.atEndpoint (s : State) (k : CoreId) (q src : Nat) (f : State → State) : State :=
  if ((s.core k).tqAt q).hears src then f s
  else match s.ctxs.findSome? (fun x =>
      (x.saved.find? fun c => c.1 = k && (c.2.tqAt q).hears src).map fun c => (x.num, c.2)) with
    | none => f s
    | some (n, c) =>
      let live := s.core k
      let s := f (s.setCore k c)
      let c := s.core k
      let s : State := { s with ctxs := s.ctxs.map fun x =>
        if x.num = n then { x with saved := x.saved.map fun p => if p.1 = k then (k, c) else p } else x }
      s.setCore k live
/-- Where the record of a core that is switched out, and whose endpoint q belongs to a queue from src, has its endpoints' rows. -/
def State.tqRecord (s : State) (k : CoreId) (q src : Nat) : Option Nat :=
  if ((s.core k).tqAt q).hears src then none
  else (s.ctxs.find? fun x => x.saved.any fun c => c.1 = k && (c.2.tqAt q).hears src).map fun x => x.recb + 0x48_0000 * k.val + 0x1_9000
/-- TQROW: the next row of a queue lands in its endpoint, or in the endpoints of a pair in turn (R409, R412). -/
def execTqrow (m : Msg) (s : State) : Out :=
  .next (
    let k := coreOf (m.a.toNat % 2 ^ 7)
    let q := bitsOf m.a.toNat 9 7
    let src := m.src.toNat
    let at' := s.tqRecord k q src
    s.atEndpoint k q src fun s =>
      let c := s.core k
      let e := c.tqAt q
      let data : Row := BitVec.ofNat 1024 ((m.data.zipIdx).foldl (fun r u => r + u.1.toNat * 2 ^ (128 * u.2)) 0)
      -- a row of the old peer is discarded until its TQCLOSE arrives
      if e.stale.any (fun w => bwDev w = src) then s
      else if !e.bound || e.outbound || bwDev e.bind ≠ src then s.tqProtocol m
      else
        let head := c.tqHead q
        let n := (c.tqAt head).moved
        if m.b.toNat % 2 ^ 16 ≠ n % 2 ^ 16 then s.tqProtocol m
        else
          let dst := if bwPair e.bind then head + n % 2 else q
          -- a row for a core that is switched out is written into its place in the record (R416)
          let s := match at' with
            | some a => s.store (a + 8192 * dst + 128 * (c.tqAt dst).rows.length) 128 data.toNat (2 ^ 128 - 1)
            | none => s
          s.modCore k fun c =>
            (c.modTq head fun e => { e with moved := e.moved + 1, acked := e.acked + 1 }).modTq dst fun e =>
              { e with rows := e.rows ++ [(s.cyc.toNat, data)] })
/-- TQCLOSE: no more rows come from the old peer (R410). -/
def execTqclose (m : Msg) (s : State) : Out :=
  .next (
    let k := coreOf (m.a.toNat % 2 ^ 7)
    let q := bitsOf m.a.toNat 9 7
    s.atEndpoint k q m.src.toNat fun s =>
      -- both endpoints of a pair had the old binding
      let qs := match ((s.core k).tqAt q).stale with | some w => bwEnds w | none => [q]
      qs.foldl (fun s q =>
        s.modCore k (·.modTq q fun e => if e.stale.isSome then { e with stale := none } else { e with closed := true })) s)
/-- TQACK: rows reported landed leave the outbound endpoint, and rows freed are credit; the first grant fixes how much
credit there can be (R413, R417). The grant of a peer that binds first is kept for the outbound binding that follows (DESIGN CHOICE,
log 67). -/
def execTqack (m : Msg) (s : State) : Out :=
  .next (
    let k := coreOf (m.a.toNat % 2 ^ 7)
    let q := bitsOf m.a.toNat 9 7
    s.atEndpoint k q m.src.toNat fun s =>
      let landed := bitsOf m.a.toNat 19 10
      let freed := bitsOf m.a.toNat 29 20
      let e := (s.core k).tqAt q
      let cap := if e.freed = 0 then freed else e.freed
      if !e.bound || !e.outbound then
        if landed ≠ 0 then s.tqProtocol m
        else if freed = 64 || freed = 128 then s.modCore k (·.modTq q fun e => { e with grant := freed })
        else s
      else if e.moved < e.acked + landed || cap < e.credit + freed || 128 < cap then s.tqProtocol m
      else
        (s.modCore k (·.modTq q fun e =>
          { e with rows := e.rows.drop landed, acked := e.acked + landed, credit := e.credit + freed, freed := cap
                   log := if landed = 0 then e.log else ((s.cyc.toNat, landed) :: e.log).take 64 })).tqPush k q)

end Sys2Proof.Machine
end

