-- ==== Sys2Proof/Machine/Segments.lean ====
section
/-!
DEFINITION. Machine/Segments.lean: segments of a phase body: the snapshot (R452), held sends and their commit (R455,
R457), the ingress log (R458), SEGB (R156), PHEND (R157) and the rewind (R459, R302).
-/
namespace Sys2Proof.Machine

/-! ### Opening and committing (R451, R452, R457) -/

/-- The active bank goes to the checkpoint set; with none active the checkpoint is empty (R301). -/
def Matrix.checkpoint (x : Matrix) : Matrix :=
  { x with ck := if x.z0.act then some (false, x.z0) else if x.z1.act then some (true, x.z1) else none }
/-- The snapshot of a segment that opens now; the next bundle has the given instant and address. -/
def Core.takeSnapshot (c : Core) (inst holdTo ready : Nat) (pc : BitVec 52) : Snapshot :=
  let t := c.prim
  { x := t.x, p := t.p, v := t.v, o := t.o, j := t.j, m := t.m, t := t.t, ras := t.ras, loop := c.loop
    axflag := t.axflag, srctr := t.srctr, s0pc := pc, inst := inst, holdTo := holdTo, ready := ready
    ann := c.freezes.filter (fun f => f.eff.isNone), pend := t.pend, q := c.q.toList
    slice := c.slice, stsig := c.signAll.stsig, audit := c.audit, reads := c.tq.toList.map (fun e => e.count) }
/-- A segment opens: the snapshot and the checkpoint are taken (R451, R452). A replay that has not reached its instant yet goes on
to it (R460). -/
def Core.openSegment (c : Core) (inst holdTo ready : Nat) (pc : BitVec 52) : Core :=
  let sn := c.takeSnapshot inst holdTo ready pc
  { c with
    mx := c.mx.checkpoint, segpc := pc
    seg := { c.seg with isOpen := true, valid := true, fix := false, rpl := false, ingress := []
                        logpos := List.replicate 8 0, snap := some sn, s0 := inst, bad := false } }
/-- A row of a stream goes to its home: a write, or a reduction (R237, R238). -/
def State.sendRow (s : State) (k : CoreId) (h : Held) : State :=
  let s := s.sign k h.iss h.slot 1 h.addr (BitVec.allOnes 128) h.row
  let s := s.modCore k (·.modUnit h.k fun u => if u.gen = h.gen then { u with unack := u.unack ++ [h.pos] } else u)
  s.send (.unit k h.k h.gen) (if h.op = 0 then .write h.row (BitVec.allOnes 128) else .reduce (h.op = 1) h.row) h.pa [] h.pos 0 h.lead
/-- Held rows are handed to their streams and endpoints, in egress order (R457). -/
def State.commitHeld (s : State) (k : CoreId) (n : Nat) : State :=
  let rows := (s.core k).seg.held.take n
  let s := s.modCore k fun c => { c with seg := { c.seg with held := c.seg.held.drop n } }
  rows.foldl (fun s h => if h.isTq then s.tqWrite k h.k h.iss h.slot h.row else s.sendRow k h) s

/-- Why a rewind is refused: POISON when the snapshot carries the poison or the segment has rewound once, else
SEG_REPLAY_FAIL with its reason (R459). -/
def Core.rewindRefused (c : Core) (carried : Bool) : Option (Nat × Nat) :=
  if carried || c.seg.rpl then some (0x27, 0)
  else match c.seg.snap with
    | none => some (0x79, 1)
    | some _ => if !c.seg.valid then some (0x79, 1) else if c.seg.fix then some (0x79, 2) else if c.seg.bad then some (0x79, 3) else none
/-- Another slot of the present bundle has consumed poison, and the segment will rewind: the bundle issues again in the replay, so
that its SEGB or PHEND, which acts after every other slot, does not act yet (R156, R157, R459; DEDUCED, log 69). -/
def State.rewindsFirst (s : State) : Bool :=
  s.agenda.any fun e => match e with
    | .freezeAnnounce k .replay n =>
      decide (k = s.focus.1) && (s.cur.rewindRefused (decide (n / 8 % 2 = 1))).isNone && decide (n / 2 ^ 56 = s.me.inst)
    | _ => false
/-- SEGB: the open segment commits at c+1 and another opens, once every other slot of the bundle has committed (R156);
`step` runs this slot last of its bundle. -/
def execSegb (h : CHdr) (s : State) : Out :=
  .next (runSlot (.segb h) s fun s =>
    if s.rewindsFirst then s else
    let n := s.cur.seg.held.length
    let t := s.me
    let s := s.modCur fun c => c.openSegment (t.inst + 1) t.holdTo t.ready (t.pc + 32)
    if n = 0 then s else s.later 0 1 (.commit n))

/-! ### PHEND (R157) -/

/-- PHEND: the phase body or the start code ends. The segment commits at c+1; the streams are freed once the rows in
flight have landed (R98, R241); the core leaves its group (R43), and the selecting core's selection is fixed at c+2
(R365). `step` runs this slot last of its bundle. A core that another slot of the bundle has stopped stays stopped, with its
group until that goes on (R43, R170). -/
def execPhend (h : CHdr) (s : State) : Out :=
  .next (runSlot (.phend h) s fun s =>
    if s.rewindsFirst then s else
    let k := s.focus.1
    let body := decide (s.cur.place = .body)
    let n := s.cur.seg.held.length
    let free := s.me.pend.foldl (fun m e => max m (e.lands.2 - s.me.inst)) 2
    let s := if body && n ≠ 0 then s.later 0 1 (.commit n) else s
    let s := (List.range 8).foldl (fun s q => if (s.cur.unit q).bound then s.later 0 free (.sfree q) else s) s
    let s := if s.selects k then s.later 0 2 .fix else s
    s.modCur fun c =>
      { c with
        place := .window, group := if c.prim.run = .trapped then c.group else none, slice := none
        freezes := c.freezes.filter Freeze.byWall
        prim := { c.prim with run := if c.prim.run = .trapped then .trapped else .slack, back := .slack }
        seg := { c.seg with isOpen := false, valid := false, fix := false, rpl := false, ingress := []
                            logpos := [], snap := none, bad := false } })

/-! ### Rewind (R459, R460) -/

/-- A unit goes back to its positions at the opening of the segment; its staging and the positions that failed in between
are judged afresh; what was requested since is asked for again at the first replay instant (R452, R459). -/
def SUnit.rewind (u old : SUnit) (first : Nat) : SUnit :=
  { old with
    gen := u.gen, filled := old.next, req := u.req, asked := u.asked, took := 0
    landed := u.landed.filter (fun l => l.1 < old.req), unack := u.unack, acks := u.acks, group := none
    stage := if u.transpose then [] else u.stage.filter (fun r => old.next ≤ r.pos && u.due r.pos - u.lead ≤ first)
    lost := old.lost }
/-- The registers, timing, streams and checkpoint bank of the snapshot are restored (R302, R459). -/
def Core.rewind (c : Core) (sn : Snapshot) (stop : Nat) : Core :=
  let t := c.prim
  let mx := match c.mx.ck with
    | none => c.mx
    | some (b, z) => c.mx.setBank b z |>.activate b
  { c with
    loop := sn.loop, mx := mx, oldUnits := c.oldUnits.filter (fun o => o.2.1 < sn.inst), slice := sn.slice, stsig := sn.stsig, audit := sn.audit, signs := []
    q := Vector.ofFn fun i => (rd c.q i.val .reset).rewind (sn.q.getD i.val .reset) sn.inst
    tq := Vector.ofFn fun i =>
      let e := rd c.tq i.val .reset
      if e.outbound then e else { e with count := sn.reads.getD i.val e.count, took := 0 }
    prim := { t with
      x := sn.x, p := sn.p, v := sn.v, o := sn.o, j := sn.j, m := sn.m, t := sn.t, ras := sn.ras
      axflag := sn.axflag, srctr := sn.srctr, pc := sn.s0pc, inst := sn.inst - 1, holdTo := sn.holdTo, ready := sn.ready
      pend := sn.pend }
    seg := { c.seg with held := [], logpos := List.replicate 8 0, rpl := true, rewinds := min (c.seg.rewinds + 1) 0xFFFF
                        replayTo := some stop, sent := t.inst } }

end Sys2Proof.Machine
end

