-- ==== Sys2Proof/Machine/Transfer.lean ====
section
/-!
DEFINITION. Machine/Transfer.lean: job cards and their checks (R309 to R316), the scheduler and its edges (R306 to R308,
R318 to R320), barriers (R321 to R323), records (R325 to R328), the copy engines (R312 to R317, R329, R330) and snapshots
(R331, R332).
-/
namespace Sys2Proof.Machine

/-! ### Arrivals at the boundary (R46, R367) -/

/-- The boundary with an arrival made in cycle `now`. -/
def Boundary.arrive (b : Boundary) (a : Arrival) (now : Nat) : Boundary :=
  { b with missing := b.missing.filter (· ≠ a), stamps := b.stamps ++ [(a, now)] }
/-- An arrival is stamped with the present cycle; engine work of a context that is switched out arrives at the boundary kept
with it (R55). -/
def State.arrive (s : State) (a : Arrival) : State :=
  if s.bound.any (fun b => b.missing.contains a) then { s with bound := s.bound.map fun b => b.arrive a s.cyc.toNat }
  else match a with
    | .job _ _ | .sampler _ _ =>
      if s.ctxs.isEmpty then s
      else { s with ctxs := s.ctxs.map fun x => { x with seq := x.seq.map fun q => { q with
        bound := q.bound.map fun b => if b.missing.contains a then b.arrive a s.cyc.toNat else b } } }
    | _ => s

/-! ### Contexts, running or switched out (R377, R321, R325) -/

/-- The core runs the context of the stamp. -/
def State.live (s : State) (st : Stamp) : Bool := st.ctx.isNone || decide ((s.core st.core).ctx = st.ctx)
/-- A bundle that the primary of core k issued one instant ago was in a phase body: that of its PHEND is (R157, R319, R424). -/
def State.issuedInBody (s : State) (k : CoreId) : Bool :=
  let c := s.core k
  c.place = .body || (c.place = .window && c.startAt.isNone && (s.runningOf c.ctx).isSome)
/-- A word of a context's descriptor. -/
def State.ctxWord (s : State) (ctx : Option Nat) (off : Nat) : Word :=
  s.getWord (wb s.ctxbase 51 7 * 2 ^ 7 + 128 * ctx.getD 0 + off)

/-! ### Records (R325 to R328) -/

/-- UICTL, saved in the ring, of a core whose context is switched out (R325). -/
def State.savedUictl (s : State) (st : Stamp) : Nat := wb (s.ctxWord st.ctx 24) 51 12 * 2 ^ 12 + 4096 * st.core.val + 2048
/-- A source of records is enabled (R326). -/
def State.srcOn (s : State) (st : Stamp) (src : Nat) : Bool :=
  if s.live st then (s.core st.core).uien.getLsbD src else (s.getWord (s.savedUictl st)).getLsbD src
/-- UIVEC.EN and UISTAT.INH of a core whose context is switched out, as its pre-emption left them (R325, R326). -/
def State.savedUi (s : State) (st : Stamp) : Bool × Bool :=
  match (s.ctxs.find? fun x => st.ctx = some x.num).bind fun x => x.saved.find? fun c => c.1 = st.core with
  | some c => (c.2.uivEn, c.2.inh)
  | none => (true, false)
/-- A record for the companion of the stamp's core; src is its bit of UICTL.SRC. It goes to firmware when the companion
takes no interrupts, its source is disabled or the ring is full; to a context that is switched out through its ring and
its saved UICTL. -/
def State.record (s : State) (st : Stamp) (src : Nat) (ws : List Word) : State :=
  let k := st.core
  let c := s.core k
  let cause := (ws.headD 0).toNat % 128
  if s.live st then
    let n := (c.uiHead - c.uiTail).toNat % 64
    if !c.uivEn || !s.srcOn st src then s.firmware 3 k.val true cause 0 ws
    else if n + c.inh.toNat = 32 then
      (s.firmware 3 k.val true 0x45 0 ws).modCore k fun c => { c with uiOvf := true }
    else
      let a := wb c.uiRing 51 12 * 2 ^ 12 + 64 * (c.uiHead.toNat % 32)
      (s.putWords a ws).modCore k fun c => { c with uiHead := c.uiHead + 1, uiq := c.uiq ++ [(ws, a)] }
  else
    let ring := s.savedUictl st - 2048
    let u := s.getWord (s.savedUictl st)
    let n := (64 + wb u 21 16 - wb u 29 24) % 64
    let ui := s.savedUi st
    if !ui.1 || !s.srcOn st src then s.firmware 3 k.val true cause 0 ws
    else if n + ui.2.toNat = 32 then (s.firmware 3 k.val true 0x45 0 ws).putWords (ring + 2048) [u ||| 0x100]
    else
      let s := s.putWords (ring + 64 * (wb u 21 16 % 32)) ws
      s.putWords (ring + 2048) [fields [(wb u 29 24, 24, 6), ((wb u 21 16 + 1) % 64, 16, 6), (wb u 15 0, 0, 16)]]

/-! ### Barriers (R321 to R323) -/

/-- The state word of a barrier (R321). -/
structure Bar where
  arm : Bool
  fired : Bool
  fault : Bool
  canc : Bool
  uie : Bool
  count : Nat
  deriving DecidableEq, Repr
def Bar.ofWord (w : Word) : Bar :=
  { arm := w.getLsbD 63, fired := w.getLsbD 62, fault := w.getLsbD 61, canc := w.getLsbD 60, uie := w.getLsbD 59, count := wb w 35 0 }
def Bar.word (b : Bar) : Word :=
  fields [(b.arm.toNat, 63, 1), (b.fired.toNat, 62, 1), (b.fault.toNat, 61, 1), (b.canc.toNat, 60, 1), (b.uie.toNat, 59, 1),
    (b.count, 0, 36)]
/-- Where a switched-out context's barrier word stands. -/
def State.barAddr (s : State) (st : Stamp) (i : Nat) : Nat :=
  wb (s.ctxWord st.ctx 16) 51 10 * 2 ^ 10 + 1024 * st.core.val + 8 * i
def State.barGet (s : State) (st : Stamp) (i : Nat) : Bar :=
  Bar.ofWord (if s.live st then rd (s.core st.core).bars i 0 else s.getWord (s.barAddr st i))
def State.barPut (s : State) (st : Stamp) (i : Nat) (b : Bar) : State :=
  if s.live st then s.modCore st.core fun c => { c with bars := wr c.bars i b.word }
  else s.putWords (s.barAddr st i) [b.word]
/-- The barrier after a decrement by d, whether it underflowed and whether it fired (R323). -/
def Bar.dec (b : Bar) (d : Nat) (fault canc : Bool) : Bar × Bool × Bool :=
  if !b.arm || b.count < d then ({ b with count := 0, fault := true }, true, false)
  else
    let n := { b with count := b.count - d, fault := b.fault || fault, canc := b.canc || canc }
    let fired := n.count = 0 && 0 < d
    ({ n with fired := n.fired || fired }, false, fired)
/-- Words 0 to 2 of a record (R328). -/
def recordHead (st : Stamp) (cause bar : Nat) (fault : Bool) : List Word :=
  [fields [(cause, 0, 7), (bar, 8, 7), (fault.toNat, 15, 1), (st.serial, 32, 32)],
   fields [(st.pc.toNat, 0, 52), (7, 52, 3), (st.comp.toNat, 55, 1)], BitVec.ofNat 64 st.cyc]
/-- A completion decrements barrier i of the submitting core by d (R323); `ws` are words 3 to 6 of the record that it may
make (R328). The record of a barrier that a sampler request fires has the source bit SMP in place of BAR (R425). -/
def State.barDec (s : State) (st : Stamp) (i d : Nat) (fault canc : Bool) (src : Nat) (ws : List Word) : State :=
  let r := (s.barGet st i).dec d fault canc
  let s := s.barPut st i r.1
  if r.2.1 then s.record st src (recordHead st 0x44 i r.1.fault ++ ws ++ [0])
  else if r.2.2 && r.1.uie && s.srcOn st (if src = 3 then 3 else 0) then s.record st (if src = 3 then 3 else 0) (recordHead st 0 i r.1.fault ++ ws ++ [r.1.word])
  else s

/-- BARM's effect at c+2 (R322). -/
def Bar.armed (b : Bar) (add ui : Bool) (v : Nat) : Bar :=
  let n := b.count + v
  if add then
    { b with count := if 2 ^ 36 ≤ n then 2 ^ 36 - 1 else n, fault := b.fault || decide (2 ^ 36 ≤ n), fired := false, arm := true, uie := ui }
  else { arm := true, fired := false, fault := false, canc := false, uie := ui, count := v }
/-- BARM.SET (R322). -/
def execBarmSet (g : PReg) (bar : BitVec 7) (a : XReg) (ui : Bool) (s : State) : Out :=
  .next (runSlot (.barmSet g bar a ui) s fun s => s.later 7 2 (.barm bar.toNat false ui (s.x a)))
/-- BARM.ADD (R322). -/
def execBarmAdd (g : PReg) (bar : BitVec 7) (a : XReg) (ui : Bool) (s : State) : Out :=
  .next (runSlot (.barmAdd g bar a ui) s fun s => s.later 7 2 (.barm bar.toNat true ui (s.x a)))
/-- The physical destination of a Q-slot result, none for x0. -/
def State.qDst (s : State) (d : XReg) : Option PRef :=
  match s.cur.xRef s.focus.2 d with
  | .x n => if n = 0 then none else some (.x n)
  | r => some r
/-- BARQ: the state word as it stands at the end of cycle c+1 (R322). -/
def execBarq (g : PReg) (d : XReg) (bar : BitVec 7) (s : State) : Out :=
  .next (runSlot (.barq g d bar) s fun s => s.later 7 2 (.barq bar.toNat (s.qDst d)))
/-- UIEN (R327). -/
def execUien (g : PReg) (a : XReg) (s : State) : Out :=
  .next (runSlot (.uien g a) s fun s => s.later 7 2 (.uien (BitVec.ofNat 8 (wb (s.x a) 3 0))))

/-! ### Job cards (R309 to R316) -/

def cardF (c : Row) (byte hi lo : Nat) : Nat := bitsOf c.toNat (8 * byte + hi) (8 * byte + lo)
def cOp (c : Row) : Nat := cardF c 0 4 0
def cEsz (c : Row) : Nat := 2 ^ cardF c 0 6 5
def cBen (c : Row) : Bool := cardF c 0 7 7 = 1
def cBar (c : Row) : Nat := cardF c 0 14 8
def cRop (c : Row) : Nat := cardF c 0 18 16
def cNr (c : Row) : Nat := cardF c 0 26 24
def cNw (c : Row) : Nat := cardF c 0 30 28
def cRows (c : Row) : Nat := cardF c 0 47 32
def cCols (c : Row) : Nat := cardF c 0 63 48
def cSpitch (c : Row) : Nat := cardF c 16 31 0
def cDpitch (c : Row) : Nat := cardF c 16 63 32
def cTag (c : Row) : Word := BitVec.ofNat 64 (cardF c 24 63 0)
/-- A region: base, extra replicas, length, and the step between replicas in bytes (R309). -/
structure Reg where
  base  : Nat
  extra : Nat
  len   : Nat
  step  : Nat
  deriving DecidableEq, Repr
def cRegion (c : Row) (w : Bool) (k : Nat) : Reg :=
  let o := if w then 80 + 12 * k else 32 + 12 * k
  { base := cardF c o 51 0, extra := cardF c o 63 52, len := cardF c (o + 8) 31 0
    step := (if w then cardF c 8 63 32 else cardF c 8 31 0) * 65536 }
def Reg.at (r : Reg) (j : Nat) : Nat := r.base + j * r.step
/-- The byte ranges of a region, rounded out to units of the given size: first and last unit of each replica. -/
def Reg.ranges (r : Reg) (unit : Nat) : List (Nat × Nat) :=
  (List.range (if r.step = 0 then 1 else r.extra + 1)).map fun j => (r.at j / unit, (r.at j + r.len - 1) / unit)
def Reg.meets (a b : Reg) (unit : Nat) : Bool :=
  (a.ranges unit).any fun x => (b.ranges unit).any fun y => x.1 ≤ y.2 && y.1 ≤ x.2
def cReads (c : Row) : List Reg := (List.range (cNr c)).map (cRegion c false)
def cWrites (c : Row) : List Reg := (List.range (cNw c)).map (cRegion c true)
/-- The bytes from address a on lie within the region: within its replicas, which may follow each other (R309, R314). -/
def Reg.holds (r : Reg) (a n : Nat) : Bool :=
  a + n ≤ (List.range (r.extra + 1)).foldl (fun e j => if r.at j ≤ e && e < r.at j + r.len then r.at j + r.len else e) a
/-- The payload (R310). -/
def cPayload (c : Row) : Nat :=
  let w := cRegion c true 0
  match cOp c with
  | 1 => w.len * (w.extra + 1)
  | 2 | 3 | 4 => cRows c * cCols c * cEsz c
  | 5 => w.len
  | 6 => (cRegion c false 0).len
  | _ => 0
/-- The regions themselves are well formed. -/
def cRegionsOk (c : Row) : Bool :=
  let ok := fun (r : Reg) => r.len ≠ 0 && r.at r.extra + r.len ≤ 2 ^ 52
  cNr c ≤ 4 && cNw c ≤ 4 && (cReads c).all ok && (cWrites c).all ok &&
    (List.range 4).all (fun k => (k < cNr c || decide (cardF c (32 + 12 * k) 95 0 = 0)) &&
      (k < cNw c || decide (cardF c (80 + 12 * k) 95 0 = 0)))
/-- The checks of R311: true when the card passes. -/
def cardOk (c : Row) : Bool :=
  let r := cRegion c false 0
  let w := cRegion c true 0
  let e := cEsz c
  let rec' := cCols c * e
  let shape := match cOp c with
    | 1 =>
      cNr c = 1 && cNw c = 1 && cRows c = 0 && cCols c = 0 && cRop c ≤ 2 &&
        ((r.extra = w.extra && r.len = w.len) || (r.extra = 0 && r.len = w.len) || (w.extra = 0 && w.len = (r.extra + 1) * r.len)) &&
        (let u := match cRop c with | 1 => 4 | 2 => 8 | _ => 1
         r.base % u = 0 && w.base % u = 0 && r.len % u = 0 && w.len % u = 0)
    | 2 =>
      cNr c = 1 && cNw c = 1 && cRows c ≠ 0 && cCols c ≠ 0 && cRop c = 0 && r.extra = 0 && w.extra = 0 &&
        cCols c * e ≤ cSpitch c && cRows c * e ≤ cDpitch c && (cRows c - 1) * cSpitch c + cCols c * e ≤ r.len &&
        (cCols c - 1) * cDpitch c + cRows c * e ≤ w.len
    | 3 =>
      cNr c = 2 && cNw c = 1 && cRop c = 0 && 4 * cRows c ≤ (cRegion c false 1).len &&
        (List.range (cRows c)).all fun i => w.holds (w.base + i * cDpitch c) rec'
    | 4 =>
      cNr c = 2 && cNw c = 1 && cRop c ≤ 2 && 4 * cRows c ≤ (cRegion c false 1).len &&
        ((List.range (cRows c)).all fun i => r.holds (r.base + i * cSpitch c) rec') &&
        (let u := match cRop c with | 1 => 4 | 2 => 8 | _ => 1
         r.base % u = 0 && w.base % u = 0 && r.len % u = 0 && w.len % u = 0)
    | 5 =>
      let u := if cRop c = 2 then 8 else 4
      cNr c = 1 && cNw c = 1 && cRows c = 0 && cCols c = 0 && 1 ≤ cRop c && cRop c ≤ 3 && 1 ≤ r.extra && w.extra = 0 &&
        r.len = w.len && r.len % u = 0 && r.base % u = 0 && w.base % u = 0
    | 6 =>
      cNr c = 1 && cNw c = 1 && cRows c = 0 && cCols c = 0 && cRop c = 0 && r.base % 65536 = 0 && r.len % 65536 = 0 &&
        r.len = w.len && r.extra = 0 && w.extra = 0
    | _ => false
  cardF c 0 15 15 = 0 && cardF c 0 23 19 = 0 && cardF c 0 27 27 = 0 && cardF c 0 31 31 = 0 && cRegionsOk c && shape &&
    !(cWrites c).zipIdx.any (fun a =>
      (cReads c).any (fun b => a.1.meets b 1) || (cWrites c).zipIdx.any (fun b => a.2 < b.2 && a.1.meets b.1 1)) &&
    !(cBen c && 2 ^ 36 ≤ cPayload c)
/-- Footprints that order two jobs (R320). -/
def cardsMeet (e j : Row) : Bool :=
  let any2 := fun (xs ys : List Reg) => xs.any fun a => ys.any fun b => a.meets b 64
  any2 (cWrites e) (cReads j) || any2 (cReads e) (cWrites j) || any2 (cWrites e) (cWrites j)

/-! ### Submission and cancelling (R307, R318, R319) -/

/-- JSUB (R318). -/
def execJsub (g : PReg) (d a : XReg) (s : State) : Out :=
  .next (runSlot (.jsub g d a) s fun s => s.submitRow a fun x => s.later 7 1 (.jsub x (s.qDst d) s.cyc.toNat))
/-- JCAN (R319). -/
def execJcan (g : PReg) (a : XReg) (s : State) : Out :=
  .next (runSlot (.jcan g a) s fun s => s.later 7 2 (.jcan (wb (s.x a) 31 0)))
/-- A result that a Q-slot instruction brings to a register one instant on. -/
def State.qResult (s : State) (k : CoreId) (comp : Bool) (e : Pend) (xd : Option PRef) (v : Word) : State :=
  let s := s.auditRes k comp e.iss 7 v
  let put := fun (eff : Effect) => s.modStrm k comp fun t =>
    { t with pend := t.pend ++ [{ due := e.due + 1, iss := e.iss, pc := e.pc, slot := 7, eff := eff }] }
  match xd with
  | some (.x n) => put (.x false n v)
  | some (.sx n) => put (.x true n v)
  | _ => s
/-- The stamp of a submission whose bundle issued in wall cycle cy (R307). -/
def State.stampOf (s : State) (k : CoreId) (comp : Bool) (e : Pend) (cy serial : Nat) : Stamp :=
  { pc := e.pc, core := k, comp := comp, cyc := cy, ctx := (s.core k).ctx, serial := serial }
/-- The job enters the scheduler at c+1 with its serial and its edges (R307, R311, R320). -/
def State.jsubLand (s : State) (k : CoreId) (comp : Bool) (e : Pend) (addr : Nat) (xd : Option PRef) (cy : Nat) : State :=
  let c := s.core k
  if c.spBad.contains (addr / 128) then s.poisonAt k comp 7 e.iss e.iss e.pc
  else
    let cl := clusterOf k
    let card := c.spRow (addr / 128)
    let serial := (s.cluster cl).serial
    let ok := cardOk card
    let prev := (s.cluster cl).jobs
    let job : Job :=
      { card := card, stamp := s.stampOf k comp e cy serial
        edges := if ok then (prev.filter (fun j => cardOk j.card && cardsMeet j.card card)).map (fun j => j.stamp.serial) else []
        phase := if ok then .waiting else .finishing, seq := s.phSeq.toNat, item := 0, sub := 0, idx := none, ibad := false, asked := false
        got := [], carry := [], moved := 0, fault := if ok then 0 else 0x40, faultVa := 0, region := 0, canc := false, hostLast := none, blocks := [] }
    let s := s.modCluster cl fun u => { u with jobs := u.jobs ++ [job], serial := (serial + 1) % 2 ^ 32 }
    let s := if !comp && s.issuedInBody k then
        match s.bound with
        | some b => if b.missing.contains (.unsubmitted k) then
            { s with bound := some { b with missing := b.missing.erase (.unsubmitted k) ++ [.job cl serial] } } else s
        | none => s
      else s
    s.qResult k comp e xd (BitVec.ofNat 64 serial)

def State.findJob (s : State) (cl : ClusterId) (serial : Nat) : Option Job :=
  (s.cluster cl).jobs.find? fun j => j.stamp.serial = serial
def State.modJob (s : State) (cl : ClusterId) (serial : Nat) (f : Job → Job) : State :=
  s.modCluster cl fun u => { u with jobs := u.jobs.map fun j => if j.stamp.serial = serial then f j else j }
/-- The amount by which a job decrements its barrier (R323). -/
def Job.amount (j : Job) : Nat := if j.fault = 0x40 && !cRegionsOk j.card then 0 else cPayload j.card
/-- Words 3 to 6 of a job's records (R328). -/
def Job.recordWords (j : Job) : List Word :=
  [BitVec.ofNat 64 j.faultVa, fields [(j.region % 8, 0, 3), (j.region / 8, 3, 1), (cOp j.card, 4, 5)], BitVec.ofNat 64 j.moved,
   cTag j.card]
/-- FAULT of the job's barrier once it has been decremented. -/
def State.faultAfter (s : State) (j : Job) : Bool :=
  let b := s.barGet j.stamp (cBar j.card)
  if cBen j.card then (b.dec j.amount (j.fault ≠ 0) j.canc).1.fault else b.fault
/-- A job leaves the scheduler: the record of a fault or a cancel is queued; only then is its barrier decremented, and its entry
freed with the edges on it (R308, R319, R323, R328). -/
def State.jobLeaves (s : State) (cl : ClusterId) (j : Job) : State :=
  let st := j.stamp
  let cause := if j.canc then 0x65 else j.fault
  let s := if cause = 0 then s else s.record st 1 (recordHead st cause (cBar j.card) (s.faultAfter j) ++ j.recordWords ++ [0])
  let s := if cBen j.card then s.barDec st (cBar j.card) j.amount (j.fault ≠ 0) j.canc 1 j.recordWords else s
  (s.modCluster cl fun u =>
    { u with jobs := (u.jobs.filter (fun x => x.stamp.serial ≠ st.serial)).map fun x =>
        { x with edges := x.edges.filter (· ≠ st.serial) } }).arrive (.job cl st.serial)
/-- A job that may still be removed: one that has not started; a JSNAP has once its marks are set (R319). -/
def Job.removable (j : Job) : Bool := j.phase = .waiting || (cOp j.card = 6 && j.phase = .started)
/-- Jobs that have not started and that the predicate names are removed (R319, R375). -/
def State.cancelJobs (s : State) (p : ClusterId → Job → Bool) : State :=
  (List.finRange 16).foldl (fun s cl =>
    ((s.cluster cl).jobs.filter (fun j => j.removable && p cl j)).foldl
      (fun s j => s.jobLeaves cl { j with canc := true }) s) s
/-- A JCAN reaches the scheduler (R319). -/
def State.jcanLand (s : State) (k : CoreId) (serial : Nat) : State :=
  s.modCluster (clusterOf k) fun u => { u with jcans := u.jcans ++ [(k, serial)] }
/-- The JCANs of the present cycle act on jobs of their own cores; a job that starts in this cycle has started (R319, R336). -/
def State.jcansAct (s : State) : State :=
  if s.clusters.toList.all (fun u => u.jcans.isEmpty) then s
  else
    let s' := s.cancelJobs fun cl j => (s.cluster cl).jcans.contains (j.stamp.core, j.stamp.serial)
    { s' with clusters := s'.clusters.map fun u => { u with jcans := [] } }

/-! ### The copy engines (R306, R308, R312 to R317) -/

/-- One piece of a job's work: what it reads, where it goes, its size, and whether it only fetches an index. -/
structure Piece where
  reads : List (Nat × Nat × Nat) -- virtual address, bytes and region
  outs  : List Nat               -- virtual addresses written
  n     : Nat
  index : Bool
  src   : Nat                    -- where its bytes start, and how many its reads and the bytes carried to it make
  size  : Nat
  deriving DecidableEq, Repr
/-- Bytes up to the next sector edge of the destination, at most m: no aligned word of it is written in parts (R257). -/
def pieceLen (dst m : Nat) : Nat := min m (64 - dst % 64)
/-- The reads of n bytes from a on, one of each sector. -/
def sourceReads (a n : Nat) : List (Nat × Nat × Nat) :=
  let m := min n (64 - a % 64)
  if m = n then [(a, n, 0)] else [(a, m, 0), (a + m, n - m, 0)]
/-- The piece of n bytes at src, whose run goes on for `left` bytes. What an earlier piece brought of its first aligned word is not
read again, and the aligned word in which it ends is read whole, so that no word is read in parts (R257). -/
def Job.span (j : Job) (src n left : Nat) (outs : List Nat) : Piece :=
  let have' := ((j.carry.find? fun c => c.1 = src).map fun c => c.2.1).getD 0
  let size := max have' (n + min ((8 - (src + n) % 8) % 8) (left - n))
  { reads := if size = have' then [] else sourceReads (src + have') (size - have'), outs := outs, n := n, index := false, src := src, size := size }
/-- The piece that a job is at, none when it has no more, and the next place; an index outside its region is an error
(R314, R317). -/
def Job.piece (j : Job) : Except Nat (Option (Piece × Nat × Nat)) :=
  let c := j.card
  let r := cRegion c false 0
  let w := cRegion c true 0
  let e := cEsz c
  match cOp c with
  | 1 =>
    let concat := w.extra = 0 && 0 < r.extra
    if concat then
      if r.extra < j.sub then .ok none
      else
        let src := r.at j.sub + j.item
        let dst := w.base + j.sub * r.len + j.item
        let n := pieceLen dst (r.len - j.item)
        .ok (some (j.span src n (r.len - j.item) [dst], if j.item + n = r.len then (0, j.sub + 1) else (j.item + n, j.sub)))
    else if r.len ≤ j.item then .ok none
    else
      let outs := if r.extra = 0 then (List.range (w.extra + 1)).map fun i => w.at i + j.item else [w.at j.sub + j.item]
      let n := pieceLen (w.base + j.item) (r.len - j.item)
      .ok (some (j.span (r.at (if r.extra = 0 then 0 else j.sub) + j.item) n (r.len - j.item) outs,
        if r.extra = 0 || j.sub = w.extra then (j.item + n, 0) else (j.item, j.sub + 1)))
  | 2 =>
    if cRows c * cCols c ≤ j.item then .ok none
    else
      let row := j.item / cCols c
      let col := j.item % cCols c
      let src := r.base + row * cSpitch c + col * e + j.sub
      let dst := w.base + col * cDpitch c + row * e + j.sub
      let n := pieceLen dst (e - j.sub)
      .ok (some (j.span src n (e - j.sub) [dst], if j.sub + n = e then (j.item + 1, 0) else (j.item, j.sub + n)))
  | 3 | 4 =>
    let len := cCols c * e
    if cRows c ≤ j.item || len = 0 then .ok none
    else match j.idx with
      | none => .ok (some ({ reads := (sourceReads ((cRegion c false 1).base + 4 * j.item) 4).map (fun r => (r.1, r.2.1, 1)), outs := [], n := 4, index := true, src := 0, size := 4 }, (j.item, 0)))
      | some x =>
        let g := cOp c = 3
        let o := if g then x * cSpitch c else x * cDpitch c
        if !(if g then r else w).holds ((if g then r.base else w.base) + o) len then .error (if g then r.base + o else w.base + o)
        else
          let src := r.base + (if g then o else j.item * cSpitch c) + j.sub
          let dst := w.base + (if g then j.item * cDpitch c else o) + j.sub
          let n := pieceLen dst (len - j.sub)
          .ok (some (j.span src n (len - j.sub) [dst], if j.sub + n = len then (j.item + 1, 0) else (j.item, j.sub + n)))
  | 5 =>
    let u := if cRop c = 2 then 8 else 4
    if r.len ≤ j.item then .ok none
    else .ok (some ({ reads := (List.range (r.extra + 1)).map (fun x => (r.at x + j.item, u, 0)), outs := [w.base + j.item], n := u, index := false, src := 0, size := u },
      (j.item + u, 0)))
  | _ => .ok none

/-- An engine translation (R329): the walk of the context's tables, without caching. -/
def State.engineXlate (s : State) (ctx : Option Nat) (va need : Nat) : Option Nat :=
  match s.walkFrom (s.ptOf ctx) va with
  | none => none
  | some t => if t.allows need then some (t.at va) else none
/-- A job's fault: it makes no further access, and completes when the writes it made are acknowledged (R329). Its one record names the
fault that ends it, which takes the place of a JOB_POISON after which it had continued (DESIGN CHOICE, log 61). -/
def Job.stop (j : Job) (cause va region : Nat) : Job :=
  { j with phase := .finishing, fault := if j.fault = 0 ∨ j.fault = 0x43 then cause else j.fault, faultVa := va, region := region }
/-- A write of n bytes within a row at a physical address, as an access (R248, R312, R329). -/
def rowPut (pa n data : Nat) (bad : Bool) : AccOp :=
  let o := pa % 128
  let d : Row := BitVec.ofNat 1024 (data % 2 ^ (8 * n) * 2 ^ (8 * o))
  let en : Mask := BitVec.ofNat 128 ((2 ^ n - 1) * 2 ^ o)
  if bad then .spoil d en else .write d en
/-- The reduction words of a piece: every aligned word that lies in it whole (R312; DESIGN CHOICE, log 61). -/
def ropWords (rop pa n data : Nat) : List (Nat × AccOp) :=
  let u := if rop = 1 then 4 else 8
  let o := (u - pa % u) % u
  (List.range ((n - o) / u)).map fun i =>
    (pa + o + u * i, .aop (if rop = 1 then 0x1 else 0x0) (BitVec.ofNat 64 (data / 2 ^ (8 * (o + u * i)) % 2 ^ (8 * u))) 0 false)
/-- FMAX32 of R315: the VMAX rule of R197 on one element. -/
def fmax32 (x y : Nat) : Nat := (fminmax .f32 true x y).bits
/-- JRED's fold over the replicas (R315). -/
def jredFold (rop : Nat) : List Nat → Nat
  | [] => 0
  | x :: r => r.foldl (fun y x => match rop with | 1 => fadd32 y x | 2 => (y + x) % 2 ^ 64 | _ => fmax32 y x) x
/-- The writes of a piece whose data has come: sent to their homes in order; the answer is the job afterwards. Poison stops it before
host memory, and its record names the read that returned the poison (R328, R329). -/
def State.jobWrite (s : State) (cl : ClusterId) (j : Job) (p : Piece) (data : Nat) (bad : Bool) : State × Job :=
  let who := Party.job cl j.stamp.serial
  p.outs.foldl (fun (r : State × Job) dst =>
    let s := r.1
    let j := r.2
    if j.phase = .finishing then r
    else match s.engineXlate j.stamp.ctx dst 2 with
      | none => (s, j.stop 0x42 dst 8)
      | some pa =>
        let host := isHostAddr pa
        let red := cRop j.card ≠ 0 && cOp j.card ≠ 5
        if host && red then (s, j.stop 0x42 dst 8)
        else if host && bad then (s, { j with phase := .finishing })
        else
          let ws := if red && !bad then ropWords (cRop j.card) pa p.n data else [(pa / 128 * 128, rowPut pa p.n data bad)]
          (ws.foldl (fun s w => s.send who w.2 w.1) s,
            { j with moved := j.moved + p.n, hostLast := if host then some (pa + p.n - 1) else j.hostLast })) (s, j)
/-- One step of a started job: the reads of its next piece are sent, or, once they have come back, its writes. A poisoned index
is used as it came, and its record is written poisoned (R329; DESIGN CHOICE, log 61). -/
def State.jobStep (s : State) (cl : ClusterId) (j : Job) : State :=
  let put := fun (s : State) (n : Job) => s.modJob cl j.stamp.serial fun _ => n
  match j.piece with
  | .error va => put s (j.stop 0x41 va (if cOp j.card = 3 then 0 else 8))
  | .ok none => put s { j with phase := .finishing }
  | .ok (some (p, ni, ns)) =>
    if !j.asked then
      let r := p.reads.zipIdx.foldl (fun (r : State × Job) a =>
        if r.2.phase = .finishing then r
        else match r.1.engineXlate j.stamp.ctx a.1.1 1 with
          | none => (r.1, r.2.stop 0x42 a.1.1 a.1.2.2)
          | some pa => (r.1.send (.job cl j.stamp.serial) (.read a.1.2.1) pa [] a.2, r.2)) (s, { j with asked := true, got := [] })
      put r.1 r.2
    else if j.got.length < p.reads.length then s
    else
      let vals := p.reads.zipIdx.map fun a =>
        (match j.got.find? (fun g => g.1 = a.2) with | some g => g.2.1.toNat % 2 ^ (8 * a.1.2.1) | none => 0, a.1.2.1)
      let kept := j.carry.find? fun c => c.1 = p.src
      let joined := vals.foldr (fun v d => v.1 + d * 2 ^ (8 * v.2)) 0 * 2 ^ (8 * ((kept.map fun c => c.2.1).getD 0)) +
        (kept.map fun c => c.2.2.1).getD 0
      let hit := p.reads.zipIdx.find? fun a => j.got.any fun g => g.1 = a.2 && g.2.2
      let j := match hit with
        | some a => if j.fault = 0 then { j with fault := 0x43, faultVa := a.1.1, region := a.1.2.2 } else j
        | none => j
      let bad := hit.isSome || kept.any fun c => c.2.2.2
      let j := { j with
        asked := false, got := []
        carry := (j.carry.filter fun c => c.1 ≠ p.src) ++ if p.size ≤ p.n then [] else [(p.src + p.n, p.size - p.n, joined / 2 ^ (8 * p.n), bad)] }
      if p.index then put s { j with idx := some joined, ibad := hit.isSome }
      else
        let data := if cOp j.card = 5 then jredFold (cRop j.card) (vals.map (·.1)) else joined
        let r := s.jobWrite cl j p data (bad || j.ibad)
        put r.1 (if r.2.phase = .finishing then r.2
          else { r.2 with item := ni, sub := ns, idx := if ni = j.item then r.2.idx else none, ibad := r.2.ibad && ni = j.item })
/-- A waiting job may start: no edge is left, and, but for a JSNAP, an engine is free and no lower ready serial waits
(R308). -/
def State.jobStarts (s : State) (cl : ClusterId) (j : Job) : Bool :=
  let js := (s.cluster cl).jobs
  j.phase = .waiting && j.edges.isEmpty &&
    (cOp j.card = 6 ||
      ((js.filter (fun x => x.phase = .started && cOp x.card ≠ 6)).length < 4 &&
        !js.any (fun x => x.phase = .waiting && x.edges.isEmpty && cOp x.card ≠ 6 && x.stamp.serial < j.stamp.serial)))
/-- A copy job starts or moves on by one step. -/
def State.jobRun (s : State) (cl : ClusterId) (serial op : Nat) : State :=
  match s.findJob cl serial with
  | none => s
  | some j =>
    if cOp j.card ≠ op then s
    else if s.jobStarts cl j then s.modJob cl serial fun j => { j with phase := .started }
    else if j.phase = .started then s.jobStep cl j
    else s
/-- JCOPY (R312). -/
def execJcopy (cl : ClusterId) (serial : Word32) (s : State) : Out := .next (s.jobRun cl serial.toNat 1)
/-- JCOPYT (R313). -/
def execJcopyt (cl : ClusterId) (serial : Word32) (s : State) : Out := .next (s.jobRun cl serial.toNat 2)
/-- JGATHER (R314). -/
def execJgather (cl : ClusterId) (serial : Word32) (s : State) : Out := .next (s.jobRun cl serial.toNat 3)
/-- JSCATTER (R314). -/
def execJscatter (cl : ClusterId) (serial : Word32) (s : State) : Out := .next (s.jobRun cl serial.toNat 4)
/-- JRED (R315). -/
def execJred (cl : ClusterId) (serial : Word32) (s : State) : Out := .next (s.jobRun cl serial.toNat 5)

/-! ### Snapshots (R316, R331, R332) -/

/-- The reads by which the source's value comes from another package, at the mark instant: one of each sector of the block (R334). -/
def State.readMark (s : State) (m : Mark) : State :=
  if s.ownAddr (m.block * 65536) then s
  else (List.range 1024).foldl (fun s i => s.send (.job m.cl m.serial) (.read 64) (m.block * 65536 + 64 * i) [] (m.num * 1024 + i)) s
/-- What a marked block held, with its poisoned sectors: as it was at the mark, or as the reads of another package brought it; none
while those are on their way. -/
def State.markData (s : State) (m : Mark) : Option Mark :=
  if s.ownAddr (m.block * 65536) then some m
  else match (s.cluster m.cl).jobs.find? fun j => j.stamp.serial = m.serial with
    | none => some m
    | some j =>
      let gs := j.got.filter fun g => g.1 / 1024 = m.num
      if gs.length < 1024 then none
      else some (gs.foldl (fun m g =>
        let sec := m.block * 1024 + g.1 % 1024
        { m with
          data := Memory.putN m.data (sec * 64) 64 (g.2.1.toNat % 2 ^ 512) (2 ^ 64 - 1)
          bad := if g.2.2 then insertAsc sec m.bad else m.bad }) m)
/-- The marks of a JSNAP are set, all of them or none (R331), with what each block holds now (R334). The mark of a block whose home is
in another package, to which no message of R390 would take it, is set here (DESIGN CHOICE, log 70). -/
def State.markJob (s : State) (cl : ClusterId) (j : Job) : State :=
  let homes := (List.range 8).map fun st =>
    ((s.marks.filter (fun m => stackOf (m.block * 65536) = st)).length + (j.blocks.filter (fun b => stackOf (b.1 * 65536) = st)).length)
  if homes.any (16384 < ·) then s.modJob cl j.stamp.serial fun j => j.stop 0x7A (cRegion j.card false 0).base 0
  else
    let ms := j.blocks.zipIdx.map fun b =>
      { block := b.1.1, dst := b.1.2.1, dst2 := b.1.2.2, cl := cl, serial := j.stamp.serial, num := b.2
        data := s.mem.filter (fun c => c.1 / 65536 = b.1.1), bad := s.poison.filter (fun x => x / 1024 = b.1.1)
        began := none, sent := false : Mark }
    ms.foldl State.readMark ({ s with marks := s.marks ++ ms }.modJob cl j.stamp.serial fun j => { j with phase := .marked })
/-- Copying begins at every home that copies nothing: a block with a waiting write first, else the oldest mark (R332). -/
def State.beginCopies (s : State) : State :=
  (List.range 8).foldl (fun s st =>
    let here := s.marks.filter fun m => stackOf (m.block * 65536) = st && !m.sent
    if here.any (fun m => m.began.isSome) then s
    else
      let waits := fun (m : Mark) => s.accs.any fun a => a.op.writes && !a.done && a.pa / 65536 = m.block
      match (here.find? waits).or here.head? with
      | none => s
      | some m => { s with marks := s.marks.map fun x => if x = m then { x with began := some s.cyc.toNat } else x }) s
/-- The mark instant of the context that the sequencer serves: every JSNAP of it that has started sets its marks (R331). -/
def State.markSnapshots (s : State) : State :=
  let s := (List.finRange 16).foldl (fun s cl =>
    ((s.cluster cl).jobs.filter (fun j => cOp j.card = 6 && j.phase = .started && j.stamp.ctx = s.curCtx)).foldl
      (fun s j => s.markJob cl j) s) s
  s.beginCopies
/-- The job of the context has a phase still to come (R331): not so while its END phase runs, or once it ends at the boundary
to come. -/
def State.phaseToCome (s : State) : Bool :=
  match s.bound with
  | none => false
  | some b => !b.endJob && (b.start || !(s.running.any fun d => d.isEnd))
/-- JSNAP: once it is ready it translates every page of both regions; with no phase to come its marks are set at once (R316,
R331). -/
def execJsnap (cl : ClusterId) (serial : Word32) (s : State) : Out :=
  .next (
    match s.findJob cl serial.toNat with
    | none => s
    | some j =>
      if cOp j.card ≠ 6 || !s.jobStarts cl j then s
      else
        let r := cRegion j.card false 0
        let w := cRegion j.card true 0
        let n := r.len / 65536
        let xr := fun va => s.engineXlate j.stamp.ctx va 1
        let xw := fun va => s.engineXlate j.stamp.ctx va 2
        let from' := (List.range n).map fun i => r.base + i * 65536
        let to' := (List.range (if w.base % 65536 = 0 then n else n + 1)).map fun i => w.base / 65536 * 65536 + i * 65536
        match from'.find? (fun va => (xr va).isNone), to'.find? (fun va => (xw va).isNone) with
        | some va, _ => s.modJob cl serial.toNat fun j => j.stop 0x42 va 0
        | none, some va => s.modJob cl serial.toNat fun j => j.stop 0x42 (max va w.base) 8
        | none, none =>
          let page := fun i => (xw (w.base / 65536 * 65536 + i * 65536)).getD 0
          let blocks := (List.range n).map fun i =>
            ((xr (r.base + i * 65536)).getD 0 / 65536, page i + w.base % 65536, if w.base % 65536 = 0 then page i else page (i + 1))
          let s := s.modJob cl serial.toNat fun j => { j with phase := .started, blocks := blocks }
          if (s.ctxView j.stamp.ctx).phaseToCome then s
          else match s.findJob cl serial.toNat with | some j => (s.markJob cl j).beginCopies | none => s)
/-- Where byte o of a marked block's copy goes. -/
def Mark.dstOf (m : Mark) (o : Nat) : Nat := if m.dst % 65536 + o < 65536 then m.dst + o else m.dst2 + (m.dst % 65536 + o - 65536)
/-- The writes of a block's copy, one in each sector of the area, poisoned where the block was (R257, R329, R332). -/
def Mark.copies (m : Mark) : List (Nat × AccOp) :=
  (List.range 1025).filterMap fun i =>
    let o := 64 * i - m.dst % 64
    let n := min (64 * (i + 1) - m.dst % 64) 65536 - o
    if n = 0 then none
    else
      let pa := m.dstOf o
      let bad := [o, o + n - 1].any fun x => m.bad.contains (m.block * 1024 + x / 64)
      some (pa / 128 * 128, rowPut pa n (Memory.getN m.data (m.block * 65536 + o) n) bad)
/-- The last host address that a block's copy writes (R330). -/
def Mark.hostEnd (m : Mark) : Option Nat :=
  let edge := 65535 - m.dst % 65536
  if isHostAddr (m.dstOf 65535) then some (m.dstOf 65535) else if isHostAddr m.dst then some (m.dst + edge) else none
/-- SNAPSHOT_BLOCK_COPY: 1,024 cycles after it began, a block's copy is written at the homes of its place, and the home goes on
to the next block (R332, R336). -/
def execSnapshotBlockCopy (stack : StackId) (s : State) : Out :=
  .next (
    let ready := fun (m : Mark) => stackOf (m.block * 65536) = stack.val && !m.sent && m.began.any (fun w => w + 1024 ≤ s.cyc.toNat)
    match s.marks.find? ready, (s.marks.find? ready).bind s.markData with
    | none, _ | _, none => s
    | some m0, some m =>
      let s := m.copies.foldl (fun s w => s.send (.job m.cl m.serial) w.2 w.1 [] (m.num + 1)) s
      let s := s.modJob m.cl m.serial fun j =>
        { j with
          moved := j.moved + 65536, fault := if m.bad.isEmpty || j.fault ≠ 0 then j.fault else 0x7A
          got := j.got.filter fun g => g.1 / 1024 ≠ m.num, hostLast := m.hostEnd.or j.hostLast }
      { s with marks := s.marks.map fun x => if x = m0 then { x with sent := true } else x }.beginCopies)
/-- The mark of a block clears once every write of its copy has been acknowledged (R332). -/
def State.copyAcked (s : State) (cl : ClusterId) (serial pos : Nat) : State :=
  if s.accs.any fun a => a.who = .job cl serial && a.pos = pos then s
  else { s with marks := s.marks.filter fun m => !(m.sent && m.cl = cl && m.serial = serial && m.num + 1 = pos) }

/-! ### Completion (R308, R330) -/

/-- Accesses of a job that have not been answered or acknowledged. -/
def State.jobBusy (s : State) (cl : ClusterId) (serial : Nat) : Bool :=
  s.accs.any fun a => a.who = .job cl serial
/-- JOB_COMPLETE: every write is acknowledged, and the last host address written has been read back (R308, R330). -/
def execJobComplete (cl : ClusterId) (serial : Word32) (s : State) : Out :=
  .next (
    match s.findJob cl serial.toNat with
    | none => s
    | some j =>
      let idle := !s.jobBusy cl serial.toNat
      let isOver := (j.phase = .finishing && idle) || (j.phase = .marked && idle && !s.marks.any (fun m => m.cl = cl && m.serial = serial.toNat))
      if !isOver then s
      else match j.hostLast with
        | some pa => (s.send (.job cl serial.toNat) (.read 1) pa).modJob cl serial.toNat fun j => { j with hostLast := none }
        | none => s.jobLeaves cl j)

end Sys2Proof.Machine
end

