-- ==== Sys2Proof/Machine/NearMem.lean ====
section
/-!
DEFINITION. Machine/NearMem.lean: near-memory commands: their fields and checks (R340 to R347), what each operation makes
of an element (R341 to R345), a unit's steps (R339, R350, R353), NMSUB and NMFN (R348 to R352).
-/
namespace Sys2Proof.Machine

/-! ### Commands (R340) -/

def nmF (c : NmCmd) (hi lo : Nat) : Nat := bitsOf c.cmd.toNat hi lo
def nmOp (c : NmCmd) : Nat := nmF c 4 0
def nmFmt (c : NmCmd) : Nat := nmF c 7 5
def nmDfmt (c : NmCmd) : Nat := nmF c 10 8
def nmRec (c : NmCmd) : Bool := nmF c 12 12 = 1
def nmUnit (c : NmCmd) : UnitId := ⟨nmF c 19 13 % 128, by omega⟩
def nmN (c : NmCmd) : Nat := nmF c 63 32
def nmD (c : NmCmd) : Nat := nmF c 127 64
def nmS (c : NmCmd) : Nat := nmF c 191 128
def nmImm (c : NmCmd) : Nat := nmF c 255 192
/-- Element width of a format code (R340). -/
def nmWidth (f : Nat) : Nat := [4, 2, 2, 8, 4, 8].getD f 2
/-- The floating format of a code below 4. -/
def nmFloat (f : Nat) : FFmt := if f = 0 then .f32 else if f = 1 then .bf16 else if f = 2 then .f16 else .f64
/-- The element width of D, and whether S is read (R341). -/
def nmDw (c : NmCmd) : Nat := if nmOp c = 9 then nmWidth (nmDfmt c) else nmWidth (nmFmt c)
def nmUsesS (c : NmCmd) : Bool := nmOp c ≠ 3 && nmOp c ≠ 6
def nmWhole (c : NmCmd) : Bool := nmOp c = 7 || nmOp c = 10
/-- Bytes of the D and S ranges. -/
def nmDlen (c : NmCmd) : Nat := if nmOp c = 7 then nmDw c else if nmOp c = 10 then 16 else nmN c * nmDw c
def nmSlen (c : NmCmd) : Nat := nmN c * nmWidth (nmFmt c)
def rangesMeet (a n b m : Nat) : Bool := a < b + m && b < a + n

/-- The entry check of R346: true when the command passes. -/
def nmEntryOk (c : NmCmd) : Bool :=
  let op := nmOp c
  let f := nmFmt c
  let imm := nmImm c
  let float := f ≤ 3
  let shape := match op with
    | 1 => f ≤ 5 && imm = 0
    | 2 | 3 => float && imm / 2 ^ 32 = 0
    | 4 => float
    | 5 => f = 0 && imm / 2 ^ 52 = 0
    | 6 => f ≤ 5
    | 7 => f ≤ 5 && imm ≤ 2 && (float || imm = 0)
    | 8 => f ≤ 5 && imm = 0
    | 9 =>
      float && (if nmDfmt c = 6 then
          imm / 2 ^ 20 = 0 && (if bitsOf imm 19 19 = 0 then f = 0 && bitsOf imm 18 16 < 3 else f = 3 && bitsOf imm 18 16 < 5)
        else nmDfmt c ≤ 3 && nmDfmt c ≠ f && imm = 0)
    | 10 => f ≤ 5 && imm = 0
    | _ => false
  let align := if op = 10 then 8 else nmDw c
  let same := nmS c = nmD c && nmSlen c = nmDlen c
  shape && (op = 9 || nmDfmt c = 0) && nmF c 11 11 = 0 && nmF c 31 20 = 0 && nmD c / 2 ^ 52 = 0 && nmS c / 2 ^ 52 = 0 &&
    (nmUsesS c || nmS c = 0) && nmN c ≠ 0 && nmDlen c ≤ 2 ^ 30 && (!nmUsesS c || nmSlen c ≤ 2 ^ 30) &&
    nmD c % align = 0 && nmS c % nmWidth f = 0 &&
    (!nmUsesS c || !rangesMeet (nmS c) (nmSlen c) (nmD c) (nmDlen c) || (same && (op = 1 || op = 2 || op = 4)))

/-! ### Fractions and roots (R342) -/

/-- A value as a fraction over a positive finite denominator; 0/0 and ∞/∞ are NaN, x/0 an infinity (R342). -/
def fracOf (n d : FVal) : FVal × FVal :=
  let one := FVal.fin false 1 0
  match d with
  | .nan _ => (.nan false, one)
  | .zero neg => (if n.isNan || n.isZero then .nan false else .inf (n.neg != neg), one)
  | .inf neg => (if n.isNan || n.isInf then .nan false else .zero (n.neg != neg), one)
  | .fin neg m e => (if neg then n.negate else n, .fin false m e)
/-- round_to of a fraction whose denominator is positive and finite: 80 bits of quotient and a sticky bit decide. -/
def roundFrac (f : FFmt) (n d : FVal) : FRes :=
  match n, d with
  | .fin neg m e, .fin _ m' e' =>
    let k := m'.log2 + 80 - m.log2
    roundFin f (.mode .rne) neg (2 * (m * 2 ^ k / m') + (if m * 2 ^ k % m' = 0 then 0 else 1)) (e - e' - k - 1)
  | n, _ => roundVal f (.mode .rne) n
/-- round_to(√x, f32, RNE), NaN below −0 (R341, R342). -/
def sqrt32 (x : FVal) : Nat :=
  match x with
  | .fin true _ _ | .inf true | .nan _ => FFmt.f32.nanBits
  | .fin false m e => (roundApprox .f32 false (spSqrt m e)).bits
  | x => (roundVal .f32 (.mode .rne) x).bits

/-! ### Operations on an element (R341 to R344) -/

def f32v (x : Nat) : FVal := FFmt.decode .f32 (x % 2 ^ 32)
/-- The D element that an element-wise operation gives. -/
def nmElem (c : NmCmd) (d x : Nat) : Nat :=
  let w := 8 * nmWidth (nmFmt c)
  let f := nmFloat (nmFmt c)
  let imm := nmImm c
  let a := f32v imm
  let b := f32v (imm / 2 ^ 32)
  let fd := f.decode d
  let fx := f.decode x
  let out := fun v => (roundVal f (.mode .rne) v).bits
  match nmOp c with
  | 1 => if nmFmt c ≤ 3 then out (fd.add fx) else (d + x) % 2 ^ w
  | 2 => out ((a.mul fx).add fd)
  | 3 => out (a.mul fd)
  | 4 => out (fd.sub (a.mul (fx.add (b.mul fd))))
  | 6 => imm % 2 ^ w
  | 8 => x
  | 9 =>
    if nmDfmt c = 6 then
      let n := if bitsOf imm 19 19 = 0 then 3 else 5
      match FVal.exact fx with
      | none => 0x8000
      | some v =>
        match alignSlice v (sextNat 16 (imm % 2 ^ 16)) (if n = 3 then 31 else 53) with
        | none => 0x8000
        | some a => intBits 16 (sliceSplit n a (bitsOf imm 18 16))
    else (roundVal (nmFloat (nmDfmt c)) (.mode .rne) fx).bits
  | _ => 0
/-- NADAMW's p', m' and v' (R342). -/
def nmAdam (blk : Nat) (p g m v : Nat) : Nat × Nat × Nat :=
  let at' := fun i => f32v (bitsOf blk (128 + 32 * i + 31) (128 + 32 * i))
  let one := FVal.fin false 1 0
  let out := fun x => (roundVal .f32 (.mode .rne) x).bits
  let m' := out (((at' 1).mul (f32v m)).add ((one.sub (at' 1)).mul (f32v g)))
  let v' := out (((at' 2).mul (f32v v)).add (((one.sub (at' 2)).mul (f32v g)).mul (f32v g)))
  let u := sqrt32 ((f32v v').mul (at' 6))
  let q := fracOf ((f32v m').mul (at' 5)) ((f32v u).add (at' 3))
  let sum := q.1.add (((at' 4).mul (f32v p)).mul q.2)
  ((roundFrac .f32 (((f32v p).mul q.2).sub ((at' 0).mul sum)) q.2).bits, m', v')
/-- NRED's running value with one more element (R344). -/
def nmFold (c : NmCmd) (acc : FVal) (x : Nat) : FVal :=
  let f := nmFloat (nmFmt c)
  if 3 < nmFmt c then acc.add (.ofInt x 0 false)
  else match nmImm c % 4 with
    | 0 => acc.add (f.decode x)
    | 1 => acc.add ((f.decode x).mul (f.decode x))
    | _ =>
      let y := if (f.decode x).neg then (f.decode x).negate else f.decode x
      if acc.isNan || y.isNan then .nan false else if fltFin acc y then y else acc
/-- NRED's result, rounded once. -/
def nmResult (c : NmCmd) (acc : FVal) : Nat :=
  if 3 < nmFmt c then
    match FVal.exact acc with
    | some (i, e) => (i.toNat * 2 ^ e.toNat) % 2 ^ (8 * nmWidth (nmFmt c))
    | none => 0
  else (roundVal (nmFloat (nmFmt c)) (.mode .rne) acc).bits
/-- A sum starts at −0, which adds to nothing (R109); a largest magnitude at 0. -/
def nmStart (c : NmCmd) : FVal := .zero (nmFmt c ≤ 3 && nmImm c % 4 ≠ 2)

/-! ### A unit's steps (R339, R346, R347, R350, R353) -/

/-- The command that a unit works on: the oldest of its queue. -/
def State.nmHead (s : State) (u : UnitId) : Option NmCmd := s.nm.find? fun c => nmUnit c = u && c.queued
/-- Both commands are of one outbox. -/
def NmCmd.sameBox (a b : NmCmd) : Bool := a.stamp.core = b.stamp.core && a.stamp.comp = b.stamp.comp && a.stamp.ctx = b.stamp.ctx
/-- Commands that their outboxes may pass on: the first of each outbox for a unit whose queue has room (R350). -/
def State.nmPassable (s : State) : List NmCmd :=
  s.nm.filter fun c => !c.queued && (s.nm.filter fun x => x.queued && nmUnit x = nmUnit c).length < 64 &&
    (s.nm.find? fun x => !x.queued && x.sameBox c && nmUnit x = nmUnit c) = some c
/-- An outbox passes a command on: it comes last in the queue of its unit (R350). -/
def execNmPass (k : CoreId) (comp : Bool) (ticket : Nat) (s : State) : Out :=
  .next (match s.nmPassable.find? fun c => c.stamp.core = k && c.stamp.comp = comp && c.stamp.serial = ticket with
    | none => s
    | some c => { s with nm := s.nm.erase c ++ [{ c with queued := true }] })
def State.nmPut (s : State) (c c' : NmCmd) : State := { s with nm := s.nm.map fun x => if x = c then c' else x }
/-- The command stops on a fault: cause, address, operand (R351). -/
def NmCmd.stop (c : NmCmd) (cause va op : Nat) : NmCmd := { c with fault := cause, fva := va, fop := op }
/-- The translations of a range, page by page: the ones used, or the first address that fails (R347). -/
def State.nmXlate (s : State) (c : NmCmd) (need : Nat) : Nat → Nat → Nat → List Tlb → Except Nat (List Tlb)
  | 0, _, _, xl => .ok xl
  | f + 1, va, last, xl =>
    if last < va then .ok xl
    else
      let t := match xl.find? (·.covers va) with | some t => some t | none => s.walkFrom (s.ptOf c.stamp.ctx) va
      match t with
      | none => .error va
      | some t =>
        if t.allows need && s.ownAddr (t.at va) && !isHostAddr (t.at va) && stackOf (t.at va) = (nmUnit c).val / 16 then
          s.nmXlate c need f (va / 65536 * 65536 + 65536) last (if xl.contains t then xl else t :: xl)
        else .error va
/-- A range of n bytes, operand op of R351. -/
def State.nmRange (s : State) (c : NmCmd) (va n need op : Nat) : NmCmd :=
  if c.fault ≠ 0 then c
  else match s.nmXlate c need (n / 65536 + 2) va (va + n - 1) c.xl with
    | .ok xl => { c with xl := xl }
    | .error a => c.stop 0x52 a op
/-- The physical address of a byte of a translated range. -/
def NmCmd.pa (c : NmCmd) (va : Nat) : Nat := match c.xl.find? (·.covers va) with | some t => t.at va | none => 0
/-- The fields of NADAMW's block (R342). -/
def nmMaddr (c : NmCmd) : Nat := bitsOf c.blk.toNat 63 0
def nmVaddr (c : NmCmd) : Nat := bitsOf c.blk.toNat 127 64
def nmBlockOk (c : NmCmd) : Bool :=
  let n := nmSlen c
  let m := nmMaddr c
  let v := nmVaddr c
  bitsOf c.blk.toNat 511 352 = 0 && m / 2 ^ 52 = 0 && v / 2 ^ 52 = 0 && m % 4 = 0 && v % 4 = 0 && !rangesMeet m n v n &&
    [nmD c, nmS c].all (fun a => !rangesMeet m n a n && !rangesMeet v n a n)
/-- The command begins: entry check, translation, and NADAMW's block. -/
def State.nmBegin (s : State) (c : NmCmd) : NmCmd :=
  let c := { c with begun := true, acc := nmStart c }
  if !nmEntryOk c then c.stop 0x50 0 0
  else
    let c := s.nmRange c (nmD c) (nmDlen c) 2 0
    let c := if nmUsesS c then s.nmRange c (nmS c) (nmSlen c) 1 1 else c
    -- D is read where the operation takes it
    let c := if nmOp c ≤ 5 then s.nmRange c (nmD c) (nmDlen c) 1 0 else c
    if nmOp c ≠ 5 then c
    else
      let b := nmImm c % 2 ^ 52
      let c := s.nmRange c b 64 1 2
      if c.fault ≠ 0 then c
      else match (List.range 64).find? (fun i => s.poisoned (c.pa (b + i)) 1) with
        | some i => c.stop 0x51 (b + i) 2
        | none =>
          let c := { c with blk := BitVec.ofNat 512 ((List.range 64).foldr (fun i r => (Memory.get s.mem (c.pa (b + i))).toNat + 256 * r) 0) }
          if !nmBlockOk c then c.stop 0x50 0 0
          else
            let c := s.nmRange (s.nmRange c (nmMaddr c) (nmSlen c) 1 3) (nmMaddr c) (nmSlen c) 2 3
            s.nmRange (s.nmRange c (nmVaddr c) (nmSlen c) 1 4) (nmVaddr c) (nmSlen c) 2 4
/-- Elements of the next step: those that one aligned row of D, or of S, still holds (R339). -/
def nmStepLen (c : NmCmd) : Nat :=
  let w := if nmWhole c then nmWidth (nmFmt c) else nmDw c
  let a := (if nmWhole c then nmS c else nmD c) + c.done * w
  min (nmN c - c.done) ((128 - a % 128) / w)
/-- The elements of an operand array that a step reads, or the first address whose sector is poisoned. -/
def State.nmRead (s : State) (c : NmCmd) (base w n : Nat) : Except Nat (List Nat) :=
  let as := (List.range n).map fun i => base + (c.done + i) * w
  match as.find? (fun a => s.poisoned (c.pa a) w) with
  | some a => .error a
  | none => .ok (as.map fun a => Memory.getN s.mem (c.pa a) w)
/-- What a step reads: address, width and operand of each element (R341, R342). -/
def NmCmd.stepReads (c : NmCmd) : List (Nat × Nat × Nat) :=
  let w := nmWidth (nmFmt c)
  let of := fun (b : Bool) (base op : Nat) => if b then (List.range (nmStepLen c)).map fun i => (base + (c.done + i) * w, w, op) else []
  of (nmOp c ≤ 5) (nmD c) 0 ++ of (nmUsesS c) (nmS c) 1 ++ of (nmOp c = 5) (nmMaddr c) 3 ++ of (nmOp c = 5) (nmVaddr c) 4
/-- A row that the step reads holds a timed write of the submitting core whose window is still open, which a command of its primary
does not see: the step waits (R261, R349). -/
def State.nmUnseen (s : State) (c : NmCmd) : Bool :=
  let rows := s.opensOf c.stamp
  !rows.isEmpty && c.stepReads.any fun r => rows.contains (c.pa r.1 / 128)
/-- Elements of a step written from element `done` on, a row write for each row they touch. -/
def State.nmWrite (s : State) (c : NmCmd) (base w : Nat) (vals : List Nat) : State :=
  let a := base + c.done * w
  let n := w * vals.length
  let data := packLanes (8 * w) vals
  let k := min n (128 - a % 128)
  let put := fun (s : State) (va n x : Nat) =>
    if n = 0 then s else s.send (.nm (nmUnit c)) (rowPut (c.pa va) n x false) (c.pa va / 128 * 128)
  put (put s a k data) (a + k) (n - k) (data / 2 ^ (8 * k))
/-- One step of an element-wise command. -/
def State.nmElems (s : State) (c : NmCmd) : State :=
  let n := nmStepLen c
  let sw := nmWidth (nmFmt c)
  let opt := fun (b : Bool) base op => if b then (s.nmRead c base sw n).mapError (fun a => (a, op)) else .ok (List.replicate n 0)
  let adam := nmOp c = 5
  match opt (nmOp c ≤ 5) (nmD c) 0, opt (nmUsesS c) (nmS c) 1, opt adam (nmMaddr c) 3, opt adam (nmVaddr c) 4 with
  | .ok ds, .ok xs, .ok ms, .ok vs =>
    let s' := if adam then
        let r := (List.range n).map fun i => nmAdam c.blk.toNat (ds.getD i 0) (xs.getD i 0) (ms.getD i 0) (vs.getD i 0)
        ((s.nmWrite c (nmD c) 4 (r.map (fun x => x.1))).nmWrite c (nmMaddr c) 4 (r.map (fun x => x.2.1))).nmWrite c
          (nmVaddr c) 4 (r.map (fun x => x.2.2))
      else s.nmWrite c (nmD c) (nmDw c) ((ds.zip xs).map fun p => nmElem c p.1 p.2)
    s'.nmPut c { c with done := c.done + n }
  | .error e, _, _, _ | _, .error e, _, _ | _, _, .error e, _ | _, _, _, .error e => s.nmPut c (c.stop 0x51 e.1 e.2)
/-- One step of NRED or NCHK, whose last step writes the result (R344, R345). -/
def State.nmFolds (s : State) (c : NmCmd) : State :=
  let n := nmStepLen c
  let w := nmWidth (nmFmt c)
  if c.done = nmN c then
    let s' := if nmOp c = 7 then { c with done := 0 } |> fun c0 => s.nmWrite c0 (nmD c) w [nmResult c c.acc]
      else { c with done := 0 } |> fun c0 => s.nmWrite c0 (nmD c) 8 [c.crc, c.bad]
    s'.nmPut c { c with wrote := true }
  else if nmOp c = 10 then
    let a := nmS c + c.done * w
    let bytes := (List.range (n * w)).map fun i =>
      if s.poisoned (c.pa (a + i)) 1 then 0 else Memory.get s.mem (c.pa (a + i))
    let first := fun sec => sec * 64 < nmS c || a ≤ sec * 64
    let secs := (sectorsOf a (n * w)).filter fun sec => first sec && s.poisoned (c.pa (max a (sec * 64))) 1
    s.nmPut c { c with done := c.done + n, crc := crc64 c.crc bytes, bad := c.bad + secs.length }
  else match s.nmRead c (nmS c) w n with
    | .error a => s.nmPut c ({ c with done := 0 }.stop 0x51 a 1)
    | .ok xs => s.nmPut c { c with done := c.done + n, acc := xs.foldl (nmFold c) c.acc }
/-- The whole of the command's work is done. -/
def NmCmd.over (c : NmCmd) : Bool := c.fault ≠ 0 || (c.begun && c.done = nmN c && (!nmWhole c || c.wrote))
/-- A unit's next step on its present command, if that has the given operation: it begins, once every access of the one before
has performed (R350), or it works on one row. -/
def State.nmWork (s : State) (u : UnitId) (op : Option Nat) : State :=
  match s.nmHead u with
  | none => s
  | some c =>
    if op.any (· ≠ nmOp c) || c.over then s
    else if !c.begun then if s.accs.any fun a => a.who = .nm u && !a.done then s else s.nmPut c (s.nmBegin c)
    else if s.nmUnseen c then s
    else if nmWhole c then s.nmFolds c else s.nmElems c

/-- NADD (R341). -/
def execNadd (u : UnitId) (s : State) : Out := .next (s.nmWork u (some 1))
/-- NAXPY (R341). -/
def execNaxpy (u : UnitId) (s : State) : Out := .next (s.nmWork u (some 2))
/-- NSCAL (R341). -/
def execNscal (u : UnitId) (s : State) : Out := .next (s.nmWork u (some 3))
/-- NSGDW (R341). -/
def execNsgdw (u : UnitId) (s : State) : Out := .next (s.nmWork u (some 4))
/-- NADAMW (R342). -/
def execNadamw (u : UnitId) (s : State) : Out := .next (s.nmWork u (some 5))
/-- NFILL (R341). -/
def execNfill (u : UnitId) (s : State) : Out := .next (s.nmWork u (some 6))
/-- NRED (R344). -/
def execNred (u : UnitId) (s : State) : Out := .next (s.nmWork u (some 7))
/-- NCOPY (R341). -/
def execNcopy (u : UnitId) (s : State) : Out := .next (s.nmWork u (some 8))
/-- NCVT (R343). -/
def execNcvt (u : UnitId) (s : State) : Out := .next (s.nmWork u (some 9))
/-- NCHK (R345). -/
def execNchk (u : UnitId) (s : State) : Out := .next (s.nmWork u (some 10))
/-- NM_STEP, whatever the operation (R339). -/
def execNmStep (u : UnitId) (s : State) : Out := .next (s.nmWork u none)

/-- A read meets an error between the cells and the unit: the n-th, over and over, of those of the present step, or of NADAMW's block
as it begins. Where the sector is not poisoned the command stops with TRANSIENT set, its step writes nothing, and a re-read may
succeed (R353). NCHK does not stop (R345). -/
def execNmReadError (u : UnitId) (n : Nat) (s : State) : Out :=
  .next (match s.nmHead u with
    | none => s
    | some c =>
      if c.over || nmOp c = 10 then s
      else
        let b := s.nmBegin c
        let block := !c.begun && nmOp c = 5 && b.fault = 0
        let rs := if block then (List.range 8).map fun i => (nmImm c % 2 ^ 52 + 8 * i, 8, 2) else if c.begun then c.stepReads else []
        let c' := if block then b else c
        match (rs.filter fun r => !s.poisoned (c'.pa r.1) r.2.1)[n % max rs.length 1]? with
        | none => s
        | some r => s.nmPut c { (if nmWhole c then { c' with done := 0 } else c').stop 0x51 r.1 r.2.2 with transient := true })

/-! ### Errors of cells (R221, R473, R506) -/

/-- A row of core k's scratchpad has an error: a single bit is corrected as it is read and counted, any other poisons the row
(R221, R473). -/
def execRowError (k : CoreId) (row : Nat) (hard : Bool) (s : State) : Out :=
  .next (if hard then s.modCore k fun c => { c with spBad := insertAsc (row % 32768) c.spBad }
    else s.logError 1 k.val 0 0 1 (row % 32768 * 128) 0)
/-- The snapshot store of core k can no longer be read (R459). -/
def execSnapshotError (k : CoreId) (s : State) : Out :=
  .next (s.modCore k fun c => { c with seg := { c.seg with bad := c.seg.snap.isSome } })

/-! ### Completion, NMSUB and NMFN (R348 to R353) -/

/-- A change to the stream of a stamp: its core's, or the one that its context's record keeps (R353). -/
def State.modStamp (s : State) (st : Stamp) (f : Strm → Strm) : State :=
  if s.live st then s.modStrm st.core st.comp f
  else { s with ctxs := s.ctxs.map fun x =>
      if st.ctx = some x.num then { x with saved := x.saved.map fun p => if p.1 = st.core then (p.1, p.2.modStrm st.comp f) else p } else x }
/-- NMSTAT in the record of a stamp's context that is switched out, from which its resume takes it (R55, R178, R353). -/
def State.modRecord (s : State) (st : Stamp) (f : Word → Word) : State :=
  if s.live st then s
  else match s.ctxs.find? fun x => st.ctx = some x.num with
    | none => s
    | some x => match x.saved.find? fun p => p.1 = st.core with
      | none => s
      | some (_, c) =>
        let pa := x.recb + 0x48_0000 * st.core.val + 8 * ((if st.comp then 84 else 82) + (c.freezes.filter fun f => f.eff.isNone).length)
        s.putWords pa [f (s.getWord pa)]
/-- NMSTAT after a fault (R351, R353). -/
def nmStatAfter (w : Word) (cause ticket done : Nat) : Word :=
  let n := wb w 63 56
  let keep := if n = 0 then fields [(cause, 48, 8), (ticket, 32, 16), (done, 0, 32)] else w
  fields [(min (n + 1) 255, 56, 8), (wb keep 55 0, 0, 56)]
/-- The command leaves its unit and its outbox (R350, R351). -/
def State.nmLeaves (s : State) (c : NmCmd) : State :=
  let st := c.stamp
  let s := { s with nm := s.nm.erase c }
  if c.fault = 0 then s
  else
    let after := fun w => nmStatAfter w c.fault st.serial c.done
    let s := (s.modStamp st fun t => { t with nmstat := after t.nmstat }).modRecord st after
    let w4 := fields [(nmOp c, 0, 5), ((nmUnit c).val, 5, 7), (c.fop, 12, 3), (c.transient.toNat, 15, 1)]
    let s := s.logError 3 (nmUnit c).val ((nmUnit c).val / 16) c.fault 1 c.fva w4.toNat
    if nmRec c then
      s.record st 2 (recordHead st c.fault 0 false ++ [BitVec.ofNat 64 c.fva, w4, BitVec.ofNat 64 c.done, BitVec.ofNat 64 (nmF c 63 0), 0])
    else s
/-- Some command that a ticket covers has not completed (R352). -/
def State.nmCoversIn (s : State) (ctx : Option Nat) (k : CoreId) (comp : Bool) (ticket : Nat) : Bool :=
  s.nm.any fun c => c.stamp.core = k && c.stamp.comp = comp && c.stamp.ctx = ctx &&
    (ticket + 2 ^ 32 - c.stamp.serial) % 2 ^ 32 < 2 ^ 31
def State.nmCovers (s : State) (k : CoreId) (comp : Bool) (ticket : Nat) : Bool := s.nmCoversIn (s.core k).ctx k comp ticket
/-- An untimed NMFN lands: NMSTAT goes to its register and is cleared (R352). -/
def State.nmLand (s : State) (w : NmWait) : State :=
  let s := { s with nmWaits := s.nmWaits.erase w }
  s.modStrm w.core w.comp fun t =>
    let v := t.nmstat
    let t := { t with nmstat := 0, waits := t.waits.filter (fun p => p.1 ≠ w.id) }
    match w.xd with
    | some (.x n) => t.setX false n v
    | some (.sx n) => t.setX true n v
    | _ => t
/-- The waits that can end. -/
def State.nmReady (s : State) : List NmWait := s.nmWaits.filter fun w => !w.reg && !s.nmCovers w.core w.comp w.ticket
def State.nmSettle (s : State) : State := s.nmReady.foldl State.nmLand s
/-- NM_COMMAND_COMPLETE: the unit's command has been acknowledged, or it has stopped and its earlier steps have written their rows (R353); NMFNs that it held up land (R350 to
R352). -/
def execNmCommandComplete (u : UnitId) (s : State) : Out :=
  .next (
    let s := match s.nmHead u with
      | none => s
      | some c => if c.over && !s.accs.any (fun a => a.who = Party.nm u && (c.fault = 0 || !a.done)) then s.nmLeaves c else s
    s.nmSettle)

/-- NMSUB (R348, R349). -/
def execNmsub (g : PReg) (d a : XReg) (s : State) : Out :=
  .next (runSlot (.nmsub g d a) s fun s => s.submitRow a fun x => s.later 7 1 (.nmsub x (s.qDst d) s.cyc.toNat))
/-- NMSUB at c+1: the command is read and takes its ticket (R349). -/
def State.nmsubLand (s : State) (k : CoreId) (comp : Bool) (e : Pend) (addr : Nat) (xd : Option PRef) (cy : Nat) : State :=
  let c := s.core k
  if c.spBad.contains (addr / 128) then s.poisonAt k comp 7 e.iss e.iss e.pc
  else
    let t := (c.strm comp).nmnext
    let w := (c.spRow (addr / 128)).toNat / 2 ^ (256 * (addr / 32 % 4)) % 2 ^ 256
    let cmd : NmCmd :=
      { cmd := BitVec.ofNat 256 w, stamp := s.stampOf k comp e cy t.toNat, queued := false, begun := false, xl := [], blk := 0, done := 0
        acc := .zero false, crc := 0, bad := 0, wrote := false, fault := 0, fva := 0, fop := 0, transient := false }
    ({ s with nm := s.nm ++ [cmd] }.modStrm k comp fun t => { t with nmnext := t.nmnext + 1 }).qResult k comp e xd (t.setWidth 64)
/-- NMFN (R352): in a phase body it reads and clears NMSTAT at c+2 and the ticket is registered; elsewhere its register is
pending until the commands have completed. -/
def execNmfn (g : PReg) (d a : XReg) (s : State) : Out :=
  .next (runSlot (.nmfn g d a) s fun s =>
    let ticket := wb (s.x a) 31 0
    if s.inBody then s.later 7 2 (.nmfn ticket (s.qDst d))
    else
      let id := s.nextId
      let w : NmWait := { core := s.focus.1, comp := s.focus.2, ticket := ticket, id := id, xd := s.qDst d, reg := false, pc := s.me.pc }
      { s with nextId := id + 1, nmWaits := s.nmWaits ++ [w] }.modMe fun t =>
        { t with waits := t.waits ++ (s.qDst d).toList.map (fun r => (id, r)) })
/-- A registered NMFN at c+2: NMSTAT is its result, which reaches xd among the results of the cycle, and is cleared (R352). -/
def State.nmfnLand (s : State) (k : CoreId) (e : Pend) (ticket : Nat) (xd : Option PRef) : State :=
  let s := s.auditRes k false e.iss 7 (s.strm k false).nmstat
  let s := s.modStrm k false fun t =>
    let out : List Pend := match xd with
      | some (.x n) => [{ e with eff := .x false n t.nmstat }]
      | some (.sx n) => [{ e with eff := .x true n t.nmstat }]
      | _ => []
    { t with nmstat := 0, pend := t.pend ++ out }
  { s with
    nextId := s.nextId + 1
    nmWaits := s.nmWaits ++ [{ core := k, comp := false, ticket := ticket, id := s.nextId, xd := xd, reg := true, pc := e.pc }] }

end Sys2Proof.Machine
end

