-- ==== Sys2Proof/Machine/Sampler.lean ====
section
/-!
DEFINITION. Machine/Sampler.lean: sampler requests (R420 to R425), sequences and their tables (R426 to R430), draft trees
(R432), logit programs and their steps (R434 to R438), the walk and the commit (R441 to R444), lost entries (R431) and
seeds (R445).
-/
namespace Sys2Proof.Machine

/-! ### Reads and writes of the sampler (R420) -/

/-- n bytes that an engine reads; of another package's memory they are free values (log 3). -/
def State.engineBytes (s : State) (pa n : Nat) : Nat :=
  if s.ownAddr pa then Memory.getN s.mem pa n
  else ((List.range ((n + 127) / 128)).foldr (fun i r => (Config.freeRow (s.fresh * 2 ^ 52 + pa + 128 * i)).toNat + 2 ^ 1024 * r) 0) % 2 ^ (8 * n)
/-- n bytes of virtual memory with their poison, none where they do not translate; the fuel counts pages of 64 KiB. -/
def State.vread (s : State) (pt : Word) : Nat → Nat → Nat → Option (Nat × Bool)
  | 0, _, _ => some (0, false)
  | f + 1, va, n =>
    if n = 0 then some (0, false)
    else
      let k := min n (65536 - va % 65536)
      match s.walkFrom pt va with
      | none => none
      | some t =>
        if !t.allows 1 then none
        else match s.vread pt f (va + k) (n - k) with
          | none => none
          | some (x, b) => some (s.engineBytes (t.at va) k + x * 2 ^ (8 * k), s.poisoned (t.at va) k || b)
/-- A read that fails on poison as on translation. -/
def State.vtab (s : State) (pt : Word) (va n : Nat) : Option Nat :=
  match s.vread pt (n / 65536 + 2) va n with
  | some (x, false) => some x
  | _ => none
/-- A write of n bytes, row by row; one that does not translate is lost. -/
def State.vwrite (s : State) (who : Party) (pt : Word) : Nat → Nat → Nat → Nat → State
  | 0, _, _, _ => s
  | f + 1, va, n, x =>
    if n = 0 then s
    else
      let k := min n (128 - va % 128)
      let s' := match s.walkFrom pt va with
        | some t => if t.allows 2 then s.send who (rowPut (t.at va) k x false) (t.at va / 128 * 128) else s
        | none => s
      s'.vwrite who pt f (va + k) (n - k) (x / 2 ^ (8 * k))

/-! ### Request cards (R422) -/

def sBslot (c : Row) : Nat := cardF c 0 2 0
def sDue (c : Row) : Bool := cardF c 0 3 3 = 1
def sBen (c : Row) : Bool := cardF c 0 4 4 = 1
def sBar (c : Row) : Nat := cardF c 0 11 5
def sDmax (c : Row) : Nat := cardF c 0 15 12
def sV (c : Row) : Nat := cardF c 0 33 16 + 1
def sMask (c : Row) : Nat := cardF c 8 63 0
def sLbase (c : Row) : Nat := cardF c 16 63 0
def sLstride (c : Row) : Nat := cardF c 24 63 0
def sTbase (c : Row) : Nat := cardF c 32 63 0
def sRbase (c : Row) : Nat := cardF c 40 63 0
def sMembers (c : Row) : List Nat := (List.range 64).filter fun b => sMask c / 2 ^ b % 2 = 1
/-- The check of R422. -/
def sCardOk (c : Row) : Bool :=
  cardF c 0 63 34 = 0 && sMask c ≠ 0 && sLbase c < 2 ^ 52 && sTbase c < 2 ^ 52 && sRbase c < 2 ^ 52 &&
    sLstride c < 2 ^ 32 && sLstride c % 128 = 0 && 4 * sV c ≤ sLstride c && c.toNat / 2 ^ 384 = 0
/-- S of R434. -/
def sSteps (c : Row) : Nat := (sV c + 63) / 64

/-! ### Descriptors, tables and trees (R426 to R430, R432) -/

/-- Bits [hi:lo] of the word at a byte offset. -/
def atByte (x byte hi lo : Nat) : Nat := bitsOf x (8 * byte + hi) (8 * byte + lo)
def SMember.d (m : SMember) (byte hi lo : Nat) : Nat := atByte m.desc byte hi lo
def SMember.kconst (m : SMember) (k : Nat) : Nat := m.d (136 + 4 * k) 31 0
/-- The token of stop entry i, none unless valid. -/
def SMember.stop (m : SMember) (i : Nat) : Option Nat :=
  if m.d (104 + 4 * i) 31 31 = 1 then some (m.d (104 + 4 * i) 17 0) else none
/-- The stop tokens that an immediate selects. -/
def SMember.stops (m : SMember) (sel : Nat) : List Nat :=
  (List.range 8).filterMap fun i => if sel / 2 ^ i % 2 = 1 then m.stop i else none
def SMember.nodes (m : SMember) : Nat := atByte m.tree 0 21 18 + 1
def SMember.tok (m : SMember) (i : Nat) : Nat := atByte m.tree (8 * i) 17 0
def SMember.par (m : SMember) (i : Nat) : Nat := atByte m.tree (8 * i) 21 18
/-- The key-value entry of a node, none for 0xFFFF_FFFF. -/
def SMember.ent (m : SMember) (i : Nat) : Option Nat :=
  let e := atByte m.tree (8 * i) 63 32
  if e = 0xFFFF_FFFF then none else some e
/-- Depths of the nodes 0 to n − 1. -/
def treeDepths (m : SMember) : Nat → List Nat
  | 0 => []
  | n + 1 => let ds := treeDepths m n; ds ++ [if n = 0 then 0 else ds.getD (m.par n) 0 + 1]
/-- Word i of a count table, its token and its count (R428). -/
def cntWord (tab i : Nat) : Nat × Nat := (bitsOf tab (32 * i + 17) (32 * i), bitsOf tab (32 * i + 31) (32 * i + 18))
def cntPlaces (t : Nat) : List Nat := (List.range 4).map fun j => ((t ^^^ t / 1024) % 1024 + j) % 1024
def cntFind (tab t : Nat) : Option Nat := (cntPlaces t).find? fun i => (cntWord tab i).1 = t ∧ 0 < (cntWord tab i).2
def cntOf (tab t : Nat) : Nat := match cntFind tab t with | some i => (cntWord tab i).2 | none => 0
/-- An increment: the word written with its index, none when the four words are taken (R428). -/
def cntInc (tab t : Nat) : Option (Nat × Nat) :=
  match cntFind tab t with
  | some i => some (i, t + min ((cntWord tab i).2 + 1) 16383 * 2 ^ 18)
  | none => ((cntPlaces t).find? fun i => (cntWord tab i).2 = 0).map fun i => (i, t + 2 ^ 18)
def setWord32 (tab i w : Nat) : Nat := tab - bitsOf tab (32 * i + 31) (32 * i) * 2 ^ (32 * i) + w * 2 ^ (32 * i)

/-! ### Logit programs (R434, R435, R439) -/

def SMember.lpWord (m : SMember) (i : Nat) : Nat × Nat := (m.d (168 + 2 * i) 15 11, m.d (168 + 2 * i) 10 0)
/-- The instructions up to LEND; false when there is none. -/
def lpUpTo : List (Nat × Nat) → List (Nat × Nat) × Bool
  | [] => ([], false)
  | i :: r => if i.1 = 0x12 then ([i], true) else (i :: (lpUpTo r).1, (lpUpTo r).2)
def SMember.prog (m : SMember) : List (Nat × Nat) × Bool := lpUpTo ((List.range 32).map m.lpWord)
/-- The code is assigned and its immediate uses no other bits. -/
def lpWordOk (i : Nat × Nat) : Bool :=
  match i.1 with
  | 0x1 | 0x2 | 0x4 | 0x5 | 0x6 | 0xB | 0xC => i.2 < 8
  | 0x8 | 0x11 => i.2 < 256
  | 0xA => 1 ≤ i.2 && i.2 ≤ 64
  | 0x3 | 0x7 | 0x9 | 0xD | 0xE | 0xF | 0x10 | 0x12 => i.2 = 0
  | _ => false
/-- The first index of a code, past the end when it does not occur. -/
def lpAt (p : List (Nat × Nat)) (c : Nat) : Nat := p.findIdx fun i => i.1 = c
/-- The reason for which R435 refuses a program's form, 0 when it does not. -/
def SMember.lpReason (m : SMember) : Nat :=
  let p := m.prog.1
  let n := fun c => p.countP fun i => i.1 = c
  let bad := fun (i : Nat) (c : Nat) =>
    ((c = 0xD || c = 0xB || c = 0xC) && i < lpAt p 0x9) || (c = 0xB && i < lpAt p 0xA) ||
      ((c ≤ 0x8 || c = 0xA) && lpAt p 0x9 < i) || (c = 0xF && i < min (lpAt p 0xD) (lpAt p 0xE)) ||
      (c = 0x7 && m.d 72 51 0 = 0)
  if p.any (fun i => !lpWordOk i) then 1
  else if !m.prog.2 then 2
  else if n 0xD + n 0xE ≠ 1 || 1 < n 0x9 || 1 < n 0xF || 1 < n 0x10 || 1 < n 0x11 || p.zipIdx.any (fun i => bad i.2 i.1.1) ||
      (1 < m.nodes && n 0xF = 0) then 1
  else 0
/-- A constant is not one that its instruction takes (R435, reason 5). -/
def SMember.lpConstBad (m : SMember) : Bool :=
  m.prog.1.any fun i =>
    let uses := i.1 = 1 || i.1 = 2 || i.1 = 4 || i.1 = 5 || i.1 = 6 || i.1 = 0xB || i.1 = 0xC
    let v := FFmt.decode .f32 (m.kconst i.2)
    let big := fltFin (.fin false 1 0) v
    uses && (v.isNan || v.isInf || (i.1 = 4 && (v.isZero || v.neg)) || (i.1 = 0xB && (v.isZero || v.neg || big)) ||
      (i.1 = 0xC && ((v.neg && !v.isZero) || big)))
/-- The cost of an instruction, S given (R434). -/
def lpCost (sn c : Nat) : Nat :=
  match c with
  | 0x1 | 0x2 | 0x7 | 0xE => sn
  | 0x3 | 0x4 | 0x5 | 0x6 => 256
  | 0x8 | 0x11 => 8
  | 0x9 | 0xA => sn + 64
  | 0xB | 0xC => 128
  | 0xD => 80
  | 0xF => 16
  | _ => 1
/-- C_m of R439: a malformed program costs 0. -/
def SMember.cost (m : SMember) (sn : Nat) : Nat :=
  if m.lpReason ≠ 0 || m.lpConstBad then 0 else m.prog.1.foldl (fun n i => n + lpCost sn i.1) 0

/-! ### A step of a program (R436 to R438) -/

/-- A token with its logit, its weight, and whether it is a candidate. -/
structure LTok where
  t : Nat
  l : Nat
  w : Nat
  c : Bool
  deriving DecidableEq, Repr
/-- A step under way. -/
structure LStep where
  ts    : List LTok
  pick  : Option Nat
  nan   : Bool
  empty : Bool
  deriving DecidableEq, Repr
def ninf32 : Nat := 0xFF80_0000
def l32 (x : Nat) : FVal := FFmt.decode .f32 x
/-- A NaN is replaced by −∞ (R436). -/
def LStep.fix (st : LStep) : LStep :=
  { st with nan := st.nan || st.ts.any (fun k => (l32 k.l).isNan)
            ts := st.ts.map fun k => if (l32 k.l).isNan then { k with l := ninf32 } else k }
/-- Every logit that the predicate names becomes f of it. -/
def LStep.mapL (st : LStep) (p : Nat → Bool) (f : Nat → Nat → Nat) : LStep :=
  LStep.fix { st with ts := st.ts.map fun k => if p k.t then { k with l := f k.t k.l } else k }
/-- The best of a list: the first for which none is better. -/
def bestTok (better : LTok → LTok → Bool) : List LTok → Option LTok
  | [] => none
  | k :: r => match bestTok better r with
    | none => some k
    | some b => if better b k then some b else some k
/-- The n best, in order. -/
def bestToks (better : LTok → LTok → Bool) : Nat → List LTok → List LTok
  | 0, _ => []
  | n + 1, ks => match bestTok better ks with
    | none => []
    | some b => b :: bestToks better n (ks.erase b)
def LTok.moreL (a b : LTok) : Bool := fltFin (l32 b.l) (l32 a.l)
def LTok.moreW (a b : LTok) : Bool := b.w < a.w
def LStep.cands (st : LStep) : List LTok := st.ts.filter (·.c)
def sumW (ks : List LTok) : Nat := ks.foldl (fun n k => n + k.w) 0
/-- The candidates become those whose tokens are in a list. -/
def LStep.keep (st : LStep) (ks : List LTok) : LStep :=
  { st with ts := st.ts.map fun k => { k with c := k.c && ks.any (fun x => x.t = k.t) } }
/-- round_rne(x · n) of an FP32 x. -/
def rneTimes (x : Nat) (n : Int) (sh : Int) : Nat :=
  match FVal.exact (l32 x) with
  | none => 0
  | some v => (rneInt (v.1 * n, v.2 + sh)).toNat
/-- The weight of a candidate whose logit is x, m being the largest (R436). -/
def softWeight (x m : Nat) : Nat :=
  if x = m then 2 ^ 24
  else
    let nanFix := fun (b : Nat) => if (l32 b).isNan then ninf32 else b
    let d := nanFix (fadd .f32 .rne (l32 x) (l32 m).negate).bits
    let y := nanFix (fmul .f32 .rne (l32 d) (l32 0x3FB8_AA3B)).bits
    rneTimes (special .f32 .exp2 y).bits 1 24
/-- The shortest prefix whose weights reach θ. -/
def prefixTo (theta : Nat) : Nat → List LTok → List LTok
  | _, [] => []
  | acc, k :: r => if theta ≤ acc + k.w then [k] else k :: prefixTo theta (acc + k.w) r
/-- The first candidate at which the running sum passes r. -/
def drawTok (r : Nat) : Nat → List LTok → Option Nat
  | _, [] => none
  | acc, k :: ks => if r < acc + k.w then some k.t else drawTok r (acc + k.w) ks
/-- One instruction of the program on a step (R434 to R438); sn is the step number. -/
def SMember.lpStep (m : SMember) (sn : Nat) (st : LStep) (i : Nat × Nat) : LStep :=
  let kb := m.kconst i.2
  let kv := l32 kb
  let cnt := cntOf m.counts
  match i.1 with
  | 0x1 => st.mapL (fun _ => true) fun _ x => (fadd .f32 .rne (l32 x) kv).bits
  | 0x2 => st.mapL (fun _ => true) fun _ x => (fmul .f32 .rne (l32 x) kv).bits
  | 0x3 =>
    (List.range (m.d 64 60 52)).foldl (fun st j =>
      let t := atByte m.bias (8 * j) 17 0
      let b := atByte m.bias (8 * j) 63 32
      st.mapL (fun x => x = t) fun _ x => (fadd .f32 .rne (l32 x) (l32 b)).bits) st
  | 0x4 => st.mapL (fun t => 0 < cnt t) fun _ x =>
      if (l32 x).neg && !(l32 x).isZero then (fmul .f32 .rne (l32 x) kv).bits
      else let q := fracOf (l32 x) kv; (roundFrac .f32 q.1 q.2).bits
  | 0x5 => st.mapL (fun t => 0 < cnt t) fun t x =>
      (roundVal .f32 (.mode .rne) ((l32 x).sub (kv.mul (.ofInt (cnt t) 0 false)))).bits
  | 0x6 => st.mapL (fun t => 0 < cnt t) fun _ x => (fadd .f32 .rne (l32 x) kv.negate).bits
  | 0x7 => st.mapL (fun t => m.allow / 2 ^ t % 2 = 0) fun _ _ => ninf32
  | 0x8 => if m.d 48 31 0 + sn < m.d 48 55 32 then st.mapL (fun t => (m.stops i.2).contains t) fun _ _ => ninf32 else st
  | 0x9 =>
    match bestTok LTok.moreL st.cands with
    | none => st
    | some b =>
      if b.l = ninf32 then
        { st with empty := true
                  ts := st.ts.map fun k => { k with w := if (st.cands.head?).any (fun h => h.t = k.t) then 1 else 0 } }
      else { st with ts := st.ts.map fun k => { k with w := if k.c then softWeight k.l b.l else 0 } }
  | 0xA => st.keep (bestToks LTok.moreL i.2 st.cands)
  | 0xB =>
    let theta := max 1 (rneTimes kb (sumW st.cands) 0)
    st.keep (prefixTo theta 0 (bestToks LTok.moreW st.cands.length st.cands))
  | 0xC =>
    let top := st.cands.foldl (fun n k => max n k.w) 0
    st.keep (st.cands.filter fun k => rneTimes kb top 0 ≤ k.w)
  | 0xD =>
    let key := (List.range 8).map fun j => m.d (16 + 4 * j) 31 0
    let u := (chacha8Block key (256 * m.d 48 31 0 + sn) (m.d 8 63 0)).toNat % 2 ^ 64
    { st with pick := drawTok (u * sumW st.cands / 2 ^ 64) 0 st.cands }
  | 0xE =>
    match bestTok LTok.moreL st.cands with
    | none => st
    | some b => { st with pick := some b.t, empty := st.empty || decide (b.l = ninf32) }
  | _ => st
/-- A step on a row of V logits. -/
def SMember.lpRun (m : SMember) (sn v row : Nat) : LStep :=
  let st : LStep := { ts := (List.range v).map (fun t => { t := t, l := bitsOf row (32 * t + 31) (32 * t), w := 0, c := true })
                      pick := none, nan := false, empty := false }
  m.prog.1.foldl (m.lpStep sn) st.fix

/-! ### The walk (R441) -/

/-- The walk of a member: fuel bounds its steps. A row that does not translate ends the walk as a poisoned one does. -/
def State.smpWalk (s : State) (pt : Word) (card : Row) : Nat → Nat → SMember → SMember
  | 0, _, m => m
  | f + 1, cur, m =>
    match s.vread pt (4 * sV card / 65536 + 2) (sLbase card + (16 * m.b + cur) * sLstride card) (4 * sV card) with
    | some (row, false) =>
      let st := m.lpRun m.path.length (sV card) row
      let t := st.pick.getD 0
      let m := { m with lastT := t, lastN := cur, nan := m.nan || st.nan, empty := m.empty || st.empty }
      match (List.range m.nodes).find? (fun i => 1 ≤ i && m.par i = cur && m.tok i = t) with
      | some c => s.smpWalk pt card f c { m with path := m.path ++ [c] }
      | none => { m with bonus := some t }
    | _ => { m with lpois := true }

/-! ### Entry and fetch (R421, R423, R426, R432, R435, R443) -/

/-- SMPSUB (R421). -/
def execSmpsub (g : PReg) (d a : XReg) (s : State) : Out :=
  .next (runSlot (.smpsub g d a) s fun s => s.submitRow a fun x => s.later 7 1 (.smpsub x (s.qDst d) s.cyc.toNat))
/-- A record of the sampler (R448). Its FAULT is that of the barrier after the request's decrement, which sets it (R323, R328). -/
def State.smpRecord (s : State) (r : SReq) (cause reason slot node va w5 : Nat) : State :=
  s.record r.stamp 3 (recordHead r.stamp cause (sBar r.card) (sBen r.card || (s.barGet r.stamp (sBar r.card)).fault) ++
    [fields [(slot, 0, 9), (node, 9, 4), (reason, 16, 8)], BitVec.ofNat 64 va, BitVec.ofNat 64 w5, 0, 0])
/-- The barrier decrement of a request's completion: a request that made a record of a fault has failed (R323, R425). -/
def State.smpBar (s : State) (r : SReq) : State :=
  if sBen r.card then s.barDec r.stamp (sBar r.card) (128 * (sMembers r.card).length) r.failed false 3 [0, 0, 0, 0] else s
/-- SMPSUB at c+1: the request enters with its ITER; a declared one is an arrival of this boundary or the next. One whose card
fails completes at once (R421, R422, R424). -/
def State.smpsubLand (s : State) (k : CoreId) (comp : Bool) (e : Pend) (addr : Nat) (xd : Option PRef) (cy : Nat) : State :=
  let c := s.core k
  if c.spBad.contains (addr / 128) then s.poisonAt k comp 7 e.iss e.iss e.pc
  else
    let cl := clusterOf k
    let card := c.spRow (addr / 128)
    let iter := (s.cluster cl).smpbcnt
    let body := !comp && s.issuedInBody k
    let r : SReq := { card := card, stamp := s.stampOf k comp e cy iter.toNat, iter := iter.toNat, stage := .queued, seq := s.phSeq.toNat
                      inBody := body, closed := false, failed := !sCardOk card, mems := [], start := 0 }
    let s := s.modCluster cl fun u => { u with smpbcnt := iter + 1 }
    let due := body && !sDue card
    let s := if sCardOk card then
        let s := s.modCluster cl fun u => { u with reqs := u.reqs ++ [r] }
        if due then { s with bound := s.bound.map fun b => { b with missing := b.missing ++ [.sampler cl iter.toNat] } } else s
      else
        let s := (s.smpRecord r 0x58 6 0x1FF 0 0 r.iter).smpBar r
        if due then { s with bound := s.bound.map fun b => b.arrive (.sampler cl iter.toNat) s.cyc.toNat } else s
    s.qResult k comp e xd iter
def State.modReq (s : State) (cl : ClusterId) (f : SReq → SReq) : State :=
  s.modCluster cl fun u => { u with reqs := match u.reqs with | [] => [] | r :: rs => f r :: rs }
/-- Where a slot's descriptor and an entry's state word stand. -/
def State.slotVa (s : State) (cl : ClusterId) (slot : Nat) : Nat := (keep (s.cluster cl).smpbase 51 8).toNat + 256 * slot
def State.kvStateVa (s : State) (e : Nat) : Nat := (keep s.kvstate 51 8).toNat + 4 * e
/-- The fetch of a member: what it read, and, when it is skipped, the cause, reason, node and address of its record. -/
def State.smpFetch (s : State) (cl : ClusterId) (r : SReq) (b : Nat) : SMember × Option (Nat × Nat × Nat × Nat) :=
  let pt := s.ptOf r.stamp.ctx
  let slot := 64 * sBslot r.card + b
  let m0 : SMember := { b := b, why := 0, desc := 0, tree := 0, counts := 0, bias := 0, allow := 0, path := [], bonus := none, lastT := 0
                        lastN := 0, lpois := false, empty := false, nan := false, fin := false, kvrej := false, full := false
                        toks := [], nlen := 0, st := 0 }
  let bad := fun (m : SMember) va => ({ m with why := 3 }, some (0x59, 2, 0, va))
  match s.vtab pt (s.slotVa cl slot) 256 with
  | none => bad m0 (s.slotVa cl slot)
  | some desc =>
    let m := { m0 with desc := desc, nlen := atByte desc 48 31 0, st := atByte desc 0 1 0 }
    match s.vtab pt (sTbase r.card + 128 * b) 128 with
    | none => if m.st ≠ 1 then ({ m with why := 1 }, none) else bad m (sTbase r.card + 128 * b)
    | some tree =>
      let m := { m with tree := tree }
      let prog := fun reason node => ({ m with why := 2 }, some (0x58, reason, node, 0))
      if m.st ≠ 1 then ({ m with why := 1 }, none)
      else if m.lpReason ≠ 0 then prog m.lpReason 0
      else if m.lpConstBad then prog 5 0
      else
        let ns := List.range m.nodes
        match ns.find? (fun i => atByte tree (8 * i) 31 22 ≠ 0 ||
            (m.ent i).elim (decide (i ≠ 0)) (fun e => decide (s.kvlen.toNat ≤ e)) || (i ≠ 0 && i ≤ m.par i)) with
        | some i => prog 3 i
        | none =>
          match (treeDepths m m.nodes).findIdx? (fun d => sDmax r.card < d) with
          | some i => prog 4 i
          | none =>
            let ents := ns.filterMap fun i => (m.ent i).map fun e => (i, s.kvStateVa e, s.vtab pt (s.kvStateVa e) 4)
            let wrong := fun w => w % 4 ≠ 1 || bitsOf w 11 8 ≠ cl.val || bitsOf w 20 12 ≠ slot
            match ents.find? (fun e => e.2.2.all wrong) with
            | some (i, va, w) => ({ m with why := 3 }, some (0x59, if w.isNone then 2 else 3, i, va))
            | none =>
              let ops := m.prog.1.map (fun i => i.1)
              let need := fun (p : Bool) va n => if p then s.vtab pt va n else some 0
              let cntUse := ops.any fun c => c = 4 || c = 5 || c = 6 || c = 0x10
              match need cntUse (m.d 56 51 0) 4096, need (ops.contains 3 && m.d 64 60 52 ≠ 0) (m.d 64 51 0) (8 * m.d 64 60 52),
                  need (ops.contains 7) (m.d 72 51 0) ((sV r.card + 7) / 8) with
              | none, _, _ => bad m (m.d 56 51 0)
              | _, none, _ => bad m (m.d 64 51 0)
              | _, _, none => bad m (m.d 72 51 0)
              | some ct, some bs, some al => ({ m with counts := ct, bias := bs, allow := al }, none)
/-- The oldest request of a cluster begins its fetch now: it is queued, the one before it has completed, and the core close of its
phase has passed (R423). -/
def State.fetchDue (s : State) (cl : ClusterId) : Bool :=
  (s.cluster cl).reqs.head?.any fun r => r.stage = .queued && (!r.inBody || r.closed)
/-- SAMPLER_FETCH: the oldest request reads what it needs, once its phase's core close has passed (R420, R423). -/
def execSamplerFetch (cl : ClusterId) (s : State) : Out :=
  .next (
    match (s.cluster cl).reqs.head? with
    | none => s
    | some r =>
      if r.stage ≠ .queued || (r.inBody && !r.closed) then s
      else
        let ms := (sMembers r.card).map (s.smpFetch cl r)
        let s := ms.foldl (fun s m => match m.2 with
          | none => s
          | some (cause, reason, node, va) => s.smpRecord r cause reason (64 * sBslot r.card + m.1.b) node va r.iter) s
        s.draw.modReq cl fun r => { r with stage := .fetch, failed := ms.any (fun m => m.2.isSome), mems := ms.map (fun m => m.1) })

/-! ### Execute (R439, R446) -/

/-- T of R439. -/
def SReq.length (r : SReq) : Nat :=
  r.mems.foldl (fun n m => n + (sDmax r.card + 1) * (m.cost (sSteps r.card) + 16) + 64) 32
/-- SAMPLER_EXECUTE: the batch composition record is written and the walks are run; the stage lasts T cycles, and a free number
of cycles more in which the sampler waits for its reads, which SMPSTAT.STALL counts (R439, R440, R441, R446). -/
def execSamplerExecute (cl : ClusterId) (s : State) : Out :=
  .next (
    match (s.cluster cl).reqs.head? with
    | none => s
    | some r =>
      if r.stage ≠ .fetch then s
      else
        let pt := s.ptOf r.stamp.ctx
        let c := r.card
        let u := s.cluster cl
        let len := r.length
        let rec64 := [BitVec.ofNat 64 r.iter, s.cyc, BitVec.ofNat 64 (sMask c),
          fields [(sBslot c, 0, 3), ((sDue c).toNat, 3, 1), (sDmax c, 4, 4), (sV c - 1, 8, 18), (len, 32, 32)],
          BitVec.ofNat 64 (sLbase c), BitVec.ofNat 64 (sTbase c), BitVec.ofNat 64 (sRbase c),
          fields [(sLstride c, 0, 32), (r.mems.length, 32, 32)]]
        let s := s.vwrite (.sampler cl) pt 3 ((keep u.smpblogA 51 12).toNat + 64 * (r.iter % 2 ^ u.smpblogS.toNat)) 64
          (rec64.foldr (fun w x => w.toNat + 2 ^ 64 * x) 0)
        let walk := fun (m : SMember) => if m.why ≠ 0 then m else s.smpWalk pt c (sDmax c + 1) 0 m
        let wait := Config.pick (s.fresh + 1)
        (s.draw.draw.modCluster cl fun u => { u with stall := BitVec.ofNat 32 (min (u.stall.toNat + wait) 0xFFFF_FFFF) }).modReq cl fun r =>
          { r with stage := .execute (len + wait), start := s.cyc.toNat, mems := r.mems.map walk })

/-! ### Commit (R442 to R444) -/

/-- What a commit builds up: its writes, the count table, and whether a count was lost. -/
structure SCommit where
  ws   : List (Nat × Nat × Nat)
  tab  : Nat
  lost : Bool
  nlen : Nat
  deriving DecidableEq, Repr
/-- The commit of a member that was not skipped: its writes in order, the member after it, and whether a count was lost. -/
def State.smpCommit (s : State) (cl : ClusterId) (r : SReq) (m : SMember) : List (Nat × Nat × Nat) × SMember × Bool :=
  let pt := s.ptOf r.stamp.ctx
  let word := fun e => (s.vtab pt (s.kvStateVa e) 4).getD 0
  let pois := fun i => (m.ent i).any fun e => word e / 4 % 2 = 1
  let toks := m.path.map fun a => (m.tok a, m.ent a)
  -- 1. key-value check
  let rej := m.path.findIdx? pois
  let list := if pois 0 then []
    else match rej with
      | some k => toks.take k ++ [(m.tok (m.path.getD k 0), none)]
      | none => toks ++ m.bonus.toList.map fun t => (t, none)
  let kvrej := pois 0 || rej.isSome
  -- 2. stop
  let sel := match m.prog.1.find? (fun i => i.1 = 0x11) with | some i => m.stops i.2 | none => []
  let cut := list.findIdx? fun t => sel.contains t.1
  let list := match cut with | some k => list.take (k + 1) | none => list
  -- 3. capacity
  let cap := m.d 96 31 0
  let full := decide (cap < m.nlen + list.length)
  let list := if full then list.take (cap - m.nlen) else list
  let fin := cut.isSome || full
  -- 4. writes
  let root := if list.isEmpty then none else m.ent 0
  let w0 := root.toList.map fun e => (m.d 80 51 0 + 4 * (m.nlen - 1), 4, e)
  let count := m.prog.1.any fun i => i.1 = 0x10
  let c := list.foldl (fun (c : SCommit) t =>
    let c := { c with ws := c.ws ++ [(m.d 88 51 0 + 8 * c.nlen, 8, t.1 + r.iter % 2 ^ 32 * 2 ^ 32),
                                     (m.d 80 51 0 + 4 * c.nlen, 4, t.2.getD 0xFFFF_FFFF)], nlen := c.nlen + 1 }
    if !count then c
    else match cntInc c.tab t.1 with
      | none => { c with lost := true }
      | some (i, w) => { c with ws := c.ws ++ [(m.d 56 51 0 + 4 * i, 4, w)], tab := setWord32 c.tab i w })
    { ws := w0, tab := m.counts, lost := false, nlen := m.nlen }
  let kept := root.toList ++ list.filterMap (fun t => t.2)
  let marks := ((List.range m.nodes).filterMap m.ent).eraseDups.map fun e =>
    (s.kvStateVa e, 4, if kept.contains e then word e / 4 * 4 + 2 else 0)
  let st := if fin then 2 else m.st
  let ovf := m.d 0 2 2 = 1
  let d := s.slotVa cl (64 * sBslot r.card + m.b)
  let ds := [(d, 8, m.desc % 2 ^ 64 / 8 * 8 + st + (if ovf || c.lost then 4 else 0)), (d + 48, 4, c.nlen % 2 ^ 32)]
  (c.ws ++ marks ++ ds,
    { m with toks := list.map (fun t => t.1), kvrej := kvrej, full := full, fin := fin, nlen := c.nlen, st := st },
    c.lost && !ovf)
/-- The result record of a member (R433). -/
def SMember.result (m : SMember) : Nat :=
  let b := fun (p : Bool) n => if p then 2 ^ n else 0
  let w0 := m.toks.length + m.path.length * 2 ^ 5 + b m.fin 9 + b m.kvrej 10 + b m.lpois 11 + b m.empty 12 + b m.nan 13 +
    b m.full 14 + b (m.why ≠ 0) 15 + m.why * 2 ^ 16 + m.st * 2 ^ 20 + 2 ^ 63
  let path := m.path.foldr (fun a x => a + 16 * x) 0
  let toks := m.toks.foldr (fun t x => t + 2 ^ 32 * x) 0
  w0 + m.nlen % 2 ^ 32 * 2 ^ 64 + (m.lastT + m.lastN * 2 ^ 32) * 2 ^ 128 + path * 2 ^ 192 + toks * 2 ^ 256
/-- No write of a sampler waits for its acknowledgement. -/
def State.smpIdle (s : State) (cl : ClusterId) : Bool := !s.accs.any fun a => a.who = Party.sampler cl
/-- The node of the tree whose state word can no longer be read at the commit, with the word's address (R443). -/
def State.smpUnread (s : State) (pt : Word) (m : SMember) : Option (Nat × Nat) :=
  (List.range m.nodes).findSome? fun i => (m.ent i).bind fun e =>
    if (s.vtab pt (s.kvStateVa e) 4).isNone then some (i, s.kvStateVa e) else none
/-- A member skipped at its commit: of its walk nothing stands. -/
def SMember.skip (m : SMember) : SMember :=
  { m with why := 3, path := [], bonus := none, lastT := 0, lastN := 0, lpois := false, empty := false, nan := false }
/-- SAMPLER_COMMIT: member by member, the writes of a commit, then its result record without word 0, then word 0; each
part waits for the acknowledgement of the one before (R433, R442, R444). -/
def execSamplerCommit (cl : ClusterId) (s : State) : Out :=
  .next (
    match (s.cluster cl).reqs.head? with
    | none => s
    | some r =>
      let pt := s.ptOf r.stamp.ctx
      let put := fun (s : State) (ws : List (Nat × Nat × Nat)) => ws.foldl (fun s w => s.vwrite (.sampler cl) pt 4 w.1 w.2.1 w.2.2) s
      match r.stage with
      | .execute len => if s.cyc.toNat < r.start + len then s else s.modReq cl fun r => { r with stage := .commit 0 0 }
      | .commit i sub =>
        match r.mems[i]? with
        | none => s
        | some m =>
          if !s.smpIdle cl then s
          else
            let at' := sRbase r.card + 128 * m.b
            match sub with
            | 0 =>
              let slot := 64 * sBslot r.card + m.b
              match if m.why = 0 then s.smpUnread pt m else none with
              | some (node, va) =>
                (s.smpRecord r 0x59 2 slot node va r.iter).modReq cl fun r =>
                  { r with stage := .commit i 1, failed := true, mems := r.mems.set i m.skip }
              | none =>
                let x := if m.why = 0 then s.smpCommit cl r m else ([], m, false)
                let s := if x.2.2 then s.smpRecord r 0x59 1 slot 0 (m.d 56 51 0) r.iter else s
                (put s x.1).modReq cl fun r => { r with stage := .commit i 1, failed := r.failed || x.2.2, mems := r.mems.set i x.2.1 }
            | 1 => (put s [(at' + 8, 120, m.result / 2 ^ 64)]).modReq cl fun r => { r with stage := .commit i 2 }
            | _ => (put s [(at', 8, m.result % 2 ^ 64)]).modReq cl fun r => { r with stage := .commit (i + 1) 0 }
      | _ => s)

/-! ### Lost entries and completion (R425, R431) -/

/-- A sequence is lost: its descriptor says so, and its owner's companion gets a record. -/
def State.smpLose (s : State) (cl : ClusterId) (slot e : Nat) : State :=
  let pt := s.ptOf s.curCtx
  let va := s.slotVa cl slot
  match s.walkFrom pt va with
  | none => s
  | some t =>
    let w := s.engineBytes (t.at va) 256
    let k := coreIn cl (atByte w 0 10 8)
    let s := if s.ownAddr (t.at va) then s.store (t.at va) 8 (w % 2 ^ 64 / 4 * 4 + 3) 0xFF else s
    let st : Stamp := { pc := 0, core := k, comp := false, cyc := 0, ctx := (s.core k).ctx, serial := 0 }
    s.record st 3 [0x5A, 0, 0, fields [(slot, 0, 9)], BitVec.ofNat 64 e, BitVec.ofNat 64 (atByte w 48 31 0), 0, 0]
/-- An uncorrectable error is found at pa: its sector is poisoned, and in the key-value pool its entry is (R431). A slot whose
request is under way is lost after its commit. -/
def State.hardError (s : State) (pa : Nat) : State :=
    let s := { s with poison := insertAsc (pa / 64) s.poison }
    let size := wb s.kvpool 11 0 * 4096
    let base := wb s.kvpool 51 12 * 4096
    let e := (pa - base) / max size 1
    if size = 0 || pa < base || s.kvlen.toNat ≤ e then s
    else match s.walkFrom (s.ptOf s.curCtx) (s.kvStateVa e) with
      | none => s
      | some t =>
        let w := s.engineBytes (t.at (s.kvStateVa e)) 4
        let s := if s.ownAddr (t.at (s.kvStateVa e)) then s.store (t.at (s.kvStateVa e)) 4 (w ||| 4) 0xF else s
        if w % 4 ≠ 2 then s
        else
          let cl : ClusterId := ⟨bitsOf w 11 8 % 16, by omega⟩
          let slot := bitsOf w 20 12
          let busy : Bool := match (s.cluster cl).reqs.head? with
            | some r => decide (r.stage ≠ .queued) && (sMembers r.card).any fun b => 64 * sBslot r.card + b = slot
            | none => false
          if busy then s.modCluster cl fun u => { u with lost := u.lost ++ [(slot, e)] } else s.smpLose cl slot e
/-- KV_LOST: an uncorrectable error at pa in the key-value pool (R431). -/
def execKvLost (pa : Nat) (s : State) : Out := .next (s.hardError pa)
/-- A sector of device memory of this package has an error, corrected and counted or not (R431, R473, R506). -/
def execSectorError (sector : Nat) (hard : Bool) (s : State) : Out :=
  .next (if !s.ownAddr (64 * sector) || isHostAddr (64 * sector) || s.unbacked (64 * sector) then s
    else if hard then s.hardError (64 * sector)
    else s.logError 1 0 (stackOf (64 * sector)) 0 1 (64 * sector) 0)
/-- SAMPLER_COMPLETE: every write is acknowledged; the barrier is decremented and the request arrives (R420, R424, R425). -/
def execSamplerComplete (cl : ClusterId) (s : State) : Out :=
  .next (
    match (s.cluster cl).reqs.head? with
    | none => s
    | some r =>
      match r.stage with
      | .commit i 0 =>
        if i < r.mems.length || !s.smpIdle cl then s
        else
          let lost := (s.cluster cl).lost
          let s := s.modCluster cl fun u => { u with reqs := u.reqs.drop 1, lost := [] }
          let s := s.smpBar r
          lost.foldl (fun s l => s.smpLose cl l.1 l.2) (s.arrive (.sampler cl r.iter))
      | _ => s)

/-! ### Seeds (R445, R503) -/

/-- A seed is SHAKE256 of 512 raw bits of the entropy source (R503). -/
def seedBits (n : Nat) : Nat := leWord (shake256 ((List.range 8).flatMap fun i => bytesOf (Config.entropy (8 * n + i)).toNat 8))
/-- A seed is issued: it takes the next number and goes to the log; the answer is its number and where it was written. -/
def State.issueSeed (s : State) (who : Party) (mark : Nat) : State :=
  let n := s.seedcnt.toNat
  let x := seedBits s.fresh + ([n, s.cyc.toNat, mark].foldr (fun w x => w + 2 ^ 64 * x) 0) * 2 ^ 256
  ({ s with seedcnt := s.seedcnt + 1 }.draw).vwrite who s.ptbase 2 (wb s.seedbase 51 18 * 2 ^ 18 + 64 * (n % 4096)) 64 x
/-- A waiting SEEDQ gets its seed; its register is written when the log's write is acknowledged. -/
def State.seedGive (s : State) (w : NmWait) : State :=
  let n := s.seedcnt.toNat
  let id := s.nextId
  let s := State.issueSeed { s with seedWaits := s.seedWaits.erase w } (.strm w.core w.comp) (w.core.val + w.comp.toNat * 2 ^ 7)
  if s.nextId = id then s.modStrm w.core w.comp fun t => { t with waits := t.waits.filter (fun p => p.1 ≠ w.id) }
  else
    let s : State := { s with accs := s.accs.map fun a => if a.id = id then { a with dst := w.xd.toList, pos := n } else a }
    s.modStrm w.core w.comp fun t => { t with waits := t.waits.map fun p => if p.1 = w.id then (id, p.2) else p }
/-- SEEDQ (R445): its register is pending; with the entropy source stopped, so is its seed (R503). -/
def execSeedq (g : PReg) (d : XReg) (s : State) : Out :=
  .next (runSlot (.seedq g d) s fun s =>
    let id := s.nextId
    let w : NmWait := { core := s.focus.1, comp := s.focus.2, ticket := 0, id := id, xd := s.qDst d, reg := false, pc := s.me.pc }
    let s := { s with nextId := id + 1, seedWaits := s.seedWaits ++ [w] }.modMe fun t =>
      { t with waits := t.waits ++ (s.qDst d).toList.map (fun r => (id, r)) }
    if s.seedOn then s.seedGive w else s)

end Sys2Proof.Machine
end

