-- ==== Sys2Proof/Machine/Sequencer.lean ====
section
/-!
DEFINITION. Machine/Sequencer.lean: phase table banks and entries (R355 to R359), footprints (R360 to R362), selection and
latch (R363 to R365), the job's start and its boundaries (R366 to R369, R46 to R49), cancelling (R375) and the partition
controller (R381, R382).
-/
namespace Sys2Proof.Machine

/-! ### Table entries (R356, R357) -/

def State.bank (s : State) (b : Bool) : PBank := if b then s.bankB else s.bankA
def State.setBank (s : State) (b : Bool) (p : PBank) : State := if b then { s with bankB := p } else { s with bankA := p }
def PBank.entry (p : PBank) (i : Nat) : Nat := (rd p.entries i 0).toNat
/-- Bits of a header: cores, default bank, end, span, successors, slack bound, selecting entry. -/
def hNcore (e : Nat) : Nat := bitsOf e 15 8
def hDef (e : Nat) : Bool := bitsOf e 16 16 = 1
def hEnd (e : Nat) : Bool := bitsOf e 17 17 = 1
def hSpan (e : Nat) : Bool := bitsOf e 18 18 = 1
def hNext (e : Nat) (b : Bool) : Nat := if b then bitsOf e 49 41 else bitsOf e 40 32
def hSlack (e : Nat) : Nat := bitsOf e 87 64
def hSel (e : Nat) : Nat := bitsOf e 95 88
/-- The header at index h is well formed (R356, R358). -/
def headerOk (h e : Nat) : Bool :=
  e % 256 = 1 && 1 ≤ hNcore e && hNcore e ≤ 128 && h + hNcore e ≤ 511 && bitsOf e 31 19 = 0 && bitsOf e 63 50 = 0 && bitsOf e 127 96 = 0 &&
    1 ≤ hSel e && hSel e ≤ hNcore e && e / 2 ^ 192 = 0
def eDelay (e : Nat) : Nat := bitsOf e 47 32
def eEntry (e : Nat) : Nat := bitsOf e 115 64
def eTqn (e : Nat) : Nat := bitsOf e 251 244
/-- A core entry is well formed by itself (R357, R358). -/
def coreEntryOk (e : Nat) : Bool :=
  e % 4 = 2 && bitsOf e 3 2 ≠ 3 && bitsOf e 7 4 = 0 && bitsOf e 15 15 = 0 && bitsOf e 23 22 = 0 && bitsOf e 63 48 = 0 &&
    64 ≤ eDelay e && bitsOf e 68 64 = 0 && bitsOf e 127 116 = 0 && bitsOf e 133 128 = 0 && 1 ≤ bitsOf e 191 180 &&
    eTqn e ≤ 8 && bitsOf e 194 192 = 0 && bitsOf e 255 252 = 0 && e / 2 ^ 256 = 0
/-- The core an entry names, none when it is skipped (R359). -/
def entryCore (p : Nat) (e : Nat) : Option CoreId :=
  let n := bitsOf e 14 8
  match bitsOf e 3 2 with
  | 0 => some (coreOf n)
  | 1 => if n < 8 * p then some (coreOf n) else none
  | _ => if n < 8 * (16 - p) then some (coreOf (8 * p + n)) else none

/-! ### Messages to firmware and holds (R361, R369) -/

def State.modBound (s : State) (f : Boundary → Boundary) : State := { s with bound := s.bound.map f }
/-- The boundary is held with a cause, which firmware learns. -/
def State.holdBound (s : State) (cause : Nat) : State :=
  match s.bound with
  | none => s
  | some b => (s.modBound fun b => { b with hold := cause }).firmware 5 0 false cause (BitVec.ofNat 64 b.seq)
/-- A page request (R361, R473); the work that posted it waits for the answer. -/
def State.pageRequest (s : State) (va : Nat) : State :=
  ((s.modBound fun b => { b with pages := b.pages ++ [va] }).firmware 1 0 false 0 (BitVec.ofNat 64 va)).logError 4 0 0 0 1 va 0
/-- PAGE_REQUEST_ANSWER: firmware has made the page resident (R361). -/
def execPageRequestAnswer (va : Nat) (s : State) : Out :=
  .next (s.firstCtx (fun s => s.bound.any fun b => b.pages.contains va)
    (·.modBound fun b => { b with pages := b.pages.filter (· ≠ va) }))

/-! ### The latch (R358, R359, R361, R362, R365) -/

/-- A list that the latch reads: its bytes, a page that is missing, or a page that makes the phase malformed. -/
inductive ListRead where
  | ok (x : Nat)
  | page (va : Nat)
  | bad
  deriving DecidableEq, Repr
def State.readList (s : State) (pt : Word) (va n : Nat) : ListRead :=
  let pages := (List.range ((va % 65536 + n + 65535) / 65536)).map fun i => max va ((va / 65536 + i) * 65536)
  match pages.find? (fun a => match s.walkLeaf pt a with | none => true | some t => !t.allows 1) with
  | some a => .page a
  | none =>
    match s.vread pt (n / 65536 + 2) va n with
    | some (x, false) => .ok x
    | _ => .bad
/-- The regions of a footprint list: base, length, permissions; none when one is malformed (R360). -/
def regionsOf (x n : Nat) : Option (List (Nat × Nat × Nat)) :=
  let rs := (List.range n).map fun i => x / 2 ^ (128 * i) % 2 ^ 128
  if rs.any (fun r => bitsOf r 55 52 ≠ 0 || bitsOf r 63 59 ≠ 0 || bitsOf r 103 64 = 0 || bitsOf r 127 104 ≠ 0) then none
  else some (rs.map fun r => (bitsOf r 51 0, bitsOf r 103 64, bitsOf r 58 56))
/-- What a latch comes to. -/
inductive PLatch where
  | ok (d : PhaseDesc)
  | page (va : Nat)
  | bad
  deriving DecidableEq, Repr
/-- The entries of a phase resolved one by one. -/
def State.latchCores (s : State) (pt : Word) (p : Nat) : List Nat → List CoreEntry → PLatch ⊕ List CoreEntry
  | [], cs => .inr cs.reverse
  | e :: es, cs =>
    match entryCore p e with
    | none => s.latchCores pt p es cs
    | some k =>
      let n := bitsOf e 191 180
      match s.readList pt (bitsOf e 179 128) (16 * n), s.readList pt (bitsOf e 243 192) (8 * eTqn e) with
      | .page va, _ => .inl (.page va)
      | .bad, _ => .inl .bad
      | .ok _, .page va => .inl (.page va)
      | .ok _, .bad => .inl .bad
      | .ok fx, .ok tx =>
        let ws := (List.range (eTqn e)).map fun i => BitVec.ofNat 64 (tx / 2 ^ (64 * i))
        match regionsOf fx n with
        | none => .inl .bad
        | some rs =>
          let inX := rs.any fun r => 4 ≤ r.2.2 && r.1 ≤ eEntry e && eEntry e < r.1 + r.2.1
          if !inX || ws.any (fun w => s.bindMalformed k w) || cs.any (fun c => c.core = k) || !(s.maskOf s.curCtx).contains k then .inl .bad
          else
            let c : CoreEntry :=
              { core := k, group := bitsOf e 21 16, djobs := bitsOf e 31 24, delay := eDelay e, entry := BitVec.ofNat 52 (eEntry e)
                fplist := rs, tqlist := ws }
            s.latchCores pt p es (c :: cs)
/-- What the agents copy of the phase at header index h of a bank (R365). -/
def State.latchCopy (s : State) (b : Bool) (h : Nat) : LatchCopy :=
  let bk := s.bank b
  { entries := bk.entry h :: (List.range (hNcore (bk.entry h))).map fun i => bk.entry (h + 1 + i)
    prompt := wb s.partctl 19 16, modeOff := decide (wb s.partctl 1 0 = 0), xoff := allCores.filter fun k => (s.core k).mx.off }
/-- The phase copied from header index h of a bank, checked and resolved. -/
def State.latchPhase (s : State) (b : Bool) (h : Nat) (cp : LatchCopy) : PLatch :=
  let e := cp.entries.headD 0
  let es := cp.entries.drop 1
  let p := cp.prompt
  let minDelay := es.foldl (fun m x => min m (eDelay x)) 65535
  if !headerOk h e || es.any (fun x => !coreEntryOk x) || (cp.modeOff && es.any (fun x => bitsOf x 3 2 ≠ 0)) ||
      (hSpan e && (!s.realign.aligned || decide (minDelay < s.spandly.toNat))) then .bad
  else match s.latchCores (s.ptOf s.curCtx) p es [] with
    | .inl r => r
    | .inr cs =>
      .ok { seq := 0, bank := b, index := h, nxa := hNext e false, nxb := hNext e true, defB := hDef e, isEnd := hEnd e, span := hSpan e
            slackmax := hSlack e, selcore := entryCore p (es.getD (hSel e - 1) 0), mindelay := minDelay, cores := cs, prompt := p
            modeOff := cp.modeOff, xoff := cp.xoff }
/-- A phase can be latched, or its latch go on: the selection is fixed and its bank is loaded, or the phase has been copied and no
page of its lists is missing (R361). A boundary that is held latches too, since what is missing goes on (R369); one held by a
malformed phase only once firmware has written GO. -/
def State.latchDue (s : State) : Bool :=
  match s.bound with
  | none => false
  | some b => b.fixed && !b.endJob && s.latched.isNone && b.hold ≠ 0x62 && b.pages.isEmpty &&
      b.chosen.any fun c => b.copied.isSome || decide ((s.bank c.1).st = .valid)
/-- The DEF successor of a phase: as the agents hold it once it is latched, else as its bank does (R365, R375). -/
def State.successor (s : State) (d : Option PhaseDesc) (c : Bool × Nat) : Bool × Nat :=
  match d with
  | some d => (d.defB, if d.defB then d.nxb else d.nxa)
  | none =>
    let e := (s.bank c.1).entry c.2
    (hDef e, hNext e (hDef e))
/-- The latched phase is taken back from the agents: its pre-translation and training no longer count. -/
def State.unlatch (s : State) : State :=
  State.modBound { s with latched := none } fun b =>
    { b with missing := b.missing.filter (fun a => a ≠ Arrival.pretrans && a ≠ Arrival.training && a ≠ Arrival.bankLoad) ++ [.bankLoad]
             stamps := b.stamps.filter (fun a => a.1 ≠ Arrival.pretrans && a.1 ≠ Arrival.training && a.1 ≠ Arrival.bankLoad)
             lAt := none, copied := none }
/-- The boundary waits for the latch of another phase in place of the one chosen (R375). -/
def State.relatch (s : State) (n : Bool × Nat) : State :=
  let s := s.unlatch.modBound fun x => { x with chosen := some n, pages := [], skip := none }
  if (s.bank n.1).st = .empty then s.holdBound 0x63 else { s with agenda := s.agenda ++ [.phaseLatch] }
/-- The agents copy the phase chosen: the bank load arrives, pre-translation and training begin, and in adaptive mode SPLIT takes
NEXTP (R365, R367, R382). -/
def State.copyPhase (s : State) (bk : Bool) (ix : Nat) : State :=
  let s := if wb s.partctl 1 0 = 1 then
      { s with partctl := fields [(wb s.partctl 63 20, 20, 44), (wb s.partctl 31 28, 16, 4), (wb s.partctl 15 0, 0, 16)] }
    else s
  (s.arrive .bankLoad).modBound fun b =>
    { b with copied := some (s.latchCopy bk ix), missing := b.missing ++ [.pretrans, .training] }
/-- The phase chosen is copied to the agents and checked, which waits for the answer to a page request (R361, R365). One that CANC
has skipped gives way to its DEF successor, once its bank is loaded (R375). -/
def State.latchNow (s : State) : State :=
  match s.bound, s.bound.bind (·.chosen) with
  | some b0, some (bk, ix) =>
    if !s.latchDue then s
    else if b0.skip = some (bk, ix) && b0.copied.isNone then s.relatch (s.successor none (bk, ix))
    else
      let s := if b0.copied.isSome then s else s.copyPhase bk ix
      match s.bound.bind (·.copied) with
      | none => s
      | some cp =>
        match s.latchPhase bk ix cp with
        | .page va => s.pageRequest va
        | .bad => s.unlatch.holdBound 0x62
        | .ok d => { s with latched := some d }
  | _, _ => s
/-- PHASE_LATCH: the latch of a context's next phase (R365). -/
def execPhaseLatch (s : State) : Out := .next (s.firstCtx State.latchDue State.latchNow)

/-! ### Pre-translation (R361) -/

/-- The translations of [va, last] added to a list: a page that is missing or forbids the access, or too many places. -/
def State.pageWalk (s : State) (pt : Word) (acc : Nat) : Nat → Nat → Nat → List Tlb → Except (Option Nat) (List Tlb)
  | 0, _, _, _ => .error none
  | f + 1, va, last, xs =>
    if last < va then .ok xs
    else match s.walkFrom pt va with
      | none => .error (some va)
      | some t =>
        if !t.allows acc then .error (some va)
        else s.pageWalk pt acc f (t.va + 2 ^ t.size) last (if xs.contains t then xs else xs ++ [t])
/-- The phase translation cache of a cluster for a phase. -/
def State.clusterPages (s : State) (d : PhaseDesc) (cl : ClusterId) : Except (Option Nat) (List Tlb) :=
  let rs := (d.cores.filter fun c => clusterOf c.core = cl).flatMap fun c => c.fplist
  rs.foldl (fun r g => match r with
    | .error e => .error e
    | .ok xs => s.pageWalk (s.ptOf s.curCtx) g.2.2 8193 g.1 (g.1 + g.2.1 - 1) xs) (.ok [])
/-- Every page of the latched phase's footprints is walked, by the agent of each cluster for its own; each asks for a page that is
missing and waits, and too many places in a cluster make the phase malformed (R361). -/
def State.preTranslate (s : State) : State :=
  match s.latched, s.bound with
  | some d, some b =>
    if !b.missing.contains .pretrans then s
    else
      let r := (List.finRange 16).map fun cl => (cl, s.clusterPages d cl)
      let gone := r.filterMap fun x => match x.2 with | .error (some va) => some va | _ => none
      let s := (gone.filter fun va => !b.pages.contains va).eraseDups.foldl (fun s va => s.pageRequest va) s
      if r.any (fun x => match x.2 with | .ok xs => 4096 < xs.length | .error e => e.isNone) then s.unlatch.holdBound 0x62
      else if !gone.isEmpty then s
      else
        (r.foldl (fun s x => match x.2 with
          | .ok xs => s.modCluster x.1 fun u => { u with ptcNext := xs }
          | .error _ => s) s).arrive .pretrans
  | _, _ => s
/-- PRE_TRANSLATION_ARRIVAL. -/
def execPreTranslationArrival (s : State) : Out :=
  .next (s.firstCtx (fun s => s.latched.isSome && s.bound.any fun b => b.missing.contains .pretrans) State.preTranslate)
/-- REFRESH_DEBT_REPAID (R46, R367). -/
def execRefreshDebtRepaid (s : State) : Out :=
  .next (s.firstCtx (fun s => s.bound.any fun b => b.missing.contains .refresh) (·.arrive .refresh))

/-! ### Loading a bank (R363) -/

/-- PHLD (R363). -/
def execPhld (g : PReg) (bank : Bool) (a : XReg) (n1 : BitVec 9) (s : State) : Out :=
  .next (runSlot (.phld g bank a n1) s fun s =>
    if ((s.ctxView s.cur.ctx).bank bank).st = .loading then s.execTrap 0x62 7 0x02
    else s.later 7 2 (.phld bank ((s.x a).toNat / 64 * 64) (n1.toNat + 1)))
/-- PHLD at c+2. -/
def State.phldLand (s : State) (k : CoreId) (bank : Bool) (va n : Nat) : State :=
  s.setBank bank { s.bank bank with st := .loading, load := some (va, n, (s.ptOf (s.core k).ctx).toNat) }
/-- The X regions of the footprint lists that the core entries of a bank name; a list that cannot be read names none. -/
def State.bankCode (s : State) (pt : Word) (p : PBank) : List (Nat × Nat) :=
  p.entries.toList.flatMap fun e =>
    let e := e.toNat
    if e % 4 ≠ 2 then []
    else match s.readList pt (bitsOf e 179 128) (16 * bitsOf e 191 180) with
      | .ok x => ((regionsOf x (bitsOf e 191 180)).getD []).filterMap fun r => if 4 ≤ r.2.2 then some (r.1, r.2.1) else none
      | _ => []
/-- A stream without the bundles that it fetched ahead from some regions. -/
def Strm.refetch (t : Strm) (rs : List (Nat × Nat)) : Strm :=
  { t with ibuf := t.ibuf.filter fun e => !rs.any fun r => r.1 ≤ e.1 && e.1 < r.1 + r.2 }
/-- The load of a bank completes: the entries are read, and those past them become invalid; a read that fails empties the bank.
The streams of the context's cores discard the bundles that they have fetched from the code that the bank names (R263, R363). -/
def State.loadBank (s : State) (bank : Bool) : State :=
  let bk := s.bank bank
  match bk.st, bk.load with
  | .loading, some (va, n, pt) =>
    match s.vread (BitVec.ofNat 64 pt) 2 va (64 * n) with
    | some (x, false) =>
      let p : PBank := { st := .valid, load := none, entries := Vector.ofFn fun i =>
        if i.val < n then BitVec.ofNat 512 (x / 2 ^ (512 * i.val)) else rd bk.entries i.val 0 >>> 2 <<< 2 }
      let rs := s.bankCode (BitVec.ofNat 64 pt) p
      let ks := allCores.filter fun k => (s.core k).ctx = s.curCtx
      let s := ks.foldl (fun s k => s.modCore k fun c => { c with prim := c.prim.refetch rs, comp := c.comp.refetch rs }) (s.setBank bank p)
      { s with agenda := s.agenda ++ [.phaseLatch] }
    | _ => (s.setBank bank { bk with st := .empty, load := none }).firmware 3 0 false 0x62 (BitVec.ofNat 64 va)
  | _, _ => s
/-- PHLD_LOAD_DONE. -/
def execPhldLoadDone (bank : Bool) (s : State) : Out :=
  .next (s.firstCtx (fun s => decide ((s.bank bank).st = .loading)) (·.loadBank bank))

/-! ### Selection (R364, R365) -/

/-- PHSEL: the predicate is read at issue (R364). -/
def execPhsel (g : PReg) (pk : PReg) (s : State) : Out :=
  .next (runSlot (.phsel g pk) s fun s => s.later 7 2 (.phsel (s.p pk)))
/-- PHSEL at c+2. -/
def State.phselLand (s : State) (b : Bool) : State := if s.selOpen then { s with selValid := true, selB := b } else s
/-- The selection is fixed (R365, R366). -/
def State.fixSelection (s : State) : State :=
  match s.bound with
  | none => s
  | some b =>
    if b.fixed then s
    else
      let s := { s with selOpen := false }
      let isEnd := !b.start && (match s.running with | some d => d.isEnd | none => false)
      if b.endJob || isEnd then s.modBound fun b => { b with fixed := true, endJob := true, missing := b.missing.erase .bankLoad }
      else
        let ofHead := fun (f : PhaseDesc → Nat) => if b.start then 0 else match s.running with | some d => f d | none => 0
        let defB := !b.start && (match s.running with | some d => d.defB | none => false)
        let bk := if s.selValid then s.selB else defB
        let c := (bk, if bk then ofHead (·.nxb) else ofHead (·.nxa))
        let s := State.modBound { s with selValid := false } fun b => { b with fixed := true, chosen := some c }
        if (s.bank c.1).st = .empty then s.holdBound 0x63 else { s with agenda := s.agenda ++ [.phaseLatch] }

/-! ### The boundary: arrivals, F and L (R46, R47, R367) -/

def Arrival.kind : Arrival → Nat
  | .core _ => 0
  | .job _ _ | .sampler _ _ | .unsubmitted _ => 1
  | .refresh => 2
  | .pretrans => 3
  | .training => 4
  | .bankLoad => 5
def Arrival.isCore : Arrival → Bool
  | .core _ => true
  | _ => false
def leastOf : List Nat → Option Nat
  | [] => none
  | x :: r => some (r.foldl min x)
/-- F over the packages heard of (R52, R406). -/
def Boundary.spanFirst (b : Boundary) (f : Nat) : Nat := b.spanFL.foldl (fun m x => min m x.2.1) f
/-- F: the first core arrival, or, of a phase that runs no core, the first arrival, none before its start instant (R359,
R367). -/
def Boundary.first (b : Boundary) : Option Nat :=
  match b.allSkip with
  | none => leastOf ((b.stamps.filter fun a => a.1.isCore).map fun a => a.2)
  | some t => leastOf (b.stamps.map fun a => max t a.2)
/-- L and the kind of the arrival that made it; a stamp before F counts as F. -/
def Boundary.last (b : Boundary) : Option (Nat × Nat) :=
  match b.first with
  | none => none
  | some f =>
    let l := b.stamps.foldl (fun l a => max l a.2) f
    match b.stamps.find? (fun a => max f a.2 = l) with
    | none => some (l, 0)
    | some a => some (l, a.1.kind)
/-- The entry in flight still writes something that the core's arrival waits for (R98, R367). -/
def Effect.stores : Effect → Bool
  | .rowWrite _ _ _ _ | .drain _ | .commit _ => true
  | .vec (.q _ _) _ _ _ => true
  | .vop op _ _ => match op.dst with | .q _ _ => true | _ => false
  | _ => false
/-- The event of the arrival of core k has come about (R367, R415): c is the core, which runs the context, and ws its registered
NMFNs. -/
def State.arrived (s : State) (k : CoreId) (c : Core) (ws : List NmWait) : Bool :=
  c.place = .window && c.startAt.isNone && !c.prim.pend.any (fun e => e.eff.stores) && c.seg.held.isEmpty &&
    c.tq.toList.all (fun e => !(e.bound && e.outbound) || e.rows.isEmpty) &&
    !s.accs.any (fun a => a.op.writes && (match a.who with | .unit j _ _ => j = k | _ => false) && a.phase.any (fun p => p.1 = s.curCtx)) &&
    ws.all (fun w => !(w.reg && w.core = k) || !s.nmCoversIn s.curCtx k w.comp w.ticket) &&
    !c.prim.pend.any (fun e => match e.eff with | .nmfn t _ => s.nmCoversIn s.curCtx k false t | _ => false)
/-- A core of the context as its record holds it, while it is switched out, and the NMFNs that wait for it. -/
def State.savedCore (s : State) (k : CoreId) : Option (Core × List NmWait) :=
  (s.ctxs.find? fun x => s.curCtx = some x.num).bind fun x => (x.saved.find? fun c => c.1 = k).map fun c => (c.2, x.nmHeld)
/-- The event of a core's arrival has come about; a switched-out core arrives when the near-memory commands that it waited for
complete (R55, R367). -/
def State.coreArrives (s : State) (k : CoreId) : Bool :=
  if (s.core k).ctx = s.curCtx then s.arrived k (s.core k) s.nmWaits
  else match s.savedCore k with
    | some (c, ws) => s.arrived k c ws
    | none => false
/-- A core past its PHEND has submissions that enter at the next instant. -/
def Core.submits (c : Core) : Bool :=
  c.place = .window && c.prim.pend.any fun e => match e.eff with | .jsub _ _ _ | .smpsub _ _ _ => true | _ => false
/-- The start instant of a phase that runs no core has come (R359). -/
def State.begun (s : State) (b : Boundary) : Bool := b.allSkip.all (· ≤ s.cyc.toNat)
/-- Nothing is missing at the boundary, and no submission is on its way that could add to it. -/
def State.complete (s : State) (b : Boundary) : Bool := b.missing.isEmpty && s.begun b && !allCores.any fun k => (s.core k).ctx = s.curCtx && (s.core k).submits
/-- Declared jobs that were never submitted arrive with their core (R367). -/
def State.unsubmittedArrive (s : State) : State :=
  s.modBound fun b =>
    (b.missing.filterMap fun a => match a with | .unsubmitted k => some k | _ => none).foldl (fun b k =>
      match b.stamps.find? fun a => a.1 = Arrival.core k with
      | some a => if (s.core k).ctx = s.curCtx && (s.core k).submits then b else b.arrive (.unsubmitted k) a.2
      | none => b) b
/-- Cores that arrive at the end of the present cycle. -/
def State.collectCores (s : State) : State :=
  match s.bound with
  | none => s
  | some b =>
    let ks := b.missing.filterMap fun a => match a with | .core k => if s.coreArrives k then some k else none | _ => none
    let gone := fun (k : CoreId) (ws : List NmWait) => ws.filter fun w => !(w.reg && w.core = k)
    (ks.foldl (fun s k =>
      if (s.core k).ctx = s.curCtx then State.arrive { s with nmWaits := gone k s.nmWaits } (.core k)
      else State.arrive { s with ctxs := s.ctxs.map fun x => if s.curCtx = some x.num then { x with nmHeld := gone k x.nmHeld } else x } (.core k))
      s).unsubmittedArrive
/-- The core close of the phase lets its sampler requests begin (R423). -/
def State.coreClose (s : State) : State :=
  match s.bound with
  | none => s
  | some b =>
    if b.missing.any Arrival.isCore then s
    else { s with clusters := s.clusters.map fun u =>
      { u with reqs := u.reqs.map fun r => if r.inBody && r.seq = b.seq && r.stamp.ctx = s.curCtx then { r with closed := true } else r } }
/-- Every port that the latched phase binds is trained, and with SPAN those of the timing tree (R367, R396). -/
def State.linksTrained (s : State) (d : PhaseDesc) : Bool :=
  let ps := (d.cores.flatMap fun c => c.tqlist.map bwPort).filter (· < 24) ++ (if d.span then s.treePorts ++ s.timingPort.toList else [])
  ps.all fun p => (s.port p).up && !(s.port p).train
/-- The boundary spans packages: the start boundary of a job of several packages, or one whose header has SPAN (R406). -/
def State.spans (s : State) (b : Boundary) : Bool :=
  !s.jobDevs.isEmpty && (b.start || (match s.running with | some d => d.span | none => false))
/-- PHID, the selection and the counters of a phase, at its first start, or, when it runs no core, at its start instant
(R359, R364, R368, R374). -/
def State.beginPhase (s : State) (d : PhaseDesc) : State :=
  if s.hcounts.any (fun h => h.level = 3 && h.seq = d.seq && !h.done) then s
  else
    let mk := fun (level : Nat) => ({ level := level, id := d.seq, seq := d.seq, count := 0, done := false, canc := false, recAddr := 0, pre := false, set := [], ended := [], zero := false } : HCount)
    { s with
      lastEnd := none
      phSeq := BitVec.ofNat 32 d.seq, phBank := d.bank, phIndex := BitVec.ofNat 9 d.index, selOpen := true, selValid := false
      hcounts := mk 2 :: mk 3 :: s.hcounts.filter fun h => h.level = 4 || d.seq ≤ h.seq + 2 }
/-- The last arrival L of a boundary is known: the requests that peers still await are served, started snapshots set their marks, and a
requested recovery point takes effect (R46, R259, R331, R464). The boundary of a spanning job takes it when L reaches the package
(DESIGN CHOICE, log 43). -/
def State.reachLast (s : State) (l : Nat) : State :=
  (((s.modBound fun b => { b with lAt := some l }).servePeers s.curCtx).markSnapshots).recoveryPoint l
/-- What the sequencer does for a context at the end of a cycle: arrivals are stamped, a selection that no PHSEL can fix is fixed
at F, and L is known once nothing is missing. -/
def State.collectOne (s : State) : State :=
  let s := s.collectCores.coreClose
  let s := match s.latched with | some d => if s.linksTrained d then s.arrive .training else s | none => s
  match s.bound with
  | none => s
  | some b =>
    let selects := !b.allSkip.isSome && (b.start || (match s.running with | some d => d.selcore.isSome | none => false))
    let s := match b.allSkip, s.running with
      | some _, some d => if s.begun b then s.beginPhase d else s
      | _, _ => s
    let s := if b.first.isSome && s.begun b && !selects then s.fixSelection else s
    match s.bound with
    | none => s
    | some b => if s.complete b && b.lAt.isNone && !s.spans b then match b.last with
        | some x => s.reachLast x.1
        | none => s
      else s
/-- Some core runs the context, and no pre-emption holds it. -/
def State.switchedIn (s : State) (ctx : Option Nat) : Bool :=
  allCores.any fun k => (s.core k).ctx = ctx && (s.core k).preempted.isNone
/-- A cycle between F and L in which the context is switched out is left out of L - F (R368). -/
def State.countAway (s : State) : State :=
  if s.curCtx.isNone || s.switchedIn s.curCtx then s
  else s.modBound fun b => if b.first.isSome && b.lAt.isNone then { b with out := b.out + 1 } else b
/-- The end of a cycle, for every context. -/
def State.collect (s : State) : State := s.eachCtx fun s => s.collectOne.countAway
/-- The last cycle at which an arrival is in time (R47, R368); the root of a span reckons with the F of every package that it has
heard of (R406). -/
def Boundary.limit (b : Boundary) : Option Nat := b.first.map fun f => b.spanFirst f + b.slackmax + b.out
/-- The arrivals that come too late: those missing, and those stamped after the limit. -/
def Boundary.late (b : Boundary) : List Arrival :=
  b.missing ++ (b.stamps.filter fun a => b.limit.any fun l => decide (l < a.2)).map (·.1)
/-- SLACKMAX has passed since F with an arrival missing (R47, R368); one that comes about in this very cycle is too late. Across a
span each package judges its own arrivals so, and the root the L of all of them when it has heard of it (R406; DEDUCED, log 66). -/
def State.slackDue (s : State) : Bool :=
  match s.bound with
  | none => false
  | some b =>
    !b.start && b.slackmax ≠ 0 && b.hold = 0 && b.went.isNone && !b.late.isEmpty &&
      b.limit.any fun l => decide (l < s.cyc.toNat)
/-- What a boundary that is late reports: PHASE_UNREADY when only the bank's load, and what waits for it, is missing (R365). -/
def Boundary.overrun (b : Boundary) : Nat :=
  if b.late.contains .bankLoad && b.late.all (fun a => [.bankLoad, .pretrans, .training].contains a) then 0x63 else 0x60
/-- SLACK_OVERRUN, or PHASE_UNREADY (R47, R365). -/
def execSlackOverrun (s : State) : Out :=
  .next (s.firstCtx State.slackDue fun s => match s.bound with
    | none => s
    | some b => if !s.slackDue then s else s.holdBound b.overrun)

/-! ### The last arrival and the next start (R366 to R368) -/

/-- Sampler requests of the context that a job's completion waits for (R450). -/
def State.samplersDone (s : State) : Bool :=
  s.clusters.toList.all fun u => !u.reqs.any fun r => r.inBody && r.stamp.ctx = s.curCtx
def State.ctxCores (s : State) : List CoreId := allCores.filter fun k => (s.core k).ctx = s.curCtx
/-- A core whose job is over (R374). -/
def Core.jobOver (c : Core) : Core :=
  { c with place := .outside, group := none, slice := none, startAt := none, prim := { c.prim with run := .ended } }
/-- What f does to core k as the record of context n holds it. -/
def State.onSaved (s : State) (n : Nat) (k : CoreId) (f : State → State) : State :=
  match (s.ctxs.find? fun x => x.num = n).bind fun x => x.saved.find? fun c => c.1 = k with
  | none => s
  | some (_, c) =>
    let live := s.core k
    let s := f (s.setCore k c)
    let c := s.core k
    (s.modCtx n fun x => { x with saved := x.saved.map fun p => if p.1 = k then (k, c) else p }).setCore k live
/-- Every endpoint of core k is flushed, as TQFL would (R411). -/
def State.flushAll (s : State) (k : CoreId) : State := (List.range 8).foldl (fun s q => s.tqFlushNow k q) s
/-- The job of the running context completes: its primaries end, its endpoints are flushed, those of its switched-out cores among
them (R374, R411). -/
def State.finishJob (s : State) : State :=
  let s := match s.curCtx with
    | none => s
    | some n => allCores.foldl (fun s k => s.onSaved n k (·.flushAll k)) s
  let s := s.ctxCores.foldl (fun s k => (s.flushAll k).modCore k Core.jobOver) s
  { s with
    realign := if s.realign.active && s.realign.ctx = s.curCtx then { s.realign with active := false, resume := none, stepAt := none } else s.realign
    bound := none, running := none, latched := none, lastEnd := none, selOpen := false, selValid := false
    hcounts := s.hcounts.map fun h => if h.level = 4 then { h with done := true, count := if h.canc then 0 else h.count + 1 } else h
    ctxs := s.ctxs.map fun x =>
      if s.curCtx = some x.num then { x with jobRun := false, saved := x.saved.map fun c => (c.1, c.2.jobOver) } else x }
/-- The boundary of a phase that is about to start: its cores, its declared jobs, its slack tasks, and the sampler requests
of the phase before that are due at it (R367, R424). -/
def State.newBoundary (s : State) (d : PhaseDesc) (base : Nat) (oldSeq : Nat) : Boundary :=
  let due := (List.finRange 16).flatMap fun cl => ((s.cluster cl).reqs.filter fun r =>
    r.inBody && sDue r.card && r.seq = oldSeq && r.stamp.ctx = s.curCtx).map fun r => Arrival.sampler cl r.iter
  { start := false
    missing := d.cores.map (fun c => Arrival.core c.core) ++ d.cores.flatMap (fun c => List.replicate c.djobs (Arrival.unsubmitted c.core)) ++
      due ++ [.refresh, .bankLoad]
    stamps := [], slackmax := d.slackmax, seq := d.seq, fixed := false, chosen := none, copied := none, endJob := false
    allSkip := if d.cores.isEmpty then some (base + d.mindelay) else none
    pages := [], hold := 0, went := none, lAt := none, skip := none, sent := false, spanFL := [], out := 0 }
/-- The last arrival can be acted on. -/
def State.lastReady (s : State) : Bool :=
  match s.bound with
  | none => false
  | some b => b.lAt.isSome && b.hold = 0 && (if b.endJob then s.samplersDone else s.latched.isSome)
/-- The start of core k is announced for wall cycle w, or taken back. A core that is switched out, or stopped to be, starts after its
switch-in: its start stands as if announced at its stop, so that the interval is added to it (R178, R384). -/
def State.setStart (s : State) (k : CoreId) (w : Option Nat) : State :=
  let now := s.cyc.toNat
  if (s.core k).ctx = s.curCtx then s.modCore k fun c => { c with startAt := w.map (· - (now - c.stoppedAt now)) }
  else match s.curCtx with
    | none => s
    | some n => s.modCtx n fun x => { x with saved := x.saved.map fun c =>
        if c.1 = k then (k, { c.2 with startAt := w.map (· - (now - c.2.stoppedAt now)) }) else c }
/-- A boundary whose L is known: the phase's counters close, and the job completes or the start of the next phase is announced (R47,
R368, R374, R375). -/
def State.lastArrival (s : State) : State :=
  match s.bound with
  | none => s
  | some b =>
    if !s.lastReady then s
    else
      let l := b.lAt.getD 0
      let span := l - b.first.getD l - b.out
      let s : State := { s with slkSpan := BitVec.ofNat 32 (min span (2 ^ 32 - 1)), slkKind := BitVec.ofNat 4 ((b.last.map fun x => x.2).getD 0) }
      let s : State := if b.start then s else
        { s.closeLaunches b.seq with hcounts := (s.closeLaunches b.seq).hcounts.map fun h =>
            if h.level = 3 && h.id = b.seq then { h with done := true } else h }
      if b.endJob then s.finishJob
      else match s.latched with
        | none => s
        | some d0 =>
          let d := { d0 with seq := if b.start then 0 else (b.seq + 1) % 2 ^ 32 }
          let base := max l (b.went.getD 0)
          let s : State := if b.start then s else { s with hcounts := s.hcounts.map fun h => if h.level = 4 then { h with count := h.count + 1 } else h }
          let s : State := { s with
            lastEnd := some (b, s.running), bound := some (s.newBoundary d base b.seq), running := some d, latched := none
            clusters := s.clusters.map fun u => { u with ptc := u.ptcNext, ptcNext := [] } }
          d.cores.foldl (fun s c => s.setStart c.core (some (base + c.delay))) s
/-- SLUICE_LAST_ARRIVAL. -/
def execSluiceLastArrival (s : State) : Out := .next (s.firstCtx State.lastReady State.lastArrival)
/-- The bindings of a core entry, in order: a word equal to the present binding leaves it, one whose endpoint is taken is
the answer (R362, R411). -/
def State.applyBindings (s : State) (k : CoreId) : List Word → State × Option Word
  | [] => (s, none)
  | w :: ws =>
    let e := (s.core k).tqAt (bwTq w)
    if e.bound && !e.flush && e.bind = w then s.applyBindings k ws
    else if s.bindBusy k w then (s, some w)
    else (s.tqBindNow k w).applyBindings k ws
/-- Core k enters its phase body, once its start instant has come (R139, R362, R368, R451). -/
def State.phaseStart (s : State) (k : CoreId) : State :=
  match (s.core k).startAt, s.running with
  | some t, some d =>
    match d.cores.find? (fun c => c.core = k) with
    | none => s
    | some e =>
      if s.cyc.toNat < t then s
      else
        let s := s.beginPhase d
        let anns : List Freeze := match allCores.find? fun j => (s.core j).group = some e.group && (s.core j).ctx = (s.core k).ctx with
          | none => []
          | some j => (s.core j).freezes.map fun f => f.asOf (s.core j).groupInst (s.core k).prim.inst
        let s := s.modCore k fun c =>
          let c := c.enterCode
          let t := c.prim
          let c := { c with
            place := .body, group := some e.group, b0 := t.inst, startAt := none, slice := none
            freezes := c.freezes.filter Freeze.byWall ++ anns.filter (fun (f : Freeze) => !f.byWall)
            prim := { t with run := .running, pc := e.entry, holdTo := t.inst, ready := t.inst } }
          c.openSegment t.inst t.inst t.inst e.entry
        let r := s.applyBindings k e.tqlist
        match r.2 with
        | none => r.1
        | some w => r.1.takeTrap k false 1 0x73 7 e.entry (e.entry + 32) w
  | _, _ => s
/-- PHASE_START: the entry bundle's cycle, L + Dk. -/
def execPhaseStart (k : CoreId) (s : State) : Out := .next (s.asCtx (s.core k).ctx (·.phaseStart k))
/-- The job of the running context starts on its cores (R366): banks empty, start code at INIT with the control state of
R139, and the start boundary. -/
def State.startJob (s : State) (init : BitVec 52) : State :=
  let ks := s.ctxCores
  let s := ks.foldl (fun s k => s.modCore k fun c =>
    let c := c.enterCode
    let t := c.prim
    { c with
      place := .startCode, group := none, slice := none, startAt := none, realigned := false
      tq := c.tq.map fun e => { e with everBound := e.bound }
      prim := { t with run := .running, pc := init, holdTo := t.inst, ready := t.inst } }) s
  -- each buffer of these cores is owned by its home (R223)
  let s := ks.foldl (fun s k => s.modCluster (clusterOf k) fun u =>
    { u with bufs := Vector.ofFn fun i => if i.val / 64 = k.val % 8 then .owned (k.val % 8) else rd u.bufs i.val (.owned (i.val / 64)) }) s
  { s with
    -- a job is not aligned before its REALIGN completes (R51)
    realign := if s.realign.active && s.realign.ctx ≠ s.curCtx then { s.realign with aligned := false, failed := false }
      else { Realign.reset with reports := s.realign.reports }
    spandly := 0x40
    bankA := .reset, bankB := .reset, phSeq := 0, phBank := false, phIndex := 0, selOpen := true, selValid := false
    running := none, latched := none, lastEnd := none
    hcounts := [{ level := 4, id := 0, seq := 0, count := 0, done := false, canc := false, recAddr := 0, pre := false, set := [], ended := [], zero := false }]
    bound := some
      { start := true, missing := ks.map Arrival.core ++ [.refresh, .bankLoad], stamps := [], slackmax := 0, seq := 0, fixed := false
        chosen := none, copied := none, endJob := false, allSkip := none, pages := [], hold := 0, went := none, lAt := none, skip := none, sent := false
        spanFL := [], out := 0 } }

/-! ### SEQCTL (R369) -/

/-- SEQCTL_GO: firmware ends a hold. After PHASE_UNREADY or PHASE_TABLE the chosen bank must be VALID, and the phase is
latched afresh. -/
def execSeqctlGo (s : State) : Out :=
  .next (
    match s.bound with
    | none => s
    | some b =>
      let go := s.modBound fun b => { b with hold := 0, went := some s.cyc.toNat, copied := if s.latched.isSome then b.copied else none }
      match b.hold, b.chosen with
      | 0, _ => s
      | 0x60, _ => go
      | _, some c => if (s.bank c.1).st = .valid then { go with agenda := go.agenda ++ [.phaseLatch] } else s
      | _, none => s)

/-! ### CANC (R54, R375) -/

def State.canc (s : State) (level : Nat) (i : Instr) (a : XReg) : State := runSlot i s fun s => s.later 7 2 (.canc level (s.x a))
/-- CANC of a launch. -/
def execCancLaunch (g : PReg) (a : XReg) (s : State) : Out := .next (s.canc 1 (.cancLaunch g a) a)
/-- CANC of a graph. -/
def execCancGraph (g : PReg) (a : XReg) (s : State) : Out := .next (s.canc 2 (.cancGraph g a) a)
/-- CANC of a phase. -/
def execCancPhase (g : PReg) (a : XReg) (s : State) : Out := .next (s.canc 3 (.cancPhase g a) a)
/-- CANC of the job. -/
def execCancJob (g : PReg) (a : XReg) (s : State) : Out := .next (s.canc 4 (.cancJob g a) a)
/-- Some core of the context stands in its phase body: a cancel takes effect at the boundary (R54, R375). -/
def State.inTimedPhase (s : State) : Bool := allCores.any fun k => (s.core k).ctx = s.curCtx && decide ((s.core k).place = .body)
/-- A graph is cancelled: its launches, and its declared jobs that have not started. Outside a timed phase its counter is set to
0. -/
def State.cancelGraph (s : State) (id : Nat) : State :=
  if !s.hcounts.any (fun h => h.level = 2 && h.id = id && !h.done && s.countOf { h with zero := false } ≠ 0) then s
  else
    let timed := s.inTimedPhase
    let declared := match s.bound with | some b => if b.seq = id && !b.start then b.missing else [] | none => []
    let s : State := { s with hcounts := s.hcounts.map fun h => if h.level = 2 && h.id = id && !h.done then { h with canc := true, zero := !timed } else h }
    (s.cancelLaunches fun h => h.seq = id && !h.pre).cancelJobs fun cl j => declared.contains (.job cl j.stamp.serial)
/-- The start that a boundary announced is taken back: the phase has not started. -/
def State.unannounce (s : State) (b : Boundary) (prev : Option PhaseDesc) (d : PhaseDesc) : State :=
  let s := d.cores.foldl (fun s c => s.setStart c.core none) s
  { s with
    bound := some { b with lAt := none, sent := false, copied := none }, running := prev, latched := none, lastEnd := none
    hcounts := s.hcounts.map fun h =>
      if b.start then h
      else if h.level = 4 then { h with count := h.count - 1 }
      else if h.level = 3 && h.id = b.seq then { h with done := false } else h }
/-- The phase at (bank, index) is skipped when it is the next to start and has not started, latched or announced though it may
be: its DEF successor takes its place (R375). -/
def State.cancelPhase (s : State) (b : Bool) (ix : Nat) : State :=
  match s.lastEnd, s.running with
  | some (old, prev), some d =>
    if d.bank = b && d.index = ix then (s.unannounce old prev d).relatch (s.successor (some d) (b, ix)) else s
  | _, _ =>
    match s.bound with
    | none => s
    | some bd =>
      if bd.endJob then s
      else match bd.chosen with
        | none => s.modBound fun x => { x with skip := some (b, ix) }
        | some c =>
          if c ≠ (b, ix) then s
          else match bd.copied with
            | some cp =>
              let e := cp.entries.headD 0
              s.relatch (hDef e, hNext e (hDef e))
            -- its bank still loads: what succeeds it is known with the load
            | none => s.modBound fun x => { x with skip := some c }
/-- The job is cancelled: nothing further is latched, and what has not started goes: jobs, near-memory commands, and the tiles of
launches outside a timed phase (R54). The job completes at the current boundary's L, or at once when the boundary is held (R384);
outside a timed phase its counter is set to 0. -/
def State.cancelJob (s : State) : State :=
  let timed := s.inTimedPhase
  let s := (s.cancelJobs fun _ j => j.stamp.ctx = s.curCtx).cancelLaunches fun h => h.pre
  let s : State := { s with
    nm := s.nm.filter fun c => c.begun || c.stamp.ctx ≠ s.curCtx, latched := none
    hcounts := s.hcounts.map fun h => if h.level = 4 && !h.done then { h with canc := true, zero := !timed } else h }
  match s.lastEnd, s.running with
  -- L has been announced and the next phase has not started: the job completes at that boundary
  | some (old, prev), some d => (s.unannounce old prev d).finishJob
  | _, _ =>
  match s.bound with
  | none => s
  | some b =>
    if b.hold ≠ 0 then s.finishJob
    else s.modBound fun b => { b with endJob := true, missing := b.missing.filter fun a => a ≠ .pretrans && a ≠ .training && a ≠ .bankLoad }
/-- CANC at c+2. -/
def State.cancLand (s : State) (level : Nat) (x : Word) : State :=
  match level with
  | 1 => s.cancelLaunches fun h => h.id = wb x 31 0
  | 2 => s.cancelGraph (wb x 31 0)
  | 3 => s.cancelPhase (x.getLsbD 9) (wb x 8 0)
  | _ => s.cancelJob

/-! ### The partition controller (R382) -/

/-- PARTITION_PERIOD: the queue depths decide NEXTP. -/
def execPartitionPeriod (s : State) : Out :=
  .next (
    if wb s.partctl 1 0 ≠ 1 then s
    else
      let at' := wb s.partq 51 4 * 16
      let qp := (s.getWord at').toNat
      let qd := (s.getWord (at' + 8)).toNat
      let p := wb s.partctl 19 16
      let n := if qd * p + wb s.partctl 47 32 < qp * (16 - p) ∧ p < wb s.partctl 27 24 then p + 1
        else if qp * (16 - p) + wb s.partctl 63 48 < qd * p ∧ wb s.partctl 23 20 < p then p - 1 else p
      { s with partctl := fields [(wb s.partctl 63 32, 32, 32), (n, 28, 4), (wb s.partctl 27 0, 0, 28)] })

end Sys2Proof.Machine
end

