-- ==== Sys2Proof/Machine/Links.lean ====
section
/-!
DEFINITION. Machine/Links.lean: accesses at their homes, their replies and acknowledgements (R246, R250, R332), the messages
RD, WR, RSP and ATOM (R390), ports, flits and replay (R387 to R392, R402), training and links that go down (R394 to R397),
REALIGN (R159, R403 to R405) and the Sluice tree across packages (R406, R407).
-/
namespace Sys2Proof.Machine

/-! ### Homes (R250, R258, R260, R332) -/

/-- Two accesses touch a common sector. -/
def Access.meets (a b : Access) : Bool :=
  !a.op.ofPeer && !b.op.ofPeer && a.pa / 64 ≤ (b.pa + b.op.size - 1) / 64 && b.pa / 64 ≤ (a.pa + a.op.size - 1) / 64
/-- Both are reductions of the timed world. -/
def Access.reductions (b a : Access) : Bool := match b.op, a.op with | .reduce _ _, .reduce _ _ => true | _, _ => false
/-- Accesses of two phases of one context, by engines that take part in them (R259). -/
def Access.phasesApart (b a : Access) : Bool :=
  match b.phase, a.phase with
  | some x, some y => x.1 = y.1 && x.2 ≠ y.2
  | _, _ => false
/-- b performs before a: an access of an earlier phase (R259), an earlier access of one party, or of one other package, to a
common sector (R260, R400), a timed access of the same freeze group whose window closed before that of a opened (R258), an
earlier reduction of the timed world (R238), or a posted write before any later access of the host (R493). -/
def Access.before (b a : Access) : Bool :=
  b.id < a.id && !b.done &&
    (b.phasesApart a ||
     match b.who, a.who with
     | .unit _ _ _, .unit _ _ _ =>
       b.meets a && ((b.grp = a.grp && b.phase = a.phase && b.shut.any fun w => w < a.sent) || b.reductions a)
     | .link d _, .link e _ => d = e && b.meets a
     | x, y => x = y && (b.meets a || b.posted))
/-- The instant of its core at which the window of a timed access closes: the detection instant of a read, LEAD after the send of
a write (R235, R237). -/
def State.windowEnd (s : State) (k : CoreId) (a : Access) : Nat := a.inst + a.lead - (if a.op.writes then 0 else s.horizon k)
/-- Windows that the present cycle closes, and writes that wait for the copy of a marked block (R258, R333). -/
def State.watchAccesses (s : State) : State :=
  { s with accs := s.accs.map fun a =>
      let past := match a.who with | .unit k _ _ => decide (s.windowEnd k a ≤ (s.core k).prim.inst) | _ => false
      { a with
        shut := if past && a.shut.isNone then some s.cyc.toNat else a.shut
        held := a.held || (a.op.writes && !a.done && s.marks.any fun m => m.block = a.pa / 65536) } }
/-- A read of a job whose row holds a timed write of its submitting primary with an open window: it waits until that closes (R261). -/
def State.unseen (s : State) (a : Access) : Bool :=
  match a.who with
  | .job cl serial => !a.op.writes && match (s.cluster cl).jobs.find? fun j => j.stamp.serial = serial with
    | some j => (s.opensOf j.stamp).contains (a.pa / 128)
    | none => false
  | _ => false
/-- A timed write has performed; the row is not to be seen by its core's jobs until its window closes (R261). -/
def State.openRow (s : State) (a : Access) : State :=
  match a.who with
  | .unit k _ _ => if a.op.writes && decide ((s.core k).prim.inst < s.windowEnd k a) then
      s.modCore k fun c => { c with opens := c.opens ++ [(a.pa / 128, s.windowEnd k a)] } else s
  | _ => s
/-- An access can perform at its home now: not one of another package or of a peer port, not a write that waits for the copy
of a marked block (R332), not a read that a row keeps waiting, and nothing that performs before it is left. -/
def State.homeReady (s : State) (a : Access) : Bool :=
  s.ownAddr a.pa && !a.done && (match a.op with | .peer _ _ => false | _ => true) &&
    !(a.op.writes && s.marks.any fun m => m.block = a.pa / 65536) && !s.unseen a && !s.accs.any fun b => b.before a
def State.putAcc (s : State) (a : Access) : State := { s with accs := s.accs.map fun b => if b.id = a.id then a else b }
def State.dropAcc (s : State) (id : Nat) : State := { s with accs := s.accs.filter fun b => b.id ≠ id }
/-- Its sender learns a result, and not an acknowledgement alone (R246). -/
def Access.replies (a : Access) : Bool :=
  match a.op with
  | .read _ | .peer _ _ | .hostAtomic _ _ _ _ => true
  | .aop _ _ _ ret => ret
  | .rwl _ _ => !a.dst.isEmpty
  | _ => false
/-- RSP to another package, once nothing of the request is left here (R390). -/
def State.respond (s : State) (a : Access) (dev tag : Nat) (data : Row) (poison : Bool) : State :=
  let s := s.dropAcc a.id
  if s.accs.any (fun b => b.who = .link dev tag) then s
  else
    let n := match a.op with | .read n => (n + 15) / 16 | .aop _ _ _ _ | .rwl _ _ | .hostAtomic _ _ _ _ => 1 | _ => 0
    let m := s.mkMsg a.pos dev n (tag + poison.toNat * 2 ^ 16 + (decide (n = 0)).toNat * 2 ^ 17) 0 (unitsOf data.toNat n)
    match s.portFor dev (a.pa / 64) with
    | some p => s.postMsg p 4 m
    | none => s
/-- HOME_ACCESS: the access performs; a request of another package is answered (R250, R390). -/
def execHomeAccess (id : Nat) (s : State) : Out :=
  .next (
    match s.accs.find? (fun a => a.id = id) with
    | none => s
    | some a =>
      if !s.homeReady a then s
      else
        let r := s.perform a
        match a.who with
        | .link dev tag => r.1.respond a dev tag r.2.1 r.2.2
        | _ => (r.1.openRow a).putAcc { a with done := true, result := r.2.1, poison := r.2.2 })

/-! ### Replies and acknowledgements (R67, R246) -/

/-- A value lands in the register of an untimed result; a row that the primary loads enters the last-result file. -/
def Strm.land (t : Strm) (comp : Bool) (r : PRef) (v : Row) : Strm :=
  match r with
  | .x n => t.setX false n (v.setWidth 64)
  | .sx n => t.setX true n (v.setWidth 64)
  | .p n => t.setP false n (v.getLsbD 64)
  | .sp n => t.setP true n (v.getLsbD 64)
  | .v n => let t := { t with v := wr t.v n v }; if comp then t else t.enterJ 3 v
  | .o n => let t := { t with o := wr t.o n v }; if comp then t else t.enterJ 3 v
  | _ => t
/-- The pending registers once the access's reply is here; after a poisoned one, which writes nothing, they stay pending
until the stream has stopped (R67, R246). -/
def Strm.freed (t : Strm) (id : Nat) (poison : Bool) : List (Nat × PRef) :=
  if poison && (!t.trap.pend || t.late) then t.waits.map fun w => if w.1 = id then (0, w.2) else w
  else t.waits.filter fun w => w.1 ≠ id
/-- The results of an access land and clear the pending marks; poison stops the stream instead (R246). -/
def State.landReply (s : State) (k : CoreId) (comp : Bool) (a : Access) (v : Row) : State :=
  let s := s.modStrm k comp fun t => { t with waits := t.freed a.id a.poison }
  if (s.strm k comp).run = .ended then s
  else if a.poison then s.deferTrap k comp a.inst 0x27 6 (a.pc.setWidth 64)
  else s.modStrm k comp fun t => a.dst.foldl (fun t r => t.land comp r v) t
/-- UNTIMED_RESULT_LAND: the reply of a performed access reaches its sender. -/
def execUntimedResultLand (id : Nat) (s : State) : Out :=
  .next (
    match s.accs.find? (fun a => a.id = id) with
    | none => s
    | some a =>
      if !a.done || !a.replies then s
      else match a.who with
        | .unit _ _ _ => s
        | .strm k comp => (s.dropAcc id).landReply k comp a a.result
        | .job cl serial => (s.dropAcc id).modJob cl serial fun j => { j with got := j.got ++ [(a.pos, a.result, a.poison)] }
        | .host => State.dropAcc { s with hostCpl := s.hostCpl ++ [(a.pos, a.result, a.poison)] } id
        | _ => s.dropAcc id)
/-- WRITE_ACK: a home acknowledges a write (R246). A stream's ring row is free again (R237); the access of a SEEDQ brings its
word (R445). -/
def execWriteAck (id : Nat) (s : State) : Out :=
  .next (
    match s.accs.find? (fun a => a.id = id) with
    | none => s
    | some a =>
      if !a.done || a.replies then s
      else
        let s := s.dropAcc id
        match a.who with
        | .unit k q gen =>
          let u := (s.core k).unit q
          if u.bound && u.gen = gen then s.modCore k fun c => c.modUnit q fun u =>
            { u with unack := u.unack.erase a.pos, acks := (u.acks.filter fun x => u.next ≤ x.1 + 1024) ++ [(a.pos, s.cyc.toNat)] }
          else s.releaseRings k
        | .strm k comp => s.landReply k comp a (BitVec.ofNat 1024 a.pos)
        | .job cl serial => if a.pos = 0 then s else s.copyAcked cl serial a.pos
        | _ => s)

/-! ### RD, WR, RSP and ATOM (R390) -/

/-- A request of another package joins the queue of its home; its reply will have its class (R401; DEDUCED, log 19). -/
def State.remote (s : State) (m : Msg) (op : AccOp) (pa : Nat) : State :=
  s.addAccess (s.newAccess (.link m.src.toNat (bitsOf m.a.toNat 15 0)) op pa [] m.cls.toNat 0 0)
/-- The data units of a message as one number. -/
def msgBits (m : Msg) : Nat := m.data.zipIdx.foldl (fun r u => r + u.1.toNat * 2 ^ (128 * u.2)) 0
/-- RD. -/
def execRd (m : Msg) (s : State) : Out :=
  .next (s.remote m (.read (16 * bitsOf m.a.toNat 19 16)) m.b.toNat)
/-- WR: a store under byte enables, or reductions of whole words. Bit 20 of A marks poisoned data (DESIGN CHOICE, log 65). -/
def execWr (m : Msg) (s : State) : Out :=
  .next (
    let kind := bitsOf m.a.toNat 18 16
    let masked := m.a.getLsbD 19
    let n := 16 * (m.data.length - masked.toNat)
    let x := (msgBits m) % 2 ^ (8 * n)
    let pa := m.b.toNat
    if kind = 0 then
      let o := pa % 128
      let en := if masked then (m.data.getLastD 0).toNat else 2 ^ n - 1
      let d : Row := BitVec.ofNat 1024 (x * 2 ^ (8 * o))
      let bytes : Mask := BitVec.ofNat 128 (en * 2 ^ o)
      s.remote m (if m.a.getLsbD 20 then .spoil d bytes else .write d bytes) (pa / 128 * 128)
    else if n = 128 then s.remote m (.reduce (kind = 1) (BitVec.ofNat 1024 x)) pa
    else
      (ropWords kind pa n x).foldl (fun s w => s.remote m w.2 w.1) s)
/-- ATOM; bit 20 tells a host's operand of 32 bits (DESIGN CHOICE, log 65). -/
def execAtom (m : Msg) (s : State) : Out :=
  .next (
    let op := bitsOf m.a.toNat 19 16
    let x := (msgBits m)
    s.remote m
      (if m.a.toNat / 2 ^ 20 % 2 = 1 then
         .hostAtomic (if op = 0 then 0 else op - 8) false (BitVec.ofNat 64 x) (BitVec.ofNat 64 (x / 2 ^ 64))
       else if op < 0xB then .aop op (BitVec.ofNat 64 x) (BitVec.ofNat 64 (x / 2 ^ 64)) true else .rwl (op - 0xB) (x % 2 = 1)) m.b.toNat)
/-- RSP: the request with its tag is complete. A reduction that met a poisoned sector is logged (R506). -/
def execRsp (m : Msg) (s : State) : Out :=
  .next (
    let tag := bitsOf m.a.toNat 15 0
    match s.accs.find? (fun a => !a.done && !s.ownAddr a.pa && a.id % 2 ^ 16 = tag) with
    | none => s
    | some a =>
      let bad := m.a.getLsbD 16
      let s := s.putAcc { a with done := true, result := BitVec.ofNat 1024 (msgBits m), poison := bad && a.replies }
      if bad && !a.replies then s.logError 10 0 0 0 1 a.pa 0 else s)

/-! ### Ports and flits (R387, R388, R391, R392, R402) -/

/-- The bytes of a flit: header word, 15 units, START (R387). -/
def flitBytes (head : Nat) (units : List (BitVec 128)) (start : Nat) : List Byte :=
  let body := bytesOf head 8 ++ ((List.range 15).flatMap fun u => bytesOf (units.getD u 0).toNat 16) ++ bytesOf start 4
  body ++ bytesOf (crc32 body) 4
/-- A header word: SEQ, the last SEQ received in order, NAK, KIND and the four counters of freed units. -/
def Port.head (p : Port) (seq : Nat) (nak : Bool) (kind : Nat) : Nat :=
  seq + (p.expSeq - 1).toNat * 2 ^ 8 + nak.toNat * 2 ^ 16 + kind * 2 ^ 17 +
    ((List.range 4).foldl (fun r i => r + rd p.credRx i 0 % 256 * 2 ^ (24 + 8 * i)) 0)
/-- A flit is well formed: its CRC, its KIND and the fields that are 0 (R388). -/
def flitOk (bs : List Byte) : Bool × Bool :=
  let h := leNat (bs.take 8)
  let crc := bs.length = 256 && crc32 (bs.take 252) = leNat (bs.drop 252)
  (crc, bitsOf h 19 17 ≤ 2 && bitsOf h 23 20 = 0 && bitsOf h 63 56 = 0 && leNat ((bs.drop 248).take 4) < 2 ^ 15)
/-- The header unit of a message (R389). -/
def headUnit (op : Nat) (m : Msg) : BitVec 128 :=
  BitVec.ofNat 128 (op + m.cls.toNat * 2 ^ 4 + m.dst.toNat * 2 ^ 6 + m.src.toNat * 2 ^ 16 + m.len.toNat * 2 ^ 26 + m.a.toNat * 2 ^ 32 +
    m.b.toNat * 2 ^ 64)
/-- The message of a header unit and its data. -/
def unitMsg (us : List (BitVec 128)) : Nat × Msg :=
  let h := (us.headD 0).toNat
  (h % 16, { cls := BitVec.ofNat 2 (bitsOf h 5 4), dst := BitVec.ofNat 10 (bitsOf h 15 6), src := BitVec.ofNat 10 (bitsOf h 25 16)
             len := BitVec.ofNat 4 (bitsOf h 29 26), a := BitVec.ofNat 32 (bitsOf h 63 32), b := BitVec.ofNat 64 (bitsOf h 127 64)
             data := us.drop 1 })
/-- The step that a message brings about; none for a reserved operation (R390). -/
def msgStep (op : Nat) (m : Msg) : Option Event :=
  match op with
  | 1 => some (.tqrow m)
  | 2 => some (.rd m)
  | 3 => some (.wr m)
  | 4 => some (.rsp m)
  | 5 => some (.atom m)
  | 6 => match m.a.toNat % 16 with | 0 => some (.sluiceArrival m) | 1 => some (.sluiceStart m) | _ => none
  | 7 =>
    match m.a.toNat % 16 with
    | 0 => some (.timeRequest m)
    | 1 => some (.timeReply m)
    | 2 => some (.timeStep m)
    | 3 => some (.timeReport m)
    | _ => none
  | 8 => some (.tqclose m)
  | 9 => some (.tqack m)
  | _ => none
/-- A whole message has arrived: it takes effect, or it is discarded and reported (R390). -/
def State.deliver (s : State) (us : List (BitVec 128)) : State :=
  let r := unitMsg us
  match msgStep r.1 r.2 with
  | some i => if r.2.dst.toNat = wb s.devid 9 0 then { s with agenda := s.agenda ++ [i] } else s.tqProtocol r.2
  | none => s.tqProtocol r.2
/-- The units of an accepted data flit, one by one (R389): the units of a whole message are freed to the sender. -/
def State.takeUnits (s : State) (p : PortId) : List (Bool × BitVec 128) → State
  | [] => s
  | (first, u) :: r =>
    let part := if first then [u] else if (s.anyPort p).partialUnits.isEmpty then [] else (s.anyPort p).partialUnits ++ [u]
    let h := (part.headD 0).toNat
    if part.isEmpty || part.length < 1 + bitsOf h 29 26 then
      (s.modAny p fun x => { x with partialUnits := part }).takeUnits p r
    else
      ((s.modAny p fun x =>
        { x with partialUnits := [], credRx := wr x.credRx (bitsOf h 5 4) (rd x.credRx (bitsOf h 5 4) 0 + part.length) }).deliver part).takeUnits p r
/-- Every member of a group that spans both dies stops with MACHINE (R397, R398, R405); otherwise those that p names. -/
def State.machine (s : State) (p : CoreId → Bool) : State :=
  allCores.foldl (fun s k => if (s.core k).group.isSome && p k then s.asyncTrap k false 3 0x7F 0 else s) s
/-- The group of a core spans both dies. -/
def State.spansDies (s : State) (k : CoreId) : Bool := decide (s.horizon k = 72)
/-- REALIGN fails on every core of its context that waits for it (R159, R405). One that a trap of its REALIGN's bundle has stopped
learns it when it goes on (R171). -/
def State.realignFailHere (s : State) : State :=
  let s := { s with realign := { s.realign with active := false, resume := none, stepAt := none, sentAt := none, reports := [], failed := true } }
  allCores.foldl (fun s k =>
    if (s.core k).ctx = s.curCtx && (s.core k).prim.run = .realign then
      (s.modStrm k false fun t => { t with run := .running }).asyncTrap k false 3 0x72 0
    else s) s
/-- The REALIGN in progress fails. -/
def State.realignFail (s : State) : State := if s.realign.active then s.asCtx s.realign.ctx State.realignFailHere else s
/-- The requests that went out by a port complete: reads and atomics with poison, writes as acknowledged and logged (R395). -/
def State.lostRequests (s : State) (p : Nat) : State :=
  s.accs.foldl (fun s a =>
    if a.done || a.op.ofPeer || s.ownAddr a.pa || decide (s.portFor (a.pa / 2 ^ 42) (a.pa / 64) ≠ some p) then s
    else
      let s := s.putAcc { a with done := true, poison := a.replies }
      if a.replies then s else s.logError 6 0 p 0x71 1 a.pa 0) s
/-- LINK_DOWN: the health controller holds a port down (R395); a bridge port stops the groups that span the dies (R397); a
timing port's loss stops the groups of an aligned job (R405). -/
def State.linkDown (s : State) (p : PortId) : State :=
  let x := s.anyPort p
  let s := s.modAny p fun x =>
    { x with up := false, train := false, held := true, outMsgs := [], replay := [], again := [], nakDue := false, nakOut := none, partialUnits := [], cur := [], txq := [] }
  if 24 ≤ p.val then s.machine s.spansDies
  else
    let s := (s.firmware 3 p.val false 0x71 (BitVec.ofNat 64 p.val)).logError 6 0 p.val 0x71 1 0 0
    let s := s.toHost 5 [BitVec.ofNat 64 p.val]
    let s := s.lostRequests p.val
    let timing := x.ctl.getLsbD 3
    let s := if timing || s.treePorts.contains p.val then s.realignFail else s
    if timing && s.realign.aligned then s.machine fun _ => true else s
/-- The coded rate after the next step down (R394). -/
def Port.lower (p : Port) : BitVec 2 := if p.rate = 0 then 1 else 2
/-- A replay is counted; at RPLTH the port retrains, at 56 Gb/s in three windows in a row it goes down (R391, R394). A
bridge port retrains after 64 replays in a window, at its own rate (R397). -/
def State.countReplay (s : State) (p : PortId) : State :=
  let now := s.cyc.toNat
  if 24 ≤ p.val then s.modAny p fun x => x.bridgeReplays 1 now
  else
    let s := s.modAny p fun x => { x with rply := x.rply + 1, winrpl := min (x.winrpl + 1) 0xFFFF }
    let x := s.anyPort p
    let th := wb x.ctl 39 32
    if th = 0 || x.winrpl ≠ th then s
    else if x.rate.toNat < 2 then (s.modAny p fun x => x.beginTraining x.lower now).logError 6 0 p.val 0 1 0 0
    else if x.hits = 2 then s.linkDown p
    else (s.modAny p fun x => { x.beginTraining 2 now with hits := x.hits + 1 }).logError 6 0 p.val 0 1 0 0
/-- A NAK is to go out: the next flit carries it, with the last SEQ accepted (R387, R392). -/
def Port.sendNak (p : Port) (now : Nat) : Port := { p with nakDue := true, naktx := p.naktx + 1, nakOut := some now }
/-- Every held flit is to go again, the oldest first (R391, R394). -/
def Port.resend (p : Port) : Port := { p with again := p.replay.map fun f => f.1 }
/-- ACK and CRED of a flit: acknowledged flits leave the replay buffer, and the peer's counter of freed units advances; a count
that would free more than was sent is an old one. -/
def Port.acked (p : Port) (h : Nat) : Port :=
  let ack := BitVec.ofNat 8 (bitsOf h 15 8)
  let keep := match p.replay.findIdx? (fun f => f.1 = ack) with | some i => p.replay.drop (i + 1) | none => p.replay
  { p with
    replay := keep, lastAck := ack
    credPeer := Vector.ofFn fun i =>
      let old := rd p.credPeer i.val 0
      let new := old + (bitsOf h (31 + 8 * i.val) (24 + 8 * i.val) + 256 - old % 256) % 256
      if new ≤ rd p.credTx i.val 0 then new else old }
/-- The port carries traffic: a bridge port always, a Clapel port while PCTL.EN is 1 (R418). -/
def Port.enabled (x : Port) (p : PortId) : Bool := decide (24 ≤ p.val) || x.ctl.getLsbD 40
/-- FLIT_RECEIVE (R386, R388, R391, R392): a flit is accepted or discarded. -/
def execFlitReceive (port : PortId) (flit : RxFlit) (s : State) : Out :=
  .next (
    let now := s.cyc.toNat
    let x := s.anyPort port
    if x.held || !x.enabled port || !(x.up || x.train) then s
    else
      let s := s.modAny port fun x => { x with feccor := x.feccor + BitVec.ofNat 32 flit.corrected }
      let discard := fun (s : State) => s.modAny port fun x => if x.nakOut.isSome then x else x.sendNak now
      if flit.blockLost then discard (s.modAny port fun x => { x with fecunc := x.fecunc + 1 })
      else
        let ok := flitOk flit.bytes
        if !ok.1 then discard (s.modAny port fun x => { x with crcerr := x.crcerr + 1 })
        else if !ok.2 then discard s
        else
          let h := leNat (flit.bytes.take 8)
          let kind := bitsOf h 19 17
          let s := s.modAny port fun x => x.acked h
          -- a NAK: the held flits go again from ACK + 1
          let s := if bitsOf h 16 16 = 0 then s
            else (s.modAny port Port.resend).countReplay port
          if kind ≠ 1 then s
          else if BitVec.ofNat 8 (h % 256) ≠ (s.anyPort port).expSeq then discard s
          else
            let starts := leNat ((flit.bytes.drop 248).take 2)
            let units := (List.range 15).map fun u =>
              (decide (starts / 2 ^ u % 2 = 1), BitVec.ofNat 128 (leNat ((flit.bytes.drop (8 + 16 * u)).take 16)))
            (s.modAny port fun x => { x with expSeq := x.expSeq + 1, nakOut := none }).takeUnits port units)
/-- NAK_REPEAT: 512 cycles without an accepted flit (R392). -/
def execNakRepeat (port : PortId) (s : State) : Out :=
  .next (
    match (s.anyPort port).nakOut with
    | none => s
    | some w => if s.cyc.toNat < w + 512 then s else s.modAny port fun x => x.sendNak s.cyc.toNat)
/-- REPLAY_WINDOW_END (R394). -/
def execReplayWindowEnd (port : PortId) (s : State) : Out :=
  .next (s.modAny port fun x => { x with winrpl := 0, hits := if x.winrpl < wb x.ctl 39 32 then 0 else x.hits })
/-- Cycles of a port's replay window (R394, R397). -/
def State.windowOf (s : State) (p : PortId) : Nat := if 24 ≤ p.val then 2 ^ 20 else wb (s.port p.val).ctl 31 16 * 2 ^ 16
/-- TRAINING_COMPLETE: the port carries traffic again and every held flit goes first; a first training starts the credits
afresh. Which device and port the peer names itself is free (R418; log 3). The third failure in a row, or one at 56 Gb/s, holds the port down (R394, R395, R402). -/
def execTrainingComplete (port : PortId) (ok : Bool) (s : State) : Out :=
  .next (
    let x := s.anyPort port
    if !x.train then s
    else if ok then s.draw.modAny port fun x =>
      let z : Vector Nat 4 := Vector.replicate 4 0
      let x := if x.up then x else { x with credTx := z, credPeer := z, credRx := z }
      let w := Config.freeWord (2 ^ 56 + s.fresh)
      { x.resend with up := true, train := false, fails := 0, peerDev := BitVec.ofNat 10 (wb w 9 0), peerPort := BitVec.ofNat 6 (wb w 15 10) }
    else if 24 ≤ port.val || 2 ≤ x.rate.toNat || 2 ≤ x.fails then s.linkDown port
    else s.modAny port fun x => { x with fails := x.fails + 1, trainAt := s.cyc.toNat })
/-- PCTL_RETRAIN: firmware trains a port, at the rate PCTL names (R396, R418). -/
def execPctlRetrain (port : PortId) (s : State) : Out :=
  .next (
    let x := s.anyPort port
    if 24 ≤ port.val || !x.ctl.getLsbD 40 then s
    else s.modAny port fun x => { x.beginTraining (BitVec.ofNat 2 (min (wb x.ctl 2 1) 2)) s.cyc.toNat with held := false, fails := 0, hits := 0 })

/-! ### Sending (R391, R402) -/

def Port.creditOf (p : Port) (c : Nat) : Nat := 1024 + rd p.credPeer c 0 - rd p.credTx c 0
/-- The oldest message of a class, if credit for all its units is held. -/
def Port.ready (p : Port) (c : Nat) : Option (Nat × Msg) :=
  match p.outMsgs.find? (fun m => m.2.cls.toNat = c) with
  | some m => if m.2.data.length + 1 ≤ p.creditOf c then some m else none
  | none => none
/-- The weight of a class; 0 counts as 1. -/
def Port.weight (p : Port) (c : Nat) : Nat := max (wb p.ctl (4 * c + 3) (4 * c)) 1
/-- The class that the weighted turn gives the next message of classes 1 to 3. -/
def Port.pickTurn (p : Port) : Nat → Nat → Nat → Option (Nat × Nat)
  | 0, _, _ => none
  | f + 1, c, left =>
    if left ≠ 0 ∧ (p.ready c).isSome then some (c, left)
    else
      let n := if c = 3 then 1 else c + 1
      p.pickTurn f n (p.weight n)
/-- The class of the message that begins at unit u of a flit. -/
def Port.pickClass (p : Port) (u : Nat) : Option (Nat × Nat × Nat) :=
  let used := p.used0.foldl (· + ·) 0
  if (p.ready 0).isSome && (u = 0 || 2 * used ≤ 15 * 64) then some (0, p.turn, p.credit)
  else (p.pickTurn 5 p.turn p.credit).map fun r => (r.1, r.1, r.2)
/-- The units of a data flit from position u on: the units, newest first, the START bits, and class-0 units. -/
def Port.fill (p : Port) : Nat → List (BitVec 128) → Nat → Nat → Port × List (BitVec 128) × Nat × Nat
  | 0, us, st, z => (p, us, st, z)
  | n + 1, us, st, z =>
    let u := 14 - n
    match p.cur with
    | x :: r =>
      let c := p.curCls
      Port.fill { p with cur := r, credTx := wr p.credTx c (rd p.credTx c 0 + 1), credit := if c = 0 then p.credit else p.credit - 1 }
        n (x :: us) st (if c = 0 then z + 1 else z)
    | [] =>
      match p.pickClass u with
      | none => Port.fill p n (0 :: us) st z
      | some (c, turn, left) =>
        match p.ready c with
        | none => Port.fill p n (0 :: us) st z
        | some m =>
          Port.fill { p with
            outMsgs := p.outMsgs.erase m, cur := m.2.data, curCls := c, turn := turn
            credit := if c = 0 then left else left - 1, credTx := wr p.credTx c (rd p.credTx c 0 + 1) }
            n (headUnit m.1 m.2 :: us) (st + 2 ^ u) (if c = 0 then z + 1 else z)
/-- Cycles between the flits of a port: a row of 9 units takes 3, 6 or 12 cycles (R393). -/
def Port.flitCycles (p : Port) : Nat := 5 * 2 ^ min p.rate.toNat 2
/-- A flit goes out, with the ACK, the CRED and the NAK of the present (R387). -/
def Port.emit (p : Port) (seq kind : Nat) (units : List (BitVec 128)) (start : Nat) : Port :=
  { p with txq := [flitBytes (p.head seq p.nakDue kind) units start], nakDue := false }
/-- What the transmitter sends in a cycle: a training flit; a held flit that is to go again; a data flit when there is one to send and
fewer than 255 are held; else an idle flit (R391, R394). -/
def Port.transmit (p : Port) (now : Nat) : Port :=
  let p := { p with txq := [], again := p.again.dropWhile fun q => !p.replay.any fun f => f.1 = q }
  if p.held || !p.ctl.getLsbD 40 || !(p.up || p.train) || now % p.flitCycles ≠ 0 then p
  else if p.train then p.emit 0 2 [] 0
  else match p.again, p.replay.find? (fun f => p.again.head? = some f.1) with
    | _ :: r, some f => { p with again := r }.emit f.1.toNat 1 f.2.1 f.2.2
    | _, _ =>
      if 255 ≤ p.replay.length || (p.cur.isEmpty && p.outMsgs.isEmpty) then p.emit 0 0 [] 0
      else
        let r := p.fill 15 [] 0 0
        if p.cur.isEmpty && r.2.2.1 = 0 then p.emit 0 0 [] 0
        else
          let q := r.1
          { q.emit q.nextSeq.toNat 1 r.2.1.reverse r.2.2.1 with
            replay := q.replay ++ [(q.nextSeq, r.2.1.reverse, r.2.2.1)], nextSeq := q.nextSeq + 1, used0 := (r.2.2.2 :: q.used0).take 64 }
/-- The transmitters of all ports; those of the bridge send whole messages (R397; log 55). -/
def State.transmitAll (s : State) : State :=
  (List.range 32).foldl State.bridgeSend { s with ports := s.ports.map fun p => p.transmit s.cyc.toNat }

/-! ### REALIGN (R159, R403 to R405) -/

/-- Firmware names the packages of the job and the ports of the timing tree that lead to packages below, before the job (R403). -/
def execJobTree (devs ports : List Nat) (s : State) : Out := .next { s with jobDevs := devs, treePorts := ports.filter (· < 24) }
/-- REALIGN: the stream issues nothing further until alignment completes (R159). -/
def execRealign (h : CHdr) (s : State) : Out :=
  .next (runSlot (.realign h) s fun s =>
    let s := (s.modMe fun t => { t with run := .realign }).modCur fun c => { c with realigned := true }
    { s with agenda := s.agenda ++ [.realignBegin] })
/-- This package is its job's root: no package of the job has a lower index (R403). -/
def State.isRoot (s : State) : Bool := s.jobDevs.all fun d => wb s.devid 9 0 < d
def State.rootDev (s : State) : Nat := s.jobDevs.foldl min (wb s.devid 9 0)
/-- A TIME or SLUICE message of class 0 (R401). -/
def State.control (s : State) (port op dst kind : Nat) (data : Nat) : State :=
  s.postMsg port op (s.mkMsg 0 dst 1 kind 0 [BitVec.ofNat 128 data])
/-- A REALIGN of the context can begin: every core of its mask has issued one, and none is in progress (R404). -/
def State.realignDue (s : State) : Bool :=
  let ks := s.ctxCores
  !s.realign.active && !ks.isEmpty && !s.realign.failed && !s.realign.aligned && ks.all fun k => (s.core k).prim.mode = .realign
/-- The REALIGN of the context begins. A job of one package completes in 64 cycles; a tree port that is down fails it
(R404, R405). -/
def State.realignHere (s : State) : State :=
  if !s.realignDue then s
  else
    let now := s.cyc.toNat
    let r := { Realign.reset with active := true, ctx := s.curCtx, began := now, dly := s.spandly, reports := s.realign.reports }
    if s.jobDevs.isEmpty then { s with realign := { r with resume := some (now + 64) } }
    else
      let s : State := { s with realign := r }
      let ps := s.treePorts ++ (if s.isRoot then [] else s.timingPort.toList)
      if ps.any (fun p => !(s.port p).up) || (!s.isRoot && s.timingPort.isNone) then s.realignFailHere else s
/-- REALIGN_BEGIN. -/
def execRealignBegin (s : State) : Out := .next (s.firstCtx State.realignDue State.realignHere)
/-- A request is due: 16 of them, 4,096 cycles apart (R404). -/
def State.exchangeDue (s : State) : Bool :=
  let r := s.realign
  r.active && !s.jobDevs.isEmpty && !s.isRoot && r.sentAt.isNone && r.pairs.length < 16 &&
    decide ((if r.pairs.isEmpty then r.began else r.lastReq + 4096) ≤ s.cyc.toNat)
/-- TIME_EXCHANGE_SEND: a TIME request with t1 goes out by the timing port. -/
def execTimeExchangeSend (s : State) : Out :=
  .next (
    match s.timingPort with
    | none => s
    | some p =>
      if !s.exchangeDue then s
      else State.control { s with realign := { s.realign with sentAt := some s.cyc.toNat, lastReq := s.cyc.toNat } } p 7 (s.port p).peerDev.toNat 0 s.cyc.toNat)
/-- TIME request: the reply holds t2 and t3. -/
def execTimeRequest (_m : Msg) (s : State) : Out :=
  .next (
    match s.portFor _m.src.toNat 0 with
    | none => s
    | some p => s.control p 7 _m.src.toNat 1 (s.cyc.toNat + s.cyc.toNat * 2 ^ 64))
/-- The median of a list: the mean of its two middle values, rounded down. -/
def median (xs : List Int) : Int :=
  let ys := xs.mergeSort (fun a b => a ≤ b)
  (ys.getD ((ys.length - 1) / 2) 0 + ys.getD (ys.length / 2) 0) / 2
def State.ownOffset (s : State) : Int := median (s.realign.pairs.map fun p => p.1)
/-- The largest sum of LAT + 24 over the paths below this package (R404). -/
def State.pathBelow (s : State) : Nat := (s.realign.reports.map fun r => r.2.2).foldl max 0
def word48 (x : Int) : Nat := (x % (2 ^ 48 : Nat)).toNat
/-- The TIME step goes to each package below, in that package's own CYC, with SPANDLY and the offset accumulated so far. -/
def State.stepDown (s : State) (root acc : Int) : State :=
  s.realign.reports.foldl (fun s r =>
    match s.portFor r.1 0 with
    | none => s
    | some p => s.control p 7 r.1 2 (((root - acc - r.2.1) % (2 ^ 64 : Nat)).toNat + s.realign.dly.toNat * 2 ^ 64 + word48 acc * 2 ^ 80)) s
/-- Once its exchanges are done and it has the reports of every package below, a package reports up its timing port, or, at
the root, computes SPANDLY and sends the step, at least 16,384 cycles ahead (R404). How far beyond is free (log 3). -/
def State.reportOn (s : State) : State :=
  let r := s.realign
  if !r.active || r.reported || r.reports.length < s.treePorts.length then s
  else if s.isRoot then
    let sum := s.pathBelow
    let d := (64 + 2 * sum + 63) / 64 * 64
    let at' := s.cyc.toNat + 16384 + Config.pick s.fresh
    let s : State := { s.draw with realign := { r with reported := true, stepAt := some at', offset := 0, dly := BitVec.ofNat 16 d } }
    s.stepDown at' 0
  else if r.pairs.length < 16 then s
  else match s.timingPort with
    | none => s
    | some p =>
      State.control { s with realign := { r with reported := true } } p 7 (s.port p).peerDev.toNat 3
        ((s.ownOffset % (2 ^ 64 : Nat)).toNat + (s.port p).lat.toNat * 2 ^ 64 + s.pathBelow * 2 ^ 80)
/-- TIME reply: the exchange is complete; after the sixteenth LAT is known, and a spread of more than 2 cycles fails the
REALIGN (R404, R405). -/
def execTimeReply (m : Msg) (s : State) : Out :=
  .next (
    match s.realign.sentAt, s.timingPort with
    | some t1, some p =>
      let x := msgBits m
      let t2 : Int := (x % 2 ^ 64 : Nat)
      let t3 : Int := (x / 2 ^ 64 : Nat)
      let t4 : Int := s.cyc.toNat
      let ps := s.realign.pairs ++ [(((t2 - t1) - (t4 - t3)) / 2, ((t2 - t1) + (t4 - t3)) / 2)]
      let s : State := { s with realign := { s.realign with pairs := ps, sentAt := none } }
      if ps.length < 16 then s
      else
        let os := ps.map fun q => q.1
        let lo : Int := os.foldl min (os.headD 0)
        let hi : Int := os.foldl max (os.headD 0)
        if 2 < hi - lo then s.realignFail
        else (s.modPort p fun x => { x with lat := BitVec.ofInt 16 (median (ps.map fun q => q.2)) }).reportOn
    | _, _ => s)
/-- TIME report: the median offset and the path sum, with its own hop, of a package below, which may come before this package's own
REALIGN begins. -/
def execTimeReport (m : Msg) (s : State) : Out :=
  .next (
    let x := msgBits m
    let r := (m.src.toNat, (BitVec.ofNat 64 x).toInt, bitsOf x 127 80 + bitsOf x 79 64 + 24)
    State.reportOn { s with realign := { s.realign with reports := (s.realign.reports.filter fun x => x.1 ≠ m.src.toNat) ++ [r] } })
/-- TIME step: the package sets its CYC at the value named, by the offset accumulated from the root, and passes the step on. -/
def execTimeStep (m : Msg) (s : State) : Out :=
  .next (
    if !s.realign.active then s
    else
      let x := msgBits m
      let at' := x % 2 ^ 64
      let acc := (BitVec.ofNat 48 (x / 2 ^ 80)).toInt + s.ownOffset
      let s : State := { s with realign := { s.realign with stepAt := some at', offset := acc, dly := BitVec.ofNat 16 (x / 2 ^ 64) } }
      s.stepDown (at' + acc) acc)
/-- Wall cycles that the state counts by CYC, once CYC has stepped by d: what is on its way arrives as many cycles from now as before
(R404). What is a stamp of CYC stays as it is. -/
def State.shiftWall (s : State) (d : Int) : State :=
  let f := fun (w : Nat) => ((w : Int) + d).toNat
  let o := fun (w : Option Nat) => w.map f
  let port := fun (p : Port) => { p with nakOut := o p.nakOut, trainAt := f p.trainAt }
  { s with
    tqNet := s.tqNet.map fun e => (f e.1, e.2)
    bridgeNet := s.bridgeNet.map fun e => (f e.1, e.2)
    marks := s.marks.map fun m => { m with began := o m.began }
    accs := s.accs.map fun a => { a with sent := f a.sent, shut := o a.shut }
    ports := s.ports.map port, bridge := s.bridge.map port
    slotEnd := f s.slotEnd, slotAt := f s.slotAt
    clusters := s.clusters.map fun u => { u with reqs := u.reqs.map fun r => { r with start := f r.start } }
    health := { s.health with stretch := s.health.stretch.map fun w => if w = 0 then 0 else f w, slowAt := o s.health.slowAt }
    cores := s.cores.map fun c =>
      { c with
        freezes := c.freezes.map fun z => { z with eff := o z.eff, clr := o z.clr, key := if z.byWall then f z.key else z.key }
        hist := c.hist.map f, stopAt := o c.stopAt, faultCy := o c.faultCy, startAt := o c.startAt, goAt := o c.goAt
        seg := { c.seg with restore := f c.seg.restore }
        q := c.q.map fun u => { u with landed := u.landed.map (fun l => (l.1, l.2.1, f l.2.2)), asked := u.asked.map (fun a => (a.1, f a.2)), acks := u.acks.map fun a => (a.1, f a.2) }
        tq := c.tq.map fun e => { e with rows := e.rows.map (fun r => (f r.1, r.2)), log := e.log.map fun r => (f r.1, r.2) } } }
/-- CYC_STEP: CYC takes the offset; the cores resume 64 cycles after the root's step (R404). -/
def execCycStep (s : State) : Out :=
  .next (
    if s.realign.stepAt ≠ some s.cyc.toNat then s
    else
      let c := s.cyc + BitVec.ofInt 64 s.realign.offset
      { s.shiftWall s.realign.offset with cyc := c, realign := { s.realign with stepAt := none, resume := some (c.toNat + 64) } })
/-- A stream awaits a REALIGN that has failed: another trap of its bundle had stopped it (R159, R171). -/
def State.realignAwaited (s : State) : Bool :=
  s.realign.failed && allCores.any fun k => (s.core k).ctx = s.curCtx && (s.core k).prim.run = .realign
/-- REALIGN_TIMEOUT: an exchange without reply for 2^20 cycles, or a root that has not heard from every package in
36,000,000 (R405). -/
def State.realignLate (s : State) : Bool :=
  let r := s.realign
  r.active && ((match r.sentAt with | some w => decide (w + 2 ^ 20 ≤ s.cyc.toNat) | none => false) ||
    (s.isRoot && !s.jobDevs.isEmpty && !r.reported && decide (r.began + 36000000 ≤ s.cyc.toNat)))
def execRealignTimeout (s : State) : Out :=
  .next (if s.realignLate then s.realignFail else s.firstCtx State.realignAwaited fun s => if s.realignAwaited then s.realignFailHere else s)
/-- REALIGN_COMPLETE: every core goes on, the job is aligned, and SPANDLY takes the value that came with the step (R51, R404). -/
def execRealignComplete (s : State) : Out :=
  .next (
    match s.realign.resume with
    | none => s
    | some w =>
      if s.cyc.toNat < w then s
      else
        s.asCtx s.realign.ctx fun s =>
          let s : State := { s with
            spandly := s.realign.dly, realign := { s.realign with active := false, resume := none, reports := [], aligned := true } }
          s.ctxCores.foldl (fun s k =>
            s.modStrm k false fun t =>
              if t.run = .realign then { t with run := .running, ready := t.inst, holdTo := t.inst }
              else if t.mode = .realign then { t with back := .running } else t) s)

/-! ### The Sluice tree across packages (R406, R407) -/

/-- PHID.SEQ as a SLUICE message names it. -/
def sluiceSeq (m : Msg) : Nat := m.a.toNat / 16
/-- F and L of every package are at the root: L goes to all of them; one beyond F + SLACKMAX overruns (R47, R406). -/
def State.sluiceRoot (s : State) : State :=
  match s.bound with
  | none => s
  | some b =>
    if !s.complete b || b.lAt.isSome || b.hold ≠ 0 || !s.jobDevs.all (fun d => b.spanFL.any fun x => x.1 = d) then s
    else
      let f := b.spanFirst (b.first.getD 0)
      let l := b.spanFL.foldl (fun m x => max m x.2.2) ((b.last.map fun x => x.1).getD 0)
      if !b.start && b.slackmax ≠ 0 && b.went.isNone && f + b.slackmax + b.out < l then s.holdBound 0x60
      else
        (s.jobDevs.foldl (fun s d => match s.portFor d 0 with
          | none => s
          | some p => s.control p 6 d (1 + b.seq % 2 ^ 28 * 16) l) s).reachLast l
/-- A package has gone on past the boundary of sequence number n, by what its message names. -/
def sluicePast (m : Msg) (n : Nat) : Bool :=
  let d := (sluiceSeq m + 2 ^ 28 - n % 2 ^ 28) % 2 ^ 28
  decide (d ≠ 0 ∧ d < 2 ^ 27)
/-- SLUICE arrival at the job's root: F and L of a package. A boundary that does not span here while it spans there, or spans here
while the package has gone on without it, is one whose headers disagree (R406). -/
def execSluiceArrival (m : Msg) (s : State) : Out :=
  .next (
    match s.bound with
    | none => s
    | some b =>
      if b.seq % 2 ^ 28 ≠ sluiceSeq m then (if s.spans b && sluicePast m b.seq && b.hold = 0 then s.holdBound 0x62 else s)
      else if !s.spans b then s.holdBound 0x62
      else
        let x := msgBits m
        (s.modBound fun b => { b with spanFL := b.spanFL ++ [(m.src.toNat, x % 2 ^ 64, x / 2 ^ 64)] }).sluiceRoot)
/-- The package's own F and L, once nothing is missing here, go to the root (R406). -/
def State.sluiceUp (s : State) : State :=
  match s.bound with
  | none => s
  | some b =>
    if !s.spans b || !s.complete b || b.lAt.isSome then s
    else if s.isRoot then s.sluiceRoot
    else if b.sent then s
    else match s.portFor s.rootDev 0 with
      | none => s
      | some p =>
        (s.control p 6 s.rootDev (b.seq % 2 ^ 28 * 16) (b.first.getD 0 + ((b.last.map fun x => x.1).getD 0) * 2 ^ 64)).modBound
          fun b => { b with sent := true }
/-- SLUICE start: L of the span. Less than 32 cycles before the earliest start, every core starts 32 cycles after the
arrival, with the differences of Dk (R407). -/
def execSluiceStart (m : Msg) (s : State) : Out :=
  .next (
    match s.bound with
    | none => s
    | some b =>
      if b.seq % 2 ^ 28 ≠ sluiceSeq m || b.lAt.isSome then
        (if s.spans b && b.lAt.isNone && b.hold = 0 && sluicePast m b.seq then s.holdBound 0x62 else s)
      else
        let l := msgBits m % 2 ^ 64
        let d := match s.latched with
          | some d => (leastOf (d.cores.map fun c => c.delay)).getD d.mindelay
          | none => 0
        let now := s.cyc.toNat
        let s := s.reachLast l
        if s.latched.isSome && decide (l + d < now + 32) then
          (s.modBound fun b => { b with went := some (now + 32 - d) }).logError 5 0 0 0 1 0 0
        else s)

end Sys2Proof.Machine
end

