-- ==== Sys2Proof/Machine/Freeze.lean ====
section
/-!
DEFINITION. Machine/Freeze.lean: freezes announced, in effect and over (R36 to R41), the Weir limiter's request (R484,
R485), the bound on a phase body (R45), messages across the bridge (R398), and the replay of a segment (R459 to R462).
-/
namespace Sys2Proof.Machine

/-- The instant that the group's next unfrozen cycle is. -/
def Core.nextInst (c : Core) : Nat := c.groupInst + 1
def Core.replaying (c : Core) : Bool := c.seg.replayTo.isSome
/-- The primary stands still in wall cycle `now` while its snapshot is restored; the companion goes on (R459, R461). -/
def Core.restoring (c : Core) (now : Nat) : Bool := c.replaying && decide (now ≤ c.seg.restore)
/-! ### Announcements (R37, R398) -/

/-- A copy of a freeze message, sent in wall cycle `since` by bridge port i, arrives in 20 cycles, and 44 more for each time that it is
sent again (R398). -/
def State.tellBy (s : State) (i : Nat) (j : CoreId) (resume : Bool) (key since : Nat) : State :=
  let r := s.crossBy i
  let at' := since + 20 + 44 * r.2
  if at' ≤ s.cyc.toNat then
    r.1.modCore j fun c => { c with freezes := c.freezes.map fun f => if f.key = key ∧ f.clr.isSome = resume then { f with heard := true } else f }
  else { r.1 with bridgeNet := r.1.bridgeNet ++ [(at', .freezeMessage j resume key)] }
/-- An announcement or a resumption goes to core j of the other die in two copies at once, by two ports that a free value chooses
among those that are up; with none up it is lost (R398). -/
def State.tellFar (s : State) (j : CoreId) (resume : Bool) (key since : Nat) : State :=
  match s.bridgeUp with
  | [] => s
  | [i] => s.tellBy i j resume key since
  | ps =>
    let n := Config.pick s.fresh % ps.length
    (s.draw.tellBy (ps.getD n 0) j resume key since).tellBy (ps.getD ((n + 1) % ps.length) 0) j resume key since
/-- Core k announces, in wall cycle `since`, a freeze for its instant `inst` to every member of its group, a replaying core to itself
alone (R460). A member on the other die learns of it by messages across the bridge. An announcement already made is not made
again. -/
def State.announceAt (s : State) (k : CoreId) (src : FreezeSrc) (inst : Nat) (clr : Option Nat) (since : Nat) : State :=
  let own := s.core k
  let f0 : Freeze := { src := src, owner := k, key := inst, eff := none, clr := clr, heard := true }
  (if own.replaying then [k] else s.members k).foldl (fun s j =>
    let f := f0.asOf own.groupInst (s.core j).groupInst
    if (s.core j).freezes.any (fun g => g.src = src && g.owner = k && g.key = f.key) then s
    else
      let near := decide (j.val / 64 = k.val / 64)
      let s := s.modCore j fun c => { c with freezes := c.freezes ++ [{ f with heard := near }] }
      if near then s else s.tellFar j clr.isSome f.key since) s
/-- An announcement of the present cycle. -/
def State.announce (s : State) (k : CoreId) (src : FreezeSrc) (inst : Nat) (clr : Option Nat) : State :=
  s.announceAt k src inst clr s.cyc.toNat
/-- The conditions of core k's freezes that p names clear at wall cycle e: every member resumes by that cycle, and one on the other
die hears of it by messages across the bridge (R38, R398). -/
def State.clearWhich (s : State) (k : CoreId) (p : Core → Freeze → Bool) (e : Nat) : State :=
  allCores.foldl (fun s j =>
    let of := fun (c : Core) (f : Freeze) => f.owner = k && f.clr.isNone && p c f
    match (s.core j).freezes.filter (of (s.core j)) with
    | [] => s
    | fs =>
      let near := decide (j.val / 64 = k.val / 64)
      let s := s.modCore j fun c => { c with freezes := c.freezes.map fun f => if of c f then { f with clr := some e, heard := near } else f }
      if near then s else fs.foldl (fun s f => s.tellFar j true f.key e) s) s
/-- The condition of core k's freeze from a source clears at wall cycle e. -/
def State.clearFreeze (s : State) (k : CoreId) (src : FreezeSrc) (e : Nat) : State := s.clearWhich k (fun _ f => f.src = src) e

/-! ### Segment replay (R459, R460, R462) -/

/-- A member consumes poison: it rewinds to the opening of its segment, or POISON or SEG_REPLAY_FAIL stops its group. -/
def State.startReplay (s : State) (k : CoreId) (slot iss : Nat) (carried : Bool) (pc : BitVec 52) : State :=
  let c := s.core k
  let f := s.cyc.toNat
  if c.prim.trap.pend then s
  else match c.rewindRefused carried, c.seg.snap with
    | some (0x27, _), _ | none, none => s.deferTrap k false iss 0x27 slot (pc.setWidth 64)
    | some (cause, info), _ => s.asyncTrap k false 3 cause (BitVec.ofNat 64 info)
    | none, some sn =>
      -- the group stops at the earliest instant announced
      let stop := match c.freezes.find? (fun g => g.src = .replay && g.clr.isNone) with
        | some g => g.key
        | none => c.prim.inst + s.horizon k
      let s := s.announce k .replay stop none
      let s := s.logError 7 k.val 0 0x27 1 0 (c.prim.inst % 2 ^ 32 + sn.inst % 2 ^ 32 * 2 ^ 32)
      let again := fun (a : Access) => match a.who with
        | .unit j q _ => j = k && !a.op.writes && decide ((sn.q.getD q .reset).req ≤ a.pos)
        | _ => false
      (State.modCore { s with accs := s.accs.filter fun a => !again a } k fun c =>
        let c := c.rewind sn stop
        { c with
          hist := List.replicate 73 f, xIss := c.xIss.filter (· < sn.inst)
          seg := { c.seg with restore := f + 32 } }).transposeAgain k |>.auditRewind k sn.inst
/-- REPLAY_END: the replaying core reaches the instant at which its group stands; the replay freeze's condition clears
(R460, R462). -/
def State.replayEnd (s : State) (k : CoreId) : State :=
  let c := s.core k
  if c.seg.replayTo ≠ some c.nextInst then s
  else
    let s := s.modCore k fun c =>
      { c with
        seg := { c.seg with replayTo := none }
        freezes := c.freezes.map fun f => if f.src = .replay && f.owner = k && f.eff.isNone then { f with eff := some s.cyc.toNat } else f }
    s.clearFreeze k .replay s.cyc.toNat
def execReplayEnd (k : CoreId) (s : State) : Out := .next (s.replayEnd k)
/-- FREEZE_ANNOUNCE (R36, R37): a core's condition holds at its detection point. Of a replay, the last argument packs the
slot, whether the poison came from before the segment, and the originating bundle with its instant. -/
def execFreezeAnnounce (k : CoreId) (src : FreezeSrc) (inst : Nat) (s : State) : Out :=
  .next (
    match src with
    | .replay => s.startReplay k (inst % 8) (inst / 2 ^ 56) (decide (inst / 8 % 2 = 1)) (BitVec.ofNat 52 (inst / 16))
    | .weir => s.announce k src inst (some s.cyc.toNat)
    | _ => s.announce k src inst none)

/-! ### Effect and resumption (R37 to R39) -/

/-- The freeze has reached the instant at which it takes effect. -/
def Freeze.reached (f : Freeze) (c : Core) (now : Nat) : Bool :=
  if f.byWall then decide (f.key ≤ now) else decide (f.key ≤ c.nextInst)
/-- A freeze in effect holds in wall cycle `now`: until H cycles after its condition cleared, and one cycle at least. -/
def Freeze.holds (f : Freeze) (h now : Nat) : Bool :=
  match f.eff with
  | none => false
  | some w => match f.clr with | none => true | some e => decide (now < max (e + h) (w + 1))
/-- The freezes that apply to a core: while it replays, its own alone, and no pre-emption (R173, R460). -/
def Core.applying (c : Core) (k : CoreId) : List Freeze :=
  if c.replaying then c.freezes.filter fun f => f.owner = k && f.src ≠ .replay && f.src ≠ .preempt else c.freezes
/-- The core is frozen in wall cycle `now`. One whose primary is stopped by a trap is not, but by a stretch of its clock: its
companion keeps issuing (R171). -/
def State.freezesNow (s : State) (k : CoreId) (now : Nat) : Bool :=
  let c := s.core k
  (c.applying k).any fun f => f.holds (s.horizon k) now && (!c.stopped now || f.src = .stretch)
/-- Freezes that have reached their instant take effect. A pre-emption or a stretch, which counts in wall cycles, does so at the
next instant that the group reaches (R173, R478); no pre-emption while a trap has the primary stopped (R182). -/
def State.takeEffect (s : State) (k : CoreId) : State :=
  let now := s.cyc.toNat
  let free := !s.freezesNow k now
  let stopped := (s.core k).stopped now
  s.modCore k fun c => { c with freezes := c.freezes.map fun f =>
    if f.eff.isNone && f.reached c now && !(c.replaying && (f.owner ≠ k || f.src = .replay || f.src = .preempt)) &&
        (!f.byWall || free && !(stopped && f.src = .preempt)) then { f with eff := some now } else f }
/-- FREEZE_TAKE_EFFECT: the core's pipelines stop (R37, R39). -/
def State.freezeCore (s : State) (k : CoreId) : State :=
  let s := s.takeEffect k
  if s.freezesNow k s.cyc.toNat then s.modCore k fun c => { c with frozen := true } else s
def execFreezeTakeEffect (k : CoreId) (s : State) : Out := .next (s.freezeCore k)
/-- FREEZE_RESUME: no freeze applies any longer; the core goes on (R38). -/
def State.unfreezeCore (s : State) (k : CoreId) : State :=
  if s.freezesNow k s.cyc.toNat then s
  else s.modCore k fun c =>
    { c with frozen := false, freezes := if c.replaying then c.freezes else c.freezes.filter fun f => f.eff.isNone }
def execFreezeResume (k : CoreId) (s : State) : Out := .next (s.unfreezeCore k)
/-- FREEZE_MESSAGE: the first good copy of an announcement, or of a resumption, reaches a core of the other die; a second
has no effect (R398). -/
def execFreezeMessage (k : CoreId) (resume : Bool) (inst : Nat) (s : State) : Out :=
  .next (s.modCore k fun c => { c with freezes := c.freezes.map fun f =>
    if f.key = inst ∧ f.clr.isSome = resume then { f with heard := true } else f })
/-- A freeze of which the core has not heard 4 cycles before it takes effect, or of whose end 4 cycles before it resumes (R398). -/
def Core.unheard (c : Core) (h now : Nat) : Bool :=
  c.freezes.any fun f => !f.heard && match f.clr with | none => decide (f.key ≤ c.nextInst + 4) | some e => decide (e + h ≤ now + 4)
/-- FREEZE_MESSAGE_LATE: neither copy has come 4 cycles before the effect instant: MACHINE for the group (R398). -/
def execFreezeMessageLate (k : CoreId) (s : State) : Out :=
  .next (if (s.core k).unheard (s.horizon k) s.cyc.toNat then s.asyncTrap k false 3 0x7F 0 else s)
/-- The frozen cycle counts toward FRZMAX: no replay and no pre-emption is among its causes. -/
def Core.countsRun (c : Core) (now h : Nat) : Bool :=
  !c.replaying && !c.freezes.any fun f => (f.src = .replay || f.src = .preempt) && f.holds h now
/-- The member limit that a run reaches first, and the core that holds it. -/
def State.frzLimit (s : State) (ks : List CoreId) : Option (Nat × CoreId) :=
  ks.foldl (fun m k => match m with
    | none => some ((s.core k).frlim, k)
    | some (l, j) => if (s.core k).frlim < l then some ((s.core k).frlim, k) else some (l, j)) none
/-- A primary stops where it stands, in the present wall cycle. -/
def Strm.stopHere (t : Strm) (cls cause : Nat) (info : Word) (now : Nat) : Strm :=
  { t with
    run := .trapped, back := t.mode, left := (t.holdTo - (t.inst + 1), t.ready - (t.inst + 1))
    trap := { pend := true, cls := BitVec.ofNat 3 cls, cause := BitVec.ofNat 7 cause, pc := t.last, npc := t.pc, slot := 0
              info := info, cyc := BitVec.ofNat 64 now } }
/-- FREEZE_TIMEOUT: the run of core k's group reaches the limit that core k holds (R41). -/
def execFreezeTimeout (k : CoreId) (s : State) : Out :=
  .next (
    let ks := s.members k
    let run := (s.core k).frun
    if !(s.core k).frozen || run < (s.core k).frlim || decide ((s.frzLimit ks).map (fun m => m.2) ≠ some k) then s
    else
      ks.foldl (fun s j =>
        let own := decide (j = k)
        (s.modCore j fun c =>
          { c with
            frozen := false, frun := 0, freezes := c.freezes.filter fun f => f.eff.isNone
            prim := if c.prim.trap.pend || c.prim.run = .trapped then c.prim
              else c.prim.stopHere (if own then 3 else 4) (if own then 0x61 else 0)
                (if own then BitVec.ofNat 64 (k.val + run * 2 ^ 32) else 0) s.cyc.toNat }).firmware 0 j.val false 0 0) s)
/-- BODY_LENGTH_EXCEEDED: instant 65,536 of the body without PHEND (R45). -/
def execBodyLengthExceeded (k : CoreId) (s : State) : Out :=
  .next (
    let c := s.core k
    if c.place = .body ∧ c.b0 + 65536 ≤ c.prim.inst ∧ !c.prim.trap.pend then s.asyncTrap k false 3 0x62 0x01 else s)

/-! ### The Weir limiter (R484, R485) -/

/-- The window at the end of the present cycle. -/
def Core.window (c : Core) : Nat := (c.weights.take 63).foldl (· + ·) c.charge
/-- The primary was stopped in the present wall cycle by a trap of its own instant, and not by that of another core or by a
freeze's end (R84, R86). -/
def Core.trapsNow (c : Core) (now : Nat) : Bool :=
  c.prim.trap.pend && c.prim.trap.cyc = BitVec.ofNat 64 now && c.prim.trap.cls ≠ 4 && c.prim.trap.cause ≠ 0x61
/-- The test of the present instant fails. A frozen or stopped core makes none, but the instant in which a bundle traps is
tested still (R484, R490). -/
def Core.weirFails (c : Core) (now : Nat) : Bool :=
  !c.frozen && !c.restoring now && (c.prim.run ≠ .trapped || c.trapsNow now) && c.window ≠ 0 && decide (c.weirLim.toNat < c.window)
/-- WEIR_FREEZE_REQUEST: one frozen cycle for the group immediately before its instant t + H. -/
def execWeirFreezeRequest (k : CoreId) (s : State) : Out :=
  .next (if (s.core k).weirFails s.cyc.toNat then s.announce k .weir ((s.core k).prim.inst + s.horizon k) (some s.cyc.toNat) else s)

end Sys2Proof.Machine
end

