-- ==== Sys2Proof/Machine/Clocks.lean ====
section
/-!
DEFINITION. Machine/Clocks.lean: clock regions and stretch (R475 to R478), operating points (R479 to R482), the power loop
(R486), and undervolt and predictive failure (R487, R488). The margins, watts and temperatures that monitors report come with
the steps.
-/
namespace Sys2Proof.Machine

/-! ### Clock regions (R475 to R478) -/

/-- The region of a core (R475). -/
def regionOf (k : CoreId) : Nat := k.val / 64 * 36 + k.val % 64 / 8 * 4 + k.val % 8 / 2
/-- The cores of a region; regions 32 to 35 of a die hold none (R475). -/
def regionCores (r : RegionId) : List CoreId := allCores.filter fun k => regionOf k = r.val
/-- A stretch is allowed: the region has made none in the 31 cycles before (R477). -/
def State.mayStretch (s : State) (r : RegionId) : Bool :=
  let w := rd s.health.stretch r.val 0
  w = 0 || decide (w + 31 ≤ s.cyc.toNat)
/-- A stretch freeze is requested: for every core of the region, in effect H wall cycles on (R478). -/
def State.requestStretch (s : State) (r : RegionId) : State :=
  let s : State := { s with health := { s.health with low := (r.val, 0) :: s.health.low.filter fun x => x.1 ≠ r.val } }
  (regionCores r).foldl (fun s k => s.announce k .stretch (s.cyc.toNat + s.horizon k) none) s
/-- A margin below 8/64, and so below 16/64: the cycles for which a stretch freeze waits count afresh (R478), and the die has no
offset after this measurement window (R487). -/
def State.marginLow (s : State) (r : RegionId) : State :=
  { s with health := { s.health with low := s.health.low.map fun x => if x.1 = r.val then (x.1, 0) else x
                                     uvBad := wr s.health.uvBad (r.val / 36) true } }
/-- The next cycle begins with the stop of a synchronised change (R480). -/
def State.stopsNext (s : State) : Bool := s.health.busy && !s.health.goMode && decide (s.cyc.toNat + 1 = s.health.goAt.toNat)
/-- CLOCK_STRETCH: margin below 8/64. The next cycle of the region is stretched, which changes no count; where R477 forbids
it, a stretch freeze is requested (R476, R477). The stop of a synchronised change serves a request of the cycle before
(R490). -/
def execClockStretch (r : RegionId) (s : State) : Out :=
  .next (
    let s := s.marginLow r
    if s.stopsNext then s
    else if s.mayStretch r then
      { s with health := { s.health with stretch := wr s.health.stretch r.val (s.cyc.toNat + 1) } }
    else s.requestStretch r)
/-- STRETCH_FREEZE: margin below 8/64 where R477 forbids a stretch, and only there (R476, R478). -/
def execStretchFreeze (r : RegionId) (s : State) : Out :=
  .next (
    let s := s.marginLow r
    if s.stopsNext || s.mayStretch r then s else s.requestStretch r)
/-- The regions whose margin has been good for the 64 cycles after the last bad one end their freezes; the others count on. -/
def State.marginTick (s : State) : State :=
  let good := s.health.low.filter fun x => 65 ≤ x.2 + 1
  let s : State := { s with health := { s.health with low := (s.health.low.filter fun x => x.2 + 1 < 65).map fun x => (x.1, x.2 + 1) } }
  good.foldl (fun s x => (regionCores ⟨x.1 % 72, by omega⟩).foldl (fun s k => s.clearFreeze k .stretch s.cyc.toNat) s) s
/-- MACHINE on the primaries that p names, of those that run a body or start code or await their entry bundle; the group of one
that awaits it stops with it. -/
def State.machineOn (s : State) (p : CoreId → Bool) : State :=
  allCores.foldl (fun s k =>
    if !p k || (s.core k).prim.trap.pend then s
    else if (s.core k).group.isSome || (s.core k).place = .startCode then s.asyncTrap k false 3 0x7F 0
    else if (s.startGroup k).isSome then (s.asyncTrap k false 3 0x7F 0).stopGroup k s.cyc.toNat
    else s) s
/-- CRITICAL_MARGIN: every group with a member in the region stops with MACHINE, and the event is logged, under a kind that
the manual does not give (R478; log 3). -/
def execCriticalMargin (r : RegionId) (s : State) : Out :=
  .next (((s.marginLow r).machineOn fun k => (regionCores r).contains k).logError ((Config.freeWord (2 ^ 61)).toNat % 256) r.val 0 0x7F 1 0 0)

/-! ### Operating points (R479 to R482) -/

/-- A package of an aligned job of several packages (R403). -/
def State.alignedMany (s : State) : Bool := s.realign.aligned && !s.jobDevs.isEmpty
/-- The clock period of a point, in 1/458,752 of that of 3.6 GHz (R479). -/
def pointPeriod (p : Nat) : Nat := [458752, 516096, 589824, 688128].getD p 1032192
/-- A microsecond in the units of Health.time. -/
def usTime : Nat := 3600 * 458752
/-- A cycle at the period of the present point, and of a change in progress, has passed. -/
def Health.pass (h : Health) : Health := { h with time := h.time + h.ramp }
/-- 100 µs have passed since the last power loop (R486). -/
def Health.loopDue (h : Health) : Bool := decide (h.loopAt + 100 * usTime ≤ h.time)
/-- PFWIN ms have passed since the present measurement window began (R488). -/
def Health.pfDue (h : Health) : Bool := decide (h.pfAt + wb h.uvctl 63 48 * 1000 * usTime ≤ h.time) && decide (wb h.uvctl 63 48 ≠ 0)
/-- A change is armed. -/
def Health.arm (h : Health) (tgt : BitVec 3) (mode : Bool) (at' : Word) : Health :=
  { h with busy := true, goTgt := tgt, goMode := mode, goAt := at' }
/-- OPCTL_GO_SYNC: GO with MODE 0 (R480): the checks, then the change is armed for OPAT. -/
def execOpctlGoSync (s : State) : Out :=
  .next (
    let h := s.health
    let put := fun (h : Health) => { s with health := h }
    if h.busy then put { h with err := 3 }
    else if 5 ≤ h.tgt.toNat then put { h with err := 4 }
    else if h.opat.toNat < s.cyc.toNat + 262144 then put { h with err := 1 }
    else put (h.arm h.tgt false h.opat))
/-- OPCTL_GO_RUNNING: GO with MODE 1 (R482); refused in an aligned job of several packages. -/
def execOpctlGoRunning (s : State) : Out :=
  .next (
    let h := s.health
    let put := fun (h : Health) => { s with health := h }
    if h.busy then put { h with err := 3 }
    else if 5 ≤ h.tgt.toNat then put { h with err := 4 }
    else if s.alignedMany then put { h with err := 2 }
    else put (h.arm h.tgt true 0))
/-- A change is complete. -/
def Health.arrived (h : Health) : Health :=
  { h with busy := false, cur := h.goTgt, ramp := pointPeriod h.goTgt.toNat, chg := h.chg + 1 }
/-- A change has brought a new point: an interval at point 4 begins, or one ends and is logged, as kind 8, with the cycle in
which it began (R483; log 60). -/
def State.markSlow (s : State) : State :=
  let h := s.health
  if h.cur = 4 then { s with health := { h with slowAt := some (h.slowAt.getD s.cyc.toNat) } }
  else match h.slowAt with
    | none => s
    | some w => State.logError { s with health := { h with slowAt := none } } 8 0 0 0 1 0 w
/-- OP_SWITCH: cycle OPAT starts at the new period, after a stop of 1 µs in which no cycle passes; stretch windows start afresh
(R480, R490). -/
def execOpSwitch (s : State) : Out :=
  .next (
    let h := s.health
    if h.busy && !h.goMode && decide (s.cyc = h.goAt) then
      State.markSlow { s with health := { h.arrived with stretch := Vector.replicate 72 0, time := h.time + usTime } }
    else s)
/-- RUNNING_RAMP_STEP: in every 256 cycles the period moves toward the target by at most 1/256 of itself (R482). -/
def execRunningRampStep (s : State) : Out :=
  .next (
    let h := s.health
    if !h.busy || !h.goMode then s
    else
      let t := pointPeriod h.goTgt.toNat
      let d := h.ramp / 256
      let r := if h.ramp ≤ t then min t (h.ramp + d) else max t (h.ramp - d)
      if r = t then State.markSlow { s with health := h.arrived } else { s with health := { h with ramp := r } })

/-! ### The power loop (R486) -/

def State.eachLim (s : State) (f : Core → BitVec 16) : State := { s with cores := s.cores.map fun c => { c with weirLim := f c } }
/-- ⌈LIM / 16⌉. -/
def limStep (c : Core) : Nat := (c.weirLim.toNat + 15) / 16
def limDown (c : Core) : BitVec 16 := BitVec.ofNat 16 (max c.weirFlr.toNat (c.weirLim.toNat - limStep c))
def limUp (c : Core) : BitVec 16 := BitVec.ofNat 16 (min c.weirSet.toNat (c.weirLim.toNat + limStep c))
/-- The controller goes to a point: by a synchronised change, or in an aligned job by a request to the host (R481). -/
def State.goPoint (s : State) (p : Nat) : State :=
  let h := s.health
  if s.alignedMany then State.toHost { s with health := { h with req := BitVec.ofNat 3 p } } 4 [BitVec.ofNat 64 p]
  else if h.busy then s
  else { s with health := h.arm (BitVec.ofNat 3 p) false (s.cyc + 262144) }
/-- POWER_LOOP, every 100 µs, with the package power and the hottest reading. -/
def execPowerLoop (watts temp : Nat) (s : State) : Out :=
  .next (
    let s : State := { s with health := { s.health with loopAt := s.health.time } }
    let h := s.health
    let s := if h.tcrit.toNat ≤ temp then
        let s := (s.machineOn fun _ => true).toHost 3 [BitVec.ofNat 64 temp]
        { s with health := { s.health with rails := false } }
      else s
    let hot := decide (h.plim.toNat < watts ∨ h.thot.toNat ≤ temp)
    let s := if hot then s.eachLim limDown else s
    let floor := s.cores.toList.all fun c => c.weirLim.toNat ≤ c.weirFlr.toNat
    let hotFor := if hot && floor then s.health.hotFor + 1 else 0
    let cool := decide (10 * watts < 9 * h.plim.toNat ∧ temp + 5 < h.thot.toNat)
    let coolFor := if cool then s.health.coolFor + 1 else 0
    let s : State := { s with health := { s.health with hotFor := if hotFor = 100 then 0 else hotFor, coolFor := if coolFor = 100 then 0 else coolFor } }
    let cur := s.health.cur.toNat
    let tgt := s.health.tgt.toNat
    if hotFor = 100 then (if cur < 4 then s.goPoint (cur + 1) else s)
    else if coolFor = 100 then (if tgt < cur then s.goPoint (cur - 1) else if cur < tgt then s.goPoint (cur + 1) else s.eachLim limUp)
    else s)

/-! ### Undervolt and predictive failure (R487, R488) -/

def uvEn (w : Word) (d : Nat) : Bool := w.getLsbD d
def uvOfs (w : Word) (d : Nat) : Nat := wb w (4 * d + 7) (4 * d + 4)
/-- The offset that a die has: enabled, not zero, not withdrawn, and allowed by the margins of the last window (R487). -/
def Health.offsetOn (h : Health) (d : Nat) : Bool :=
  uvEn h.uvctl d && decide (uvOfs h.uvctl d ≠ 0) && !rd h.uvHold d false && rd h.uvGood d false
/-- The offsets follow UVCTL and what withdraws them; one that was on counts for the whole of its window (R488). -/
def Health.applyOffsets (h : Health) : Health :=
  let on : Vector Bool 2 := Vector.ofFn fun d => h.offsetOn d.val
  { h with uvOn := on, uvWin := Vector.ofFn fun d => rd h.uvWin d.val false || rd on d.val false }
/-- A write of UVCTL. The host's lets a withdrawn offset apply again; a new PFWIN begins a window afresh, so that a count is taken
over a full window (R488; DEDUCED, log 60). -/
def Health.putUvctl (h : Health) (old : Word) (host : Bool) : Health :=
  let fresh := decide (wb old 63 48 ≠ wb h.uvctl 63 48)
  Health.applyOffsets { h with
    uvHold := if host then Vector.replicate 2 false else h.uvHold
    pfAt := if fresh then h.time else h.pfAt
    rmis := if fresh then Vector.replicate 128 0 else h.rmis }
/-- PF_WINDOW_END: a core whose count of RMIS events reached PFTH: a die that had an offset loses it; otherwise the core's
predictive failure is declared. Whether a margin of the window lay between 8/64 and 16/64 is free (R487, R488; log 3). -/
def execPfWindowEnd (s : State) : Out :=
  .next (
    let h := s.health
    let th := wb h.uvctl 47 32
    let hot := allCores.filter fun k => th ≤ rd h.rmis k.val 0
    let s := hot.foldl (fun s k =>
      let h := s.health
      let d := k.val / 64
      if rd h.uvWin d false then
        { s with health := { h with uvHold := wr h.uvHold d true
                                    uvctl := h.uvctl ||| (BitVec.ofNat 64 (2 ^ (12 + d))) } }
      else
        let w : Word := BitVec.ofNat 64 (2 ^ (k.val % 64))
        let h := if d = 0 then { h with pfstat0 := h.pfstat0 ||| w } else { h with pfstat1 := h.pfstat1 ||| w }
        State.toHost { s with health := h } 2 [BitVec.ofNat 64 k.val]) s
    let h := s.health
    let good := Config.freeWord s.fresh
    { s.draw with health := Health.applyOffsets { h with
        rmis := Vector.replicate 128 0, uvWin := Vector.replicate 2 false, pfAt := h.time
        uvGood := Vector.ofFn fun d => !rd h.uvBad d.val false && good.getLsbD d.val
        uvBad := Vector.replicate 2 false } })

/-! ### Work that a stretch freeze holds (R478) -/

/-- The region of a die whose logic does a step of no fixed time: memory controllers and near-memory units 33, Clapel ports 34,
bridge ports 32, engines 35 (R475). -/
def State.workRegion (s : State) (e : Event) : Option Nat :=
  match e with
  | .homeAccess id => (s.accs.find? fun a => a.id = id).map fun a => stackOf a.pa / 4 * 36 + 33
  | .nadd u | .naxpy u | .nscal u | .nsgdw u | .nadamw u | .nfill u | .nred u | .ncopy u | .ncvt u | .nchk u | .nmStep u
  | .nmCommandComplete u => some (u.val / 64 * 36 + 33)
  | .trainingComplete p _ => some (if p.val < 24 then p.val / 12 * 36 + 34 else (p.val - 24) / 16 * 36 + 32)
  | .jcopy cl _ | .jcopyt cl _ | .jgather cl _ | .jscatter cl _ | .jred cl _ | .jobComplete cl _ | .samplerFetch cl
  | .samplerExecute cl | .samplerCommit cl | .samplerComplete cl => some (cl.val / 8 * 36 + 35)
  | .auditLogCopy k => some (k.val / 64 * 36 + 35)
  | _ => none
/-- A stretch freeze of the region holds the step (R478). -/
def State.slowed (s : State) (e : Event) : Bool :=
  match s.workRegion e with
  | none => false
  | some r => s.health.low.any fun x => x.1 = r

end Sys2Proof.Machine
end

