-- ==== Sys2Proof/Machine/Control.lean ====
section
/-!
DEFINITION. Machine/Control.lean: NOP and HOLD (R63), branches and loops (R149 to R155), TRAP, control registers and
fetch (R160 to R162), user-level interrupts (R163 to R166), and the stop and resumption of groups (R43, R170).
-/
namespace Sys2Proof.Machine

/-- NOP: an empty slot has no effect (R20, R63). -/
def execNop (s : State) : Out := .next s
/-- HOLD n: n idle cycles of the issuing stream (R23, R64). -/
def execHold (n : BitVec 4) (s : State) : Out := .next (runSlot (.hold n) s fun s => s)

/-! ### Branches (R149, R150) -/

/-- The target register, as it stands. -/
def Strm.target (t : Strm) (r : TReg) : Target := rd t.t r.toNat { addr := 0, valid := false, prep := 0 }
/-- A target register prepared at the present instant. -/
def State.prepare (s : State) (r : TReg) (a : Word) : State :=
  s.modMe fun t => { t with t := wr t.t r.toNat { addr := a, valid := true, prep := t.inst } }
/-- A taken branch through a target register: three bubble cycles when it was prepared less than 3 instants ago. -/
def State.branch (s : State) (r : TReg) : State :=
  let g := s.me.target r
  s.goTo g.addr (if g.prep + 3 ≤ s.me.inst then 0 else 3)

/-- PBR (R149). -/
def execPbr (h : CHdr) (t : TReg) (off : BitVec 15) (s : State) : Out :=
  .next (runSlot (.pbr h t off) s fun s => s.prepare t (s.me.pc.setWidth 64 + 32 * off.signExtend 64))
/-- PBRX (R149). -/
def execPbrx (h : CHdr) (t : TReg) (a : XReg) (s : State) : Out :=
  .next (runSlot (.pbrx h t a) s fun s => s.prepare t (s.x a))
/-- BR (R149, R150). -/
def execBr (h : CHdr) (t : TReg) (s : State) : Out := .next (runSlot (.br h t) s fun s => s.branch t)
/-- CALL: the address of the next bundle is pushed (R149). -/
def execCall (h : CHdr) (t : TReg) (s : State) : Out :=
  .next (runSlot (.call h t) s fun s =>
    (s.modMe fun u => { u with ras := (u.pc.setWidth 64 + 32) :: u.ras }).branch t)
/-- RET: the newest address is popped (R149, R150). -/
def execRet (h : CHdr) (s : State) : Out :=
  .next (runSlot (.ret h) s fun s =>
    match s.me.ras with
    | [] => s
    | a :: r => (s.modMe fun u => { u with ras := r }).goTo a 0)

/-! ### Loops (R151 to R154) -/

/-- LOOP: the counts, RBASE 0 and p8 to p15, usable at c+1 (R151, R154). -/
def execLoop (h : CHdr) (a : XReg) (ec : BitVec 6) (s : State) : Out :=
  .next (runSlot (.loop h a ec) s fun s =>
    let n := s.x a
    s.later 0 1 (.loop { lc := n.setWidth 32, ec := ec, base := 0, act := true }
      ((8, n != 0) :: (List.range 7).map (fun i => (9 + i, false)))))
/-- The loop state and the new p8 of a BRL, and whether it branches (R152). -/
def LoopState.brl (l : LoopState) : LoopState × (Nat × Bool) × Bool :=
  let base := l.base + 1
  let lc := if l.lc = 0 then 0 else l.lc - 1
  let p8 := (8 + (16 - base.toNat) % 8, lc != 0)
  if lc ≠ 0 then ({ l with lc := lc, base := base }, p8, true)
  else if l.ec ≠ 0 then ({ l with lc := lc, ec := l.ec - 1, base := base }, p8, true)
  else ({ l with lc := lc, base := base, act := false }, p8, false)
/-- BRL (R152). -/
def execBrl (h : CHdr) (t : TReg) (s : State) : Out :=
  .next (runSlot (.brl h t) s fun s =>
    let r := s.cur.loop.brl
    let s := s.later 0 1 (.loop r.1 [r.2.1])
    if r.2.2 then s.branch t else s)

/-! ### TRAP, control registers, fetch -/

/-- TRAP: the issue-class trap of R160 is its whole effect; runSlot raises it. -/
def execTrap (h : CHdr) (code : BitVec 12) (s : State) : Out := .next (runSlot (.trap h code) s fun s => s)
/-- RDC: the value at issue, or for HCVAL the value at c+1 (R161, R376). -/
def execRdc (h : CHdr) (d : XReg) (n : BitVec 12) (s : State) : Out :=
  .next (runSlot (.rdc h d n) s fun s =>
    if n = 0x141 then
      match s.cur.xRef s.focus.2 d with
      | .x k => if k = 0 then s else s.later 0 1 (.hcval false k)
      | .sx k => s.later 0 1 (.hcval true k)
      | _ => s
    else
      let v := s.cread s.focus.1 s.focus.2 n.toNat
      (s.auditRes s.focus.1 s.focus.2 s.me.inst 0 v).putX 0 1 d v)
/-- WRC: the write takes effect at c+1 (R161). -/
def execWrc (h : CHdr) (a : XReg) (n : BitVec 12) (s : State) : Out :=
  .next (runSlot (.wrc h a n) s fun s => s.later 0 1 (.wrc n (s.x a)))
/-- IFENCE: the bundles fetched ahead are discarded, and the next issues after three bubbles (R162). -/
def execIfence (h : CHdr) (s : State) : Out :=
  .next (runSlot (.ifence h) s fun s => s.modMe fun t => { t with ibuf := [], ready := t.ready + 3 })

/-! ### User-level interrupts (R163 to R166) -/

/-- UIRET: back to UIEPC; the main bank is selected from c+1 (R141, R165). -/
def execUiret (h : CHdr) (s : State) : Out :=
  .next (runSlot (.uiret h) s fun s => (s.later 0 1 .unshade).goTo (s.cur.uiepc.setWidth 64) 3)
/-- WAITI: the companion issues nothing until a record is delivered (R166). -/
def execWaiti (h : CHdr) (s : State) : Out :=
  .next (runSlot (.waiti h) s fun s =>
    (s.modMe fun t => { t with run := .waiti }).modCur fun c => { c with uiepc := c.comp.npc })

/-- The companion stands at a bundle boundary at which a queued record is delivered (R163). While the condition of a FENCE is not
met no boundary is reached, which R163 and R251 leave open (DEDUCED, log 16). -/
def State.delivers (s : State) (k : CoreId) : Bool :=
  let c := s.core k
  c.uivEn && !c.inh && !c.uiq.isEmpty && !c.frozen && (c.comp.run = .running || c.comp.run = .waiti) &&
    decide (c.comp.ready ≤ c.comp.inst) && c.comp.fence.all (s.fenceHolds k true)
/-- UI_DELIVER: delivery of a record to the companion (R163, R164). How many cycles beyond three pass before the
handler's first bundle is a free value (log 3). -/
def execUiDeliver (k : CoreId) (s : State) : Out :=
  .next (
    let c := s.core k
    if !s.delivers k then s else
    match c.uiq with
    | [] => s
    | (ws, a) :: r =>
      let wait := 3 + Config.pick s.fresh
      (s.modCore k fun c =>
        { c with
          uiepc := c.comp.pc, inh := true, uiq := r, uiTail := c.uiTail + 1
          comp := { c.comp with
            run := .running
            sx := wr (wr c.comp.sx 0 (ws.headD 0)) 1 (BitVec.ofNat 64 a)
            pc := c.uivAddr.setWidth 52 <<< 5
            holdTo := c.comp.inst + wait, ready := c.comp.inst + wait } }).draw)

/-! ### Stop and resumption of groups (R43, R170, R171) -/

/-- The primary stream takes part in the stop of its group: it is in its body, or has not entered it (R43). -/
def Core.inGroup (c : Core) : Bool := c.group.isSome
/-- GROUP_STOP: a member other than the faulting one stops, with cause 0x00 (R43, R168). One that has its own trap keeps it;
one past its PHEND records nothing. -/
def State.groupStop (s : State) (k : CoreId) : State :=
  let c := s.core k
  match c.stopAt, c.faultCy with
  | some w, some f =>
    -- a core that faulted itself counts as frozen through cycle w
    if s.cyc.toNat < w || c.faultHold s.cyc.toNat then s
    else
      let s := s.modCore k fun c =>
        { c with stopAt := none, ahead := 0
                 freezes := c.freezes.map fun f => if f.eff.isNone && !f.byWall then { f with key := f.key - c.ahead } else f }
      if c.prim.trap.pend || c.prim.run = .trapped || !(c.inGroup || c.startAt.isSome) then s
      else
        (s.modStrm k false fun t =>
          { t with
            run := .trapped, back := t.mode
            left := (t.holdTo - (t.inst + 1), t.ready - (t.inst + 1))
            trap := { pend := true, cls := 4, cause := 0, pc := t.last, npc := t.pc, slot := 0, info := 0
                      cyc := BitVec.ofNat 64 f } }).firmware 0 k.val false 0 0
  | _, _ => s
def execGroupStop (k : CoreId) (s : State) : Out := .next (s.groupStop k)

/-- GROUP_RESUME: a member issues again, H cycles after the last CONTINUE (R170). The start of a member that was held
moves by the cycles of the stop, as by a freeze (R43). -/
def State.groupResume (s : State) (k : CoreId) : State :=
  match (s.core k).goAt with
  | none => s
  | some w =>
    if s.cyc.toNat < w then s
    else s.modCore k fun c =>
      { c with cont := false, goAt := none, stopAt := none, ahead := 0, faultCy := none, group := if c.place = .window then none else c.group
               startAt := c.startAt.map (· + (w - (c.faultCy.getD w + s.stopHorizon k)))
               prim := if c.prim.run = .trapped then c.prim.resume (if c.place = .window || c.startAt.isSome then .slack else .running) else c.prim }
def execGroupResume (k : CoreId) (s : State) : Out := .next (s.groupResume k)

end Sys2Proof.Machine
end

