-- ==== Sys2Proof/Machine/Recovery.lean ====
section
/-!
DEFINITION. Machine/Recovery.lean: the fallback of a job to its recovery point and the recovery record (R466, R467), and
firmware's answers to a trap: CONTINUE and ABORT (R170).
-/
namespace Sys2Proof.Machine

/-! ### Fallback (R466) -/

/-- A stream whose job is over. -/
def Strm.over (t : Strm) : Strm :=
  { t with run := .ended, late := false, pend := [], waits := [], fence := none, trap := { t.trap with pend := false } }
/-- A core that falls back: its streams end and nothing is saved; held rows and the open segment are discarded. -/
def Core.fallBack (c : Core) : Core :=
  { c with
    prim := c.prim.over, comp := c.comp.over, place := .outside, group := none, freezes := [], frozen := false, frun := 0
    stopAt := none, ahead := 0, faultCy := none, cont := false, startAt := none, goAt := none, slice := none, audit := none, stsig := 0, atLnch := none
    seg := { c.seg with isOpen := false, valid := false, fix := false, rpl := false, held := [], ingress := [], logpos := []
                        snap := none, replayTo := none } }
/-- A core that is switched out falls back: its endpoints are flushed as those of a core that runs (R466). -/
def Core.fallBackSaved (c : Core) : Core :=
  { c.fallBack with
    tq := c.tq.map fun e => if !e.bound then e else if e.outbound then { e with flush := true } else { Endpoint.reset with everBound := true } }
/-- The first words of the recovery record (R467): cause, failing core, its group, the recovery point, PHID, the wall cycles of
the failure and of the recovery point, TRAPPC and TRAPINFO. -/
def State.fallWords (s : State) (ctx : Option Nat) (cause core group : Nat) (cyc pc info : Word) : List Word :=
  [fields [(cause, 0, 7), (core, 8, 7), (group, 16, 6), (s.rcvId.toNat, 32, 32)], (s.ctxView ctx).phid, cyc, s.rcvCyc, pc, info]
/-- A context falls back: its streams stop, held rows are discarded, its endpoints are flushed, and its job is cancelled
(R466, steps 1 to 3). Work that has not begun goes. -/
def State.fallback (s : State) (ctx : Option Nat) (ws : List Word) : State :=
  if s.falls.any (fun f => f.ctx = ctx) then s
  else
    let ks := allCores.filter fun k => (s.core k).ctx = ctx
    let s := ks.foldl (fun s k =>
      (List.range 8).foldl (fun s q => s.tqFlushNow k q) (s.modCore k Core.fallBack)) s
    let s := s.cancelJobs fun _ j => j.stamp.ctx = ctx
    let s : State := { s with
      nm := s.nm.filter fun c => c.begun || c.stamp.ctx ≠ ctx
      clusters := s.clusters.map fun u => { u with reqs := u.reqs.filter fun r => r.stageNo ≠ 0 || r.stamp.ctx ≠ ctx }
      nmWaits := s.nmWaits.filter fun w => !ks.contains w.core, seedWaits := s.seedWaits.filter fun w => !ks.contains w.core
      audblks := (s.audblks.filter fun b => b.ended || b.ctx ≠ ctx).map fun b => if b.ctx = ctx then { b with runs := [] } else b
      rcvPend := false, falls := s.falls ++ [{ ctx := ctx, words := ws }] }
    let s : State := { s with
      ctxs := s.ctxs.map fun x =>
        if ctx = some x.num then { x with saved := x.saved.map (fun c => (c.1, c.2.fallBackSaved)), nmHeld := [] } else x }
    s.asCtx ctx fun s =>
      { s with
        hcounts := s.hcounts.map (fun h => if h.level = 4 && !h.done then { h with canc := true } else h)
        bound := none, running := none, latched := none, lastEnd := none, selOpen := false, selValid := false
        realign := if s.realign.active && s.realign.ctx = ctx
          then { s.realign with active := false, resume := none, stepAt := none } else s.realign }

/-- No engine work and no write of the context is left (R466, step 4). -/
def State.quiet (s : State) (ctx : Option Nat) : Bool :=
  s.clusters.toList.all (fun u => u.jobs.all (fun j => j.stamp.ctx ≠ ctx) && u.reqs.all (fun r => r.stamp.ctx ≠ ctx)) &&
    s.nm.all (fun c => c.stamp.ctx ≠ ctx) &&
    s.accs.all fun a => !a.op.writes || (match a.who with
      | .strm _ _ | .unit _ _ _ => a.ctx ≠ ctx
      | .job _ _ | .nm _ | .sampler _ => false
      | .host | .link _ _ => true)
/-- The record as one number of bytes from RCVBASE: words, host ranges and the bitmap of exposed blocks (R465, R467). -/
def State.recoveryBytes (s : State) (ws : List Word) : Nat :=
  let head := (ws ++ [fields [(s.hostRng.length, 0, 11), (s.hostOvf.toNat, 11, 1)]]).zipIdx.foldl (fun x w => x + w.1.toNat * 2 ^ (64 * w.2)) 0
  let rng := s.hostRng.zipIdx.foldl (fun x r => x + (r.1.1 * 65536 + r.1.2 * 65536 * 2 ^ 64) * 2 ^ (128 * r.2)) 0
  let bits := s.exposed.foldl (fun x b => x + 2 ^ (b / 2 ^ 20 % 8 * 786432 + b % 2 ^ 20)) 0
  head + rng * 2 ^ (8 * 0x1000) + bits * 2 ^ (8 * 0x8000)
/-- RECOVERY_RECORD_WRITE: the record is written, its address is posted to the host, and the job's counter is DONE (R466,
steps 4 and 5). The record's own writes are not marked. -/
def execRecoveryRecordWrite (s : State) : Out :=
  .next (
    match s.falls.find? (fun f => s.quiet f.ctx) with
    | none => s
    | some f =>
      let n := 0x8000 + 786432
      let s := s.store s.rcvbase.toNat n (s.recoveryBytes f.words) (2 ^ n - 1) true
      let s := s.toHost 1 [s.rcvbase]
      let s := s.asCtx f.ctx fun s =>
        { s with hcounts := s.hcounts.map fun h => if h.level = 4 && !h.done then { h with done := true, count := 0 } else h }
      { s with
        falls := s.falls.filter fun g => g.ctx ≠ f.ctx
        ctxs := s.ctxs.map fun x => if f.ctx = some x.num then { x with jobRun := false } else x })

/-! ### TRAPACT and SEQCTL (R170, R369) -/

/-- ABORT of a trapped stream's job. -/
def State.abortTrap (s : State) (k : CoreId) (comp : Bool) : State :=
  let c := s.core k
  let t := (c.strm comp).trap
  if !t.pend then s
  else s.fallback c.ctx
    (s.fallWords c.ctx t.cause.toNat k.val (c.group.getD 0) t.cyc (keep (t.pc.setWidth 64) 51 5) t.info)
/-- TRAPACT_ABORT. -/
def execTrapactAbort (k : CoreId) (comp : Bool) (s : State) : Out := .next (s.abortTrap k comp)
/-- The causes that firmware answers only with ABORT (R466). -/
def onlyAbort (cause : Nat) : Bool := [0x27, 0x79, 0x61, 0x7F].contains cause
/-- Every member of the core's group that stands stopped, or is still to stop, has had CONTINUE written (R43, R170). -/
def State.allContinued (s : State) (k : CoreId) : Bool :=
  (s.stopMembers k).all fun j => (s.core j).cont || ((s.core j).prim.run ≠ .trapped && (s.core j).stopAt.isNone)
/-- TRAPACT_CONTINUE: firmware's CONTINUE (R170). A companion, and a primary outside a phase body, go on at once; a
group goes on H cycles after the last of its members' writes. For the causes of R466 it acts as ABORT. -/
def execTrapactContinue (k : CoreId) (comp : Bool) (s : State) : Out :=
  .next (
    let t := s.strm k comp
    if !t.trap.pend then s
    else if onlyAbort t.trap.cause.toNat then s.abortTrap k comp
    else if comp ∨ ((s.core k).group = none ∧ (s.core k).startAt = none) then
      s.modStrm k comp fun t => t.resume (if !comp && (s.core k).place = .window then .slack else t.back)
    else
      let s := s.modCore k fun c =>
        { c with cont := true, prim := { c.prim with trap := { c.prim.trap with pend := false } } }
      if s.allContinued k then
        (s.stopMembers k).foldl (fun s j => s.modCore j fun c =>
          if c.cont then { c with goAt := some (s.cyc.toNat + s.stopHorizon k) } else c) s
      else s)
/-- SEQCTL_ABORT: firmware ends the job whose boundary is held (R369). -/
def execSeqctlAbort (s : State) : Out :=
  .next (
    match s.bound with
    | none => s
    | some b => if b.hold = 0 then s else (s.fallback s.curCtx
        (s.fallWords s.curCtx b.hold (wb (Config.freeWord s.fresh) 6 0) (wb (Config.freeWord s.fresh) 12 7) s.cyc
          (keep (Config.freeWord (s.fresh + 1)) 51 5) (Config.freeWord (s.fresh + 2)))).draw.draw.draw)

end Sys2Proof.Machine
end

