-- ==== Sys2Proof/Machine/HostIf.lean ====
section
/-!
DEFINITION. Machine/HostIf.lean: register writes of host and firmware (R7, R492), host accesses to device memory (R493),
invalidation (R495), mailboxes and their commands (R496, R497, R500 to R503), and start-up (R490, R498, R499).
-/
namespace Sys2Proof.Machine

/-! ### Register writes (R7, R492) -/

/-- A write of control register n by host or firmware that only stores, under the access codes of its map (R7); of UVCTL, the
host's is told from firmware's (R488). -/
def State.regStore (s : State) (k : CoreId) (comp host : Bool) (n : Nat) (v : Word) : State :=
  let old := s.health.uvctl
  let s := s.cwrite k comp n v
  if n = 0x224 then { s with health := s.health.putUvctl old host } else s
/-- The actions that a write of a register sets off, as machine steps in order. -/
def regActions (k : CoreId) (comp : Bool) (n : Nat) (v : Word) : List Event :=
  match n with
  | 0x036 => if wb v 1 0 = 1 then [.trapactContinue k comp] else if wb v 1 0 = 2 then [.trapactAbort k comp] else []
  | 0x143 => (if v.getLsbD 1 then [.seqctlAbort] else []) ++ (if v.getLsbD 0 then [.seqctlGo] else [])
  | 0x152 => [.stbaseWrite v]
  | 0x201 => [.rcvmarkWrite (v.setWidth 32)]
  | 0x220 => if v.getLsbD 0 then [if v.getLsbD 1 then .opctlGoRunning else .opctlGoSync] else []
  | 0x240 => (if v.getLsbD 1 then [.startClr] else []) ++ (if v.getLsbD 0 then [.startGo] else [])
  | 0x242 => [.tlbinvWrite v]
  | _ =>
    if h : 0x180 ≤ n ∧ n ≤ 0x1DF then
      if (n - 0x180) % 4 = 0 ∧ v.getLsbD 0 then [.pctlRetrain ⟨(n - 0x180) / 4, by omega⟩] else []
    else []
/-- The write has no store of its own beside its action. -/
def actionOnly (n : Nat) : Bool := [0x036, 0x143, 0x152, 0x201, 0x240, 0x242].contains n
/-- A write of a register, by the host or by firmware: a store under the access codes; the actions it sets off follow. Numbers
above 0x800 reach the companion's banked copies (R180); unassigned numbers store nothing. -/
def State.regWrite (s : State) (k : CoreId) (comp host : Bool) (n : Nat) (v : Word) : State :=
  match hostReg n with
  | none => s
  | some (n, c) =>
    let comp := comp || c
    if cAccess n = none then s
    else
      let s := if actionOnly n then s else s.regStore k comp host n v
      { s with agenda := s.agenda ++ regActions k comp n v }
/-- REGISTER_WRITE, by the host (R492). -/
def execRegisterWrite (k : CoreId) (comp : Bool) (n : BitVec 12) (v : Word) (s : State) : Out :=
  .next (s.regWrite k comp true n.toNat v)
/-- A register write of firmware (R9, R11). -/
def execFirmwareWrite (k : CoreId) (comp : Bool) (n : BitVec 12) (v : Word) (s : State) : Out :=
  .next (s.regWrite k comp false n.toNat v)
/-- The core and register number that an access to HW0 names: it is 8 bytes wide and aligned, and lies in the block of a core
(R492). -/
def hw0Reg (off len : Nat) : Option (CoreId × Nat) :=
  if len ≠ 8 ∨ off % 8 ≠ 0 ∨ 0x80_0000 ≤ off ∨ 0x8000 ≤ off % 0x1_0000 then none else some (coreOf (off / 0x1_0000), off % 0x1_0000 / 8)
/-- What HW0 returns on a read: all ones where no access is defined, and zero for an unassigned number (R492). -/
def State.hw0Read (s : State) (off len : Nat) : Word :=
  match hw0Reg off len with
  | none => BitVec.allOnes 64
  | some (k, n) => match hostReg n with
    | none => 0
    | some (n, c) => s.cread k c n

/-! ### Host accesses (R493) -/

/-- The host window stands: device memory runs, which it does not in minimal mode (R499). -/
def State.hostOpen (s : State) (off len : Nat) : Bool := !s.startMin && decide (off + len ≤ 2 ^ 36)
def State.hostPa (s : State) (off : Nat) : Nat := s.hw1base.toNat + off
/-- An access to unbacked memory is recorded; the manual gives the entry no kind (log 3). -/
def State.hostUnbacked (s : State) (pa : Nat) : State := s.logError ((Config.freeWord (2 ^ 61 + 1)).toNat % 256) 0 0 0 1 pa 0
/-- A completion with data, poisoned or not, and one with Unsupported Request (R491, R493). -/
def State.hostAnswer (s : State) (pos : Nat) (d : Row) (poison : Bool) : State := { s with hostCpl := s.hostCpl ++ [(pos, d, poison)] }
def State.hostRefuse (s : State) (pos : Nat) : State := { s with hostUr := s.hostUr ++ [pos] }
/-- A read of HW0. -/
def execHw0Read (off len : Nat) (s : State) : Out := .next (s.hostAnswer off ((s.hw0Read off len).setWidth 1024) false)
/-- A write of HW0; one of another width or alignment is discarded. -/
def execHw0Write (off len : Nat) (v : Word) (s : State) : Out :=
  .next (match hw0Reg off len with | none => s | some (k, n) => s.regWrite k false true n v)
/-- The pieces of a host access: each within one row, with its offset in the access. -/
def hostPieces (pa len : Nat) : List (Nat × Nat × Nat) :=
  ((List.range ((pa % 128 + len + 127) / 128)).map fun i =>
    let lo := if i = 0 then pa else (pa / 128 + i) * 128
    let hi := min (pa + len) ((pa / 128 + i + 1) * 128)
    (lo - pa, lo, hi - lo)).filter fun p => p.2.2 ≠ 0
/-- HOST_READ: a completion returns after each piece has performed; unbacked memory reads as all ones. -/
def execHostRead (off : Nat) (len : Nat) (s : State) : Out :=
  .next (
    if !s.hostOpen off len then s.hostAnswer off (BitVec.allOnes 1024) false
    else (hostPieces (s.hostPa off) len).foldl (fun s p =>
      if s.unbacked p.2.1 then (s.hostUnbacked p.2.1).hostAnswer (off + p.1) (BitVec.allOnes 1024) false
      else s.send .host (.read p.2.2) p.2.1 [] (off + p.1)) s)
/-- HOST_WRITE: posted, in the order received; a write of unbacked memory is discarded. -/
def execHostWrite (off : Nat) (data : List Byte) (s : State) : Out :=
  .next (
    if !s.hostOpen off data.length then s
    else (hostPieces (s.hostPa off) data.length).foldl (fun s p =>
      if s.unbacked p.2.1 then s.hostUnbacked p.2.1
      else
        let o := p.2.1 % 128
        let x := leWord ((data.drop p.1).take p.2.2)
        s.send .host (.write (BitVec.ofNat 1024 (x * 2 ^ (8 * o))) (BitVec.ofNat 128 ((2 ^ p.2.2 - 1) * 2 ^ o))) (p.2.1 - o)) s)
/-- An AtomicOp of the host: 0 FetchAdd, 1 Swap, 2 CAS, on the aligned word. One outside HW1 is completed with Unsupported Request
(R491). -/
def State.hostAtomic (s : State) (op off : Nat) (wide : Bool) (v cmp : Word) : State :=
  let pa := s.hostPa off
  let w := if wide then 8 else 4
  if s.startMin then s.hostAnswer off (BitVec.allOnes 1024) false
  else if !s.hostOpen (off / w * w) w then s.hostRefuse off
  else if s.unbacked pa then (s.hostUnbacked pa).hostAnswer off (BitVec.allOnes 1024) false
  else s.send .host (.hostAtomic op wide v cmp) pa [] off
/-- HOST_FETCHADD. -/
def execHostFetchadd (off : Nat) (wide : Bool) (v : Word) (s : State) : Out := .next (s.hostAtomic 0 off wide v 0)
/-- HOST_SWAP. -/
def execHostSwap (off : Nat) (wide : Bool) (v : Word) (s : State) : Out := .next (s.hostAtomic 1 off wide v 0)
/-- HOST_CAS. -/
def execHostCas (off : Nat) (wide : Bool) (cmp : Word) (v : Word) (s : State) : Out := .next (s.hostAtomic 2 off wide v cmp)

/-- A CAS of 128 bits has no effect (R491). -/
def execHostCas128 (off : Nat) (s : State) : Out := .next (s.hostRefuse off)

/-! ### Cached translations (R495) -/

/-- The translations that TLBINV names are dropped from every core of the context. -/
def State.dropTlb (s : State) : State :=
  let ctx := wb s.tlbinv 59 52
  let n := wb s.tlbinv 15 0
  let lo := wb s.tlbinv 51 16 * 65536
  let out := fun (t : Tlb) => n ≠ 0 && (decide (t.va + 2 ^ t.size ≤ lo) || decide (lo + n * 65536 ≤ t.va))
  { s with cores := s.cores.map fun c =>
    if c.tlb.isEmpty || c.ctx.getD ctx ≠ ctx then c else { c with tlb := c.tlb.filter out } }
/-- TLBINV_WRITE: an invalidation starts; one in progress ends first. -/
def execTlbinvWrite (v : Word) (s : State) : Out :=
  .next { (if s.tlbBusy then s.dropTlb else s) with tlbinv := keep v 59 0, tlbBusy := true }
/-- TLBINV_DONE: every cached translation in the range has been dropped. -/
def execTlbinvDone (s : State) : Out := .next (if s.tlbBusy then { s.dropTlb with tlbBusy := false } else s)

/-! ### Mailboxes (R496, R497) -/

/-- Word i of command slot b. -/
def State.slotWord (s : State) (b : MailSlot) (i : Nat) : Word :=
  match s.h2d.find? (fun e => e.1 = b.val) with
  | none => 0
  | some e => e.2.getD i 0
/-- Words i and up of a command slot. -/
def State.slotPut (s : State) (b : MailSlot) (i : Nat) (ws : List Word) : State :=
  let old := match s.h2d.find? (fun e => e.1 = b.val) with | none => [] | some e => e.2
  let new := (List.range (max old.length (i + ws.length))).map fun j => if i ≤ j ∧ j < i + ws.length then ws.getD (j - i) 0 else old.getD j 0
  { s with h2d := (b.val, new) :: s.h2d.filter fun e => e.1 ≠ b.val }
/-- The host writes a byte of HW2: of a command slot, or of nothing. -/
def State.hw2Write (s : State) (off : Nat) (b : Byte) : State :=
  if h : off / 4096 < 64 then
    let i := off % 4096 / 8
    let at' := 8 * (off % 8)
    let old := s.slotWord ⟨off / 4096, h⟩ i
    s.slotPut ⟨off / 4096, h⟩ i [BitVec.ofNat 64 (old.toNat - bitsOf old.toNat (at' + 7) at' * 2 ^ at' + b.toNat * 2 ^ at')]
  else s
/-- What the host reads of HW2: slots and, from 0x8_0000, the ring of 256 messages. -/
def State.hw2Read (s : State) (off : Nat) : Word :=
  if h : off / 4096 < 64 then s.slotWord ⟨off / 4096, h⟩ (off % 4096 / 8)
  else if 0x8_0000 ≤ off ∧ off < 0x8_4000 then
    let i := (off - 0x8_0000) / 64
    let n := s.d2h.length
    let j := if n ≤ i then n else i + (n - 1 - i) / 256 * 256
    (s.d2h.getD j []).getD (off % 64 / 8) 0
  else 0
/-- A read of HW2: bytes of the mailboxes (R496). -/
def execHw2Read (off len : Nat) (s : State) : Out :=
  .next (s.hostAnswer off (BitVec.ofNat 1024 (leWord ((List.range (min len 128)).map fun i =>
    BitVec.ofNat 8 ((s.hw2Read (off + i)).toNat / 2 ^ (8 * ((off + i) % 8)))))) false)
/-- A write of HW2, byte after byte (R496). -/
def execHw2Write (off : Nat) (data : List Byte) (s : State) : Out :=
  .next (data.zipIdx.foldl (fun s b => s.hw2Write (off + b.2) b.1) s)
/-- The result of a command: its data, its status and, last, word 256 := SEQ. -/
def State.answer (s : State) (b : MailSlot) (status : Nat) (data : List Word) : State :=
  (s.slotPut b 257 (BitVec.ofNat 64 status :: data)).slotPut b 256 [s.slotWord b 0]
/-- The command that a slot's OP names, when its SEQ has changed; one that R496 does not give is answered at once. -/
def State.mailStep (s : State) (b : MailSlot) : Option (Event ⊕ Unit) :=
  if s.slotWord b 0 = s.slotWord b 256 || s.seedHost.contains b then none
  else match (s.slotWord b 1).toNat with
    | 1 => some (.inl (.load b))
    | 2 => some (.inl (.attest b))
    | 3 => some (.inl (.seed b))
    | 4 => some (.inl (.abort b))
    | _ => some (.inr ())
def State.mailUnknown (s : State) (b : MailSlot) : State := s.answer b 0x7F []
/-- SEED: the host takes a seed; with the entropy source stopped it waits (R503). -/
def State.seedAnswer (s : State) (b : MailSlot) : State :=
  let n := s.seedcnt
  let x := seedBits s.fresh
  (s.issueSeed .host (2 ^ 15)).answer b 0 (n :: (List.range 4).map fun i => BitVec.ofNat 64 (x / 2 ^ (64 * i)))
def execSeed (slot : MailSlot) (s : State) : Out :=
  .next (if s.seedOn then s.seedAnswer slot else { s with seedHost := s.seedHost ++ [slot] })
/-- ENTROPY_HEALTH_FAIL: the source stops (R503). -/
def execEntropyHealthFail (s : State) : Out := .next (State.logError { s with seedOn := false } 11 0 0 0 1 0 0)
/-- ENTROPY_PASS: the source passes again, and what waited is issued. -/
def execEntropyPass (s : State) : Out :=
  .next (
    let s := s.seedWaits.foldl (fun s w => s.seedGive w) { s with seedOn := true }
    s.seedHost.foldl (fun s b => s.seedAnswer b) { s with seedHost := [] })
/-- ABORT: a fallback of the context begins (R466, R497). No core failed: what the record would name is open (log 3). -/
def execAbort (slot : MailSlot) (s : State) : Out :=
  .next (
    let n := (s.slotWord slot 2).toNat
    match s.ctxs.find? (fun x => x.num = n) with
    | none => s.answer slot 0x10 []
    | some x =>
      if s.falls.any (fun f => f.ctx = some n) then s.answer slot 0x12 []
      else if !x.jobRun then s.answer slot 0x11 []
      else
        let w := fun i => Config.freeWord (s.fresh + i)
        ((s.fallback (some n) (s.fallWords (some n) (wb (w 0) 6 0) (wb (w 0) 14 8) (wb (w 0) 21 16) s.cyc (keep (w 1) 51 5) (w 2))).draw.draw.draw).answer
          slot 0 [])

/-! ### Start-up (R498, R499) -/

/-- The device resets and a start begins; FAILS and the cause of the last failure survive, and so do the fuses, the command
slots and the host's own memory. Device memory and the scratchpads keep their bytes until step 6 writes them. -/
def State.restart (s : State) : State :=
  { State.reset with
    mem := s.mem, poison := s.poison
    cores := s.cores.map fun c => { Core.reset with sp := c.sp, spBad := c.spBad }
    fresh := s.fresh, power := s.power, h2d := s.h2d, fused := s.fused, startFails := s.startFails, startWhy := s.startWhy, startMin := s.startMin
    startStep := if s.startMin then 0 else 1 }
/-- A start fails with a cause: the device starts again, or, after three, enters minimal mode. -/
def State.startFail (s : State) (why : Nat) : State :=
  let f := min (s.startFails.toNat + 1) 3
  let s : State := { s with startFails := BitVec.ofNat 2 f, startWhy := BitVec.ofNat 8 why }
  let step := s.startStep
  if f = 3 then { State.restart { s with startMin := true } with startStep := step } else s.restart
/-- The cause of a failure at a step other than 2 and 8. -/
def stepWhy (step : Nat) : Nat := if step = 1 then 1 else step + 1
/-- Step 6 of a start: every byte of device memory and of the scratchpads is zero, with good ECC (R498). -/
def State.zeroAll (s : State) : State :=
  { s with mem := s.mem.filter fun c => isHostAddr c.1, poison := s.poison.filter fun x => isHostAddr (64 * x)
           cores := s.cores.map fun c => { c with sp := [], spBad := [] } }
/-- A step of a start that needs nothing from outside is done, or it fails; step 4 trains the bridge (R397), step 6 zeroes the
memories. -/
def State.startOn (s : State) (ok : Bool) : State :=
  if s.startUp || s.startMin || s.startStep = 2 then s
  else if !ok then s.startFail (stepWhy s.startStep.toNat)
  else
    let n := s.startStep.toNat + 1
    if n = 8 then { s with startStep := 8, startUp := true, startFails := 0 }
    else if n = 5 then { s with startStep := 5, bridge := s.bridge.map fun p => { p with up := true } }
    else if n = 7 then { s.zeroAll with startStep := 7 }
    else { s with startStep := BitVec.ofNat 4 n }
/-- START_GO: in minimal mode, CLR comes first (R499). -/
def execStartGo (s : State) : Out := .next (if s.startMin then s else s.restart)
/-- START_CLR. -/
def execStartClr (s : State) : Out := .next { s with startFails := 0, startMin := false }
/-- FUNDAMENTAL_RESET: a start begins, from minimal mode too, where FAILS stands at 3 (R498; DESIGN CHOICE, log 4). -/
def execFundamentalReset (s : State) : Out := .next (State.restart { s with startMin := false })
/-- POWER_ON: FAILS is clear (R498). -/
def execPowerOn (s : State) : Out :=
  .next (State.restart { s with power := true, startFails := 0, startMin := false, startWhy := 0 })
/-- POWER_LOSS: every job ends and nothing is kept (R490). -/
def execPowerLoss (s : State) : Out :=
  .next { State.reset with mem := s.mem.filter (fun c => isHostAddr c.1), fresh := s.fresh, fused := s.fused, power := false }
/-- START_TIMEOUT: the start has not reached step 8 within 2 s. -/
def execStartTimeout (s : State) : Out := .next (if s.startUp || s.startMin then s else s.startFail 9)

/-! ### Firmware images and attestation (R500 to R502) -/

/-- What the check of an image comes to: a status of R497 other than 0, or its security version, COMMIT and digest. -/
def imageCheck (fused : Nat) (bs : List Byte) (poisoned : Bool) : Except Nat (Nat × Bool × BitVec 256) :=
  let h := fun (o n : Nat) => leWord ((bs.drop o).take n)
  let len := h 16 8
  let all := bs.take (256 + len)
  let body := all.drop 256
  let sig := bs.drop (256 + len)
  let headOk := h 0 4 = 0x39464B46 && h 4 4 = 1 && h 8 4 ≤ 255 && h 12 4 / 2 = 0 && h 64 192 = 0 && len % 4096 = 0 &&
    4096 ≤ len && len ≤ 64 * 2 ^ 20
  if poisoned then .error 3
  else if !headOk then .error 1
  else if bs.length ≠ 256 + len + 1280 then .error 3
  else if h 32 32 ≠ leWord (shake256 body) || !Config.falconVerify (shake256 all) sig Config.kolovKey then .error 1
  else if h 8 4 < fused then .error 2
  else .ok (h 8 4, h 12 1 % 2 = 1, BitVec.ofNat 256 (leWord (shake256 all)))
/-- LOAD: at step 2 of a start, or in minimal mode, an image of host memory is verified (R500, R501). Whether the fuses take
a raised version is open (log 3). -/
def execLoad (slot : MailSlot) (s : State) : Out :=
  .next (
    if !s.startMin && s.startStep ≠ 2 then s.answer slot 5 []
    else
      let n := (s.slotWord slot 3).toNat
      let a := (s.slotWord slot 2).toNat
      let pa := wb s.devid 9 0 * 2 ^ 42 + 2 ^ 41 + a
      let bs := Memory.getList s.mem pa n
      match imageCheck s.fused bs (s.poisoned pa n || decide (2 ^ 41 < a + n)) with
      | .error c =>
        if s.startMin || c = 3 then s.answer slot c []
        else (s.answer slot c []).startFail (c + 1)
      | .ok (svn, commit, dig) =>
        let s : State := { s with image := dig, svn := svn, startStep := if s.startMin then s.startStep else 3 }
        if !commit || svn ≤ s.fused then s.answer slot 0 []
        else if Config.pick s.fresh % 2 = 1 then s.draw.answer slot 4 []
        else (State.draw { s with fused := svn }).answer slot 0 [])
/-- What R502 says a report contains, in its order. -/
def State.reportOf (s : State) (nonce : List Byte) : List Byte :=
  let w := fun (x : Word) => bytesOf x.toNat 8
  let dig := fun (x : Word) => shake256 (w x)
  nonce ++ bytesOf s.image.toNat 32 ++ w (BitVec.ofNat 64 s.svn) ++ w s.devid ++ w (s.cread 0 false 0x240) ++
    w (BitVec.ofNat 64 s.fused) ++ w s.cyc ++ dig s.hw1base ++ dig s.rtbase ++
    (List.range 24).flatMap fun i => dig (s.port i).ctl
/-- ATTEST: a signed report of at most 2,016 bytes over the nonce (R502). -/
def execAttest (slot : MailSlot) (s : State) : Out :=
  .next (
    let nonce := (List.range 4).flatMap fun i => bytesOf (s.slotWord slot (2 + i)).toNat 8
    let r := (Config.attestReport (s.reportOf nonce)).take 2016
    s.answer slot 0 (BitVec.ofNat 64 r.length ::
      (List.range ((r.length + 7) / 8)).map fun i => BitVec.ofNat 64 (leWord ((r.drop (8 * i)).take 8))))

end Sys2Proof.Machine
end

