-- ==== Sys2Proof/Machine/Vector.lean ====
section
/-!
DEFINITION. Machine/Vector.lean: the V slots (05, R183 to R217): operands at issue, the cascade, and the result that
lands later. What each operation computes stands in Lanes.lean.
-/
namespace Sys2Proof.Machine

/-- The next n blocks of a stream's stochastic-rounding stream (R111, R135). -/
def State.srBlocks (s : State) (k : CoreId) (comp : Bool) (n : Nat) : List (BitVec 512) :=
  (List.range n).map fun i =>
    chacha8Block (keyWords (s.core k).srkey) (((s.strm k comp).srctr.toNat + i) % 2 ^ 64) (k.val + (if comp then 2 ^ 32 else 0))
/-- n blocks are consumed; a conversion that a fault suppresses consumes none (R111, R217). -/
def State.srUse (s : State) (k : CoreId) (comp : Bool) (n : Nat) : State :=
  if n = 0 then s else s.modStrm k comp fun t => { t with srctr := t.srctr + BitVec.ofNat 64 n }
/-- Lane i's draw from those blocks (R111). -/
def srLane (bs : List (BitVec 512)) (i : Nat) : Nat := (bs.getD (i / 32) 0).toNat / 2 ^ (16 * (i % 32)) % 2 ^ 16

/-- A result's destination: a v or o register, or a position of a stream, allotted now, whose row is written when the
result lands n instants after issue (R190, R237). The faults of a stream (R237) are raised here too, though R191 names no
memory cause of a V slot (DEDUCED, log 14). -/
def State.claimDst (s : State) (slot n : Nat) (d : VSel) : State × Option VDst :=
  if !d.isQ then (s, some (s.vDst d))
  else
    let k := d.toNat - 0x38
    match s.writeCause k 1 with
    | some c => (s.execTrap c.1 slot c.2, none)
    | none =>
      let u := s.cur.unit k
      let r := if u.kind = 1 then s.claimRow slot (u.addr u.next) n else (s, true)
      if r.2 then
        let a := r.1.allotQ k 1
        (a.1, some (.q k a.2))
      else (r.1, none)
/-- What a finished V slot puts in flight: a mask pair, or a row that enters the j file (R185, R201). -/
def VOp.result (op : VOp) (r : VRes) : Effect :=
  match op.dst with
  | .mask md => .mask md (BitVec.ofNat 128 r.data.toNat) r.en
  | d => .vec d r.data r.en (some op.stage)
/-- A V slot evaluated on its operands, with the lane of each cause. -/
def VOp.eval (op : VOp) (rb : List (BitVec 512)) (a b : Row) : VRes × List (Nat × Causes) :=
  (vEval op.kind op.w op.t op.m a b op.d (srLane rb), vCauses op.kind op.w op.t op.m a b op.d (srLane rb))
/-- Blocks that the stage consumes (R111). -/
def VOp.blocks (op : VOp) : Nat := op.kind.srBlocks op.w op.t

/-- A V slot at its issue: operands are read, streams advance, and the result goes in flight, or waits for the earlier
stage of the cascade (R184, R187, R190, R192). Of two conversions in SR mode in one bundle the lower slot draws first (log
14). -/
def State.vslot (s : State) (stage : Nat) (k : VKind) (h : VHdr) (d a b : VSel) : State :=
  let slot := 2 + stage
  let lat := vLatency stage k h.t
  let srcs := if k.readsB then [a, b] else [a]
  let qs := (srcs.filter VSel.isQ).map (fun r => r.toNat - 0x38)
  let bad := (qs.filterMap s.readCause).mergeSort (fun x y => x.1 ≤ y.1)
  let row := fun (r : VSel) => if r.isQ then s.readRow (r.toNat - 0x38) else s.v r
  let va := row a
  let vb := if k.readsB then row b else 0
  let vd := if k.readsDest then row d else 0
  let m := s.m h.m
  let up := s.upstream slot
  let cas := fun (r : VSel) => up.isSome && cascadeSel slot = some r
  let casA := cas a
  let casB := k.readsB && cas b
  let s := qs.foldl State.consumeQ s
  let op := fun (dst : VDst) =>
    { stage := stage, kind := k, w := h.w, t := h.t, m := m, a := va, b := vb, d := vd
      casA := casA, casB := casB, dst := dst : VOp }
  let lag := if casA || casB then (match up with | some e => e.lands.2 - s.me.inst | none => 0) else 0
  -- a suppressed slot feeds nothing to the stage that cascades from it (R217)
  let gone := fun (s : State) => s.later slot lag (.vop (op .gone) 0 none)
  let dst := fun (s : State) =>
    if k.isCmp then (s, some (VDst.mask (d.toNat % 16))) else s.claimDst slot (lag + lat) d
  match bad with
  | c :: _ => gone (s.meet slot c)
  | [] =>
    if casA || casB then
      match dst s with
      | (s, none) => gone s
      | (s, some x) => s.later slot lag (.vop (op x) (slot - 1) none)
    else
      let n := k.srBlocks h.w h.t
      let r := (op (.mask 0)).eval (s.srBlocks s.focus.1 s.focus.2 n) va vb
      let en := r.1.fl &&& s.me.axen
      let s := s.arith slot r.1.fl (causeLane r.2 (lowestCause en)) fun s =>
        match dst s with
        | (s, none) => gone s
        | (s, some x) => (s.srUse s.focus.1 s.focus.2 n).later slot lat ((op x).result r.1)
      if en = 0 then s else gone s

/-- VADD_V0 (R195). -/
def execVaddV0 (h : VHdr) (d : VSel) (a : VSel) (b : VSel) (s : State) : Out :=
  .next (runSlot (.vaddV0 h d a b) s fun s => s.vslot 0 .add h d a b)
/-- VADD_V1 (R195). -/
def execVaddV1 (h : VHdr) (d : VSel) (a : VSel) (b : VSel) (s : State) : Out :=
  .next (runSlot (.vaddV1 h d a b) s fun s => s.vslot 1 .add h d a b)
/-- VADD_V2 (R195). -/
def execVaddV2 (h : VHdr) (d : VSel) (a : VSel) (b : VSel) (s : State) : Out :=
  .next (runSlot (.vaddV2 h d a b) s fun s => s.vslot 2 .add h d a b)
/-- VSUB_V0 (R195). -/
def execVsubV0 (h : VHdr) (d : VSel) (a : VSel) (b : VSel) (s : State) : Out :=
  .next (runSlot (.vsubV0 h d a b) s fun s => s.vslot 0 .sub h d a b)
/-- VSUB_V1 (R195). -/
def execVsubV1 (h : VHdr) (d : VSel) (a : VSel) (b : VSel) (s : State) : Out :=
  .next (runSlot (.vsubV1 h d a b) s fun s => s.vslot 1 .sub h d a b)
/-- VSUB_V2 (R195). -/
def execVsubV2 (h : VHdr) (d : VSel) (a : VSel) (b : VSel) (s : State) : Out :=
  .next (runSlot (.vsubV2 h d a b) s fun s => s.vslot 2 .sub h d a b)
/-- VMUL_V0 (R195). -/
def execVmulV0 (h : VHdr) (d : VSel) (a : VSel) (b : VSel) (s : State) : Out :=
  .next (runSlot (.vmulV0 h d a b) s fun s => s.vslot 0 .mul h d a b)
/-- VMUL_V1 (R195). -/
def execVmulV1 (h : VHdr) (d : VSel) (a : VSel) (b : VSel) (s : State) : Out :=
  .next (runSlot (.vmulV1 h d a b) s fun s => s.vslot 1 .mul h d a b)
/-- VMUL_V2 (R195). -/
def execVmulV2 (h : VHdr) (d : VSel) (a : VSel) (b : VSel) (s : State) : Out :=
  .next (runSlot (.vmulV2 h d a b) s fun s => s.vslot 2 .mul h d a b)
/-- VFMA_V0 (R196). -/
def execVfmaV0 (h : VHdr) (d : VSel) (a : VSel) (b : VSel) (s : State) : Out :=
  .next (runSlot (.vfmaV0 h d a b) s fun s => s.vslot 0 .fma h d a b)
/-- VFMA_V1 (R196). -/
def execVfmaV1 (h : VHdr) (d : VSel) (a : VSel) (b : VSel) (s : State) : Out :=
  .next (runSlot (.vfmaV1 h d a b) s fun s => s.vslot 1 .fma h d a b)
/-- VFMA_V2 (R196). -/
def execVfmaV2 (h : VHdr) (d : VSel) (a : VSel) (b : VSel) (s : State) : Out :=
  .next (runSlot (.vfmaV2 h d a b) s fun s => s.vslot 2 .fma h d a b)
/-- VFMS_V0 (R196). -/
def execVfmsV0 (h : VHdr) (d : VSel) (a : VSel) (b : VSel) (s : State) : Out :=
  .next (runSlot (.vfmsV0 h d a b) s fun s => s.vslot 0 .fms h d a b)
/-- VFMS_V1 (R196). -/
def execVfmsV1 (h : VHdr) (d : VSel) (a : VSel) (b : VSel) (s : State) : Out :=
  .next (runSlot (.vfmsV1 h d a b) s fun s => s.vslot 1 .fms h d a b)
/-- VMIN_V0 (R197). -/
def execVminV0 (h : VHdr) (d : VSel) (a : VSel) (b : VSel) (s : State) : Out :=
  .next (runSlot (.vminV0 h d a b) s fun s => s.vslot 0 .min h d a b)
/-- VMIN_V1 (R197). -/
def execVminV1 (h : VHdr) (d : VSel) (a : VSel) (b : VSel) (s : State) : Out :=
  .next (runSlot (.vminV1 h d a b) s fun s => s.vslot 1 .min h d a b)
/-- VMIN_V2 (R197). -/
def execVminV2 (h : VHdr) (d : VSel) (a : VSel) (b : VSel) (s : State) : Out :=
  .next (runSlot (.vminV2 h d a b) s fun s => s.vslot 2 .min h d a b)
/-- VMAX_V0 (R197). -/
def execVmaxV0 (h : VHdr) (d : VSel) (a : VSel) (b : VSel) (s : State) : Out :=
  .next (runSlot (.vmaxV0 h d a b) s fun s => s.vslot 0 .max h d a b)
/-- VMAX_V1 (R197). -/
def execVmaxV1 (h : VHdr) (d : VSel) (a : VSel) (b : VSel) (s : State) : Out :=
  .next (runSlot (.vmaxV1 h d a b) s fun s => s.vslot 1 .max h d a b)
/-- VMAX_V2 (R197). -/
def execVmaxV2 (h : VHdr) (d : VSel) (a : VSel) (b : VSel) (s : State) : Out :=
  .next (runSlot (.vmaxV2 h d a b) s fun s => s.vslot 2 .max h d a b)
/-- VMINU_V0 (R197). -/
def execVminuV0 (h : VHdr) (d : VSel) (a : VSel) (b : VSel) (s : State) : Out :=
  .next (runSlot (.vminuV0 h d a b) s fun s => s.vslot 0 .minu h d a b)
/-- VMINU_V1 (R197). -/
def execVminuV1 (h : VHdr) (d : VSel) (a : VSel) (b : VSel) (s : State) : Out :=
  .next (runSlot (.vminuV1 h d a b) s fun s => s.vslot 1 .minu h d a b)
/-- VMAXU_V0 (R197). -/
def execVmaxuV0 (h : VHdr) (d : VSel) (a : VSel) (b : VSel) (s : State) : Out :=
  .next (runSlot (.vmaxuV0 h d a b) s fun s => s.vslot 0 .maxu h d a b)
/-- VMAXU_V1 (R197). -/
def execVmaxuV1 (h : VHdr) (d : VSel) (a : VSel) (b : VSel) (s : State) : Out :=
  .next (runSlot (.vmaxuV1 h d a b) s fun s => s.vslot 1 .maxu h d a b)
/-- VAND_V0 (R198). -/
def execVandV0 (h : VHdr) (d : VSel) (a : VSel) (b : VSel) (s : State) : Out :=
  .next (runSlot (.vandV0 h d a b) s fun s => s.vslot 0 .and h d a b)
/-- VAND_V1 (R198). -/
def execVandV1 (h : VHdr) (d : VSel) (a : VSel) (b : VSel) (s : State) : Out :=
  .next (runSlot (.vandV1 h d a b) s fun s => s.vslot 1 .and h d a b)
/-- VOR_V0 (R198). -/
def execVorV0 (h : VHdr) (d : VSel) (a : VSel) (b : VSel) (s : State) : Out :=
  .next (runSlot (.vorV0 h d a b) s fun s => s.vslot 0 .or h d a b)
/-- VOR_V1 (R198). -/
def execVorV1 (h : VHdr) (d : VSel) (a : VSel) (b : VSel) (s : State) : Out :=
  .next (runSlot (.vorV1 h d a b) s fun s => s.vslot 1 .or h d a b)
/-- VXOR_V0 (R198). -/
def execVxorV0 (h : VHdr) (d : VSel) (a : VSel) (b : VSel) (s : State) : Out :=
  .next (runSlot (.vxorV0 h d a b) s fun s => s.vslot 0 .xor h d a b)
/-- VXOR_V1 (R198). -/
def execVxorV1 (h : VHdr) (d : VSel) (a : VSel) (b : VSel) (s : State) : Out :=
  .next (runSlot (.vxorV1 h d a b) s fun s => s.vslot 1 .xor h d a b)
/-- VANDN (R198). -/
def execVandn (h : VHdr) (d : VSel) (a : VSel) (b : VSel) (s : State) : Out :=
  .next (runSlot (.vandn h d a b) s fun s => s.vslot 0 .andn h d a b)
/-- VSHL (R199). -/
def execVshl (h : VHdr) (d : VSel) (a : VSel) (b : VSel) (s : State) : Out :=
  .next (runSlot (.vshl h d a b) s fun s => s.vslot 0 .shl h d a b)
/-- VSHR (R199). -/
def execVshr (h : VHdr) (d : VSel) (a : VSel) (b : VSel) (s : State) : Out :=
  .next (runSlot (.vshr h d a b) s fun s => s.vslot 0 .shr h d a b)
/-- VSRA (R199). -/
def execVsra (h : VHdr) (d : VSel) (a : VSel) (b : VSel) (s : State) : Out :=
  .next (runSlot (.vsra h d a b) s fun s => s.vslot 0 .sra h d a b)
/-- VABS_V0 (R200). -/
def execVabsV0 (h : VHdr) (d : VSel) (a : VSel) (s : State) : Out :=
  .next (runSlot (.vabsV0 h d a) s fun s => s.vslot 0 .abs h d a 0)
/-- VABS_V1 (R200). -/
def execVabsV1 (h : VHdr) (d : VSel) (a : VSel) (s : State) : Out :=
  .next (runSlot (.vabsV1 h d a) s fun s => s.vslot 1 .abs h d a 0)
/-- VNEG_V0 (R200). -/
def execVnegV0 (h : VHdr) (d : VSel) (a : VSel) (s : State) : Out :=
  .next (runSlot (.vnegV0 h d a) s fun s => s.vslot 0 .neg h d a 0)
/-- VNEG_V1 (R200). -/
def execVnegV1 (h : VHdr) (d : VSel) (a : VSel) (s : State) : Out :=
  .next (runSlot (.vnegV1 h d a) s fun s => s.vslot 1 .neg h d a 0)
/-- VMOV_V0 (R200). -/
def execVmovV0 (h : VHdr) (d : VSel) (a : VSel) (s : State) : Out :=
  .next (runSlot (.vmovV0 h d a) s fun s => s.vslot 0 .mov h d a 0)
/-- VMOV_V1 (R200). -/
def execVmovV1 (h : VHdr) (d : VSel) (a : VSel) (s : State) : Out :=
  .next (runSlot (.vmovV1 h d a) s fun s => s.vslot 1 .mov h d a 0)
/-- VMOV_V2 (R200). -/
def execVmovV2 (h : VHdr) (d : VSel) (a : VSel) (s : State) : Out :=
  .next (runSlot (.vmovV2 h d a) s fun s => s.vslot 2 .mov h d a 0)
/-- VCMPEQ_V0 (R201). -/
def execVcmpeqV0 (h : VHdr) (md : MReg) (a : VSel) (b : VSel) (s : State) : Out :=
  .next (runSlot (.vcmpeqV0 h md a b) s fun s => s.vslot 0 (.cmp .eq) h (md.setWidth 6) a b)
/-- VCMPEQ_V1 (R201). -/
def execVcmpeqV1 (h : VHdr) (md : MReg) (a : VSel) (b : VSel) (s : State) : Out :=
  .next (runSlot (.vcmpeqV1 h md a b) s fun s => s.vslot 1 (.cmp .eq) h (md.setWidth 6) a b)
/-- VCMPEQ_V2 (R201). -/
def execVcmpeqV2 (h : VHdr) (md : MReg) (a : VSel) (b : VSel) (s : State) : Out :=
  .next (runSlot (.vcmpeqV2 h md a b) s fun s => s.vslot 2 (.cmp .eq) h (md.setWidth 6) a b)
/-- VCMPLT_V0 (R201). -/
def execVcmpltV0 (h : VHdr) (md : MReg) (a : VSel) (b : VSel) (s : State) : Out :=
  .next (runSlot (.vcmpltV0 h md a b) s fun s => s.vslot 0 (.cmp .lt) h (md.setWidth 6) a b)
/-- VCMPLT_V1 (R201). -/
def execVcmpltV1 (h : VHdr) (md : MReg) (a : VSel) (b : VSel) (s : State) : Out :=
  .next (runSlot (.vcmpltV1 h md a b) s fun s => s.vslot 1 (.cmp .lt) h (md.setWidth 6) a b)
/-- VCMPLT_V2 (R201). -/
def execVcmpltV2 (h : VHdr) (md : MReg) (a : VSel) (b : VSel) (s : State) : Out :=
  .next (runSlot (.vcmpltV2 h md a b) s fun s => s.vslot 2 (.cmp .lt) h (md.setWidth 6) a b)
/-- VCMPLE_V0 (R201). -/
def execVcmpleV0 (h : VHdr) (md : MReg) (a : VSel) (b : VSel) (s : State) : Out :=
  .next (runSlot (.vcmpleV0 h md a b) s fun s => s.vslot 0 (.cmp .le) h (md.setWidth 6) a b)
/-- VCMPLE_V1 (R201). -/
def execVcmpleV1 (h : VHdr) (md : MReg) (a : VSel) (b : VSel) (s : State) : Out :=
  .next (runSlot (.vcmpleV1 h md a b) s fun s => s.vslot 1 (.cmp .le) h (md.setWidth 6) a b)
/-- VSEL_V0 (R202). -/
def execVselV0 (h : VHdr) (d : VSel) (a : VSel) (b : VSel) (s : State) : Out :=
  .next (runSlot (.vselV0 h d a b) s fun s => s.vslot 0 .sel h d a b)
/-- VSEL_V1 (R202). -/
def execVselV1 (h : VHdr) (d : VSel) (a : VSel) (b : VSel) (s : State) : Out :=
  .next (runSlot (.vselV1 h d a b) s fun s => s.vslot 1 .sel h d a b)
/-- VSEL_V2 (R202). -/
def execVselV2 (h : VHdr) (d : VSel) (a : VSel) (b : VSel) (s : State) : Out :=
  .next (runSlot (.vselV2 h d a b) s fun s => s.vslot 2 .sel h d a b)
/-- VCLAMP (R203). -/
def execVclamp (h : VHdr) (d : VSel) (a : VSel) (b : VSel) (s : State) : Out :=
  .next (runSlot (.vclamp h d a b) s fun s => s.vslot 1 .clamp h d a b)
/-- VCVT_V0 (R204). -/
def execVcvtV0 (h : VHdr) (d : VSel) (a : VSel) (rm : VRm) (fr : VType) (s : State) : Out :=
  .next (runSlot (.vcvtV0 h d a rm fr) s fun s => s.vslot 0 (.cvt rm fr) h d a 0)
/-- VCVT_V1 (R204). -/
def execVcvtV1 (h : VHdr) (d : VSel) (a : VSel) (rm : VRm) (fr : VType) (s : State) : Out :=
  .next (runSlot (.vcvtV1 h d a rm fr) s fun s => s.vslot 1 (.cvt rm fr) h d a 0)
/-- VCVT_V2 (R204). -/
def execVcvtV2 (h : VHdr) (d : VSel) (a : VSel) (rm : VRm) (fr : VType) (s : State) : Out :=
  .next (runSlot (.vcvtV2 h d a rm fr) s fun s => s.vslot 2 (.cvt rm fr) h d a 0)
/-- VRND (R205). -/
def execVrnd (h : VHdr) (d : VSel) (a : VSel) (rm : Rm) (s : State) : Out :=
  .next (runSlot (.vrnd h d a rm) s fun s => s.vslot 1 (.rnd rm) h d a 0)
/-- VLDEXP (R206). -/
def execVldexp (h : VHdr) (d : VSel) (a : VSel) (b : VSel) (s : State) : Out :=
  .next (runSlot (.vldexp h d a b) s fun s => s.vslot 2 .ldexp h d a b)
/-- VEXPO (R207). -/
def execVexpo (h : VHdr) (d : VSel) (a : VSel) (s : State) : Out :=
  .next (runSlot (.vexpo h d a) s fun s => s.vslot 0 .expo h d a 0)
/-- VMAXEXP (R208). -/
def execVmaxexp (h : VHdr) (d : VSel) (a : VSel) (s : State) : Out :=
  .next (runSlot (.vmaxexp h d a) s fun s => s.vslot 1 .maxexp h d a 0)
/-- VSHUF (R209). -/
def execVshuf (h : VHdr) (d : VSel) (a : VSel) (b : VSel) (s : State) : Out :=
  .next (runSlot (.vshuf h d a b) s fun s => s.vslot 0 .shuf h d a b)
/-- VROTL (R209). -/
def execVrotl (h : VHdr) (d : VSel) (a : VSel) (k : BitVec 6) (s : State) : Out :=
  .next (runSlot (.vrotl h d a k) s fun s => s.vslot 0 (.rotl k.toNat) h d a 0)
/-- VBCL (R209). -/
def execVbcl (h : VHdr) (d : VSel) (a : VSel) (k : BitVec 6) (s : State) : Out :=
  .next (runSlot (.vbcl h d a k) s fun s => s.vslot 0 (.bcl k.toNat) h d a 0)
/-- VPACK (R210). -/
def execVpack (h : VHdr) (d : VSel) (a : VSel) (b : VSel) (s : State) : Out :=
  .next (runSlot (.vpack h d a b) s fun s => s.vslot 0 .pack h d a b)
/-- VUNPK (R211). -/
def execVunpk (h : VHdr) (d : VSel) (a : VSel) (hi : Bool) (zx : Bool) (s : State) : Out :=
  .next (runSlot (.vunpk h d a hi zx) s fun s => s.vslot 0 (.unpk hi zx) h d a 0)
/-- VRADD_V1 (R212). -/
def execVraddV1 (h : VHdr) (d : VSel) (a : VSel) (s : State) : Out :=
  .next (runSlot (.vraddV1 h d a) s fun s => s.vslot 1 .radd h d a 0)
/-- VRADD_V2 (R212). -/
def execVraddV2 (h : VHdr) (d : VSel) (a : VSel) (s : State) : Out :=
  .next (runSlot (.vraddV2 h d a) s fun s => s.vslot 2 .radd h d a 0)
/-- VRMAX_V1 (R212). -/
def execVrmaxV1 (h : VHdr) (d : VSel) (a : VSel) (s : State) : Out :=
  .next (runSlot (.vrmaxV1 h d a) s fun s => s.vslot 1 .rmax h d a 0)
/-- VRMAX_V2 (R212). -/
def execVrmaxV2 (h : VHdr) (d : VSel) (a : VSel) (s : State) : Out :=
  .next (runSlot (.vrmaxV2 h d a) s fun s => s.vslot 2 .rmax h d a 0)
/-- VRMIN (R212). -/
def execVrmin (h : VHdr) (d : VSel) (a : VSel) (s : State) : Out :=
  .next (runSlot (.vrmin h d a) s fun s => s.vslot 1 .rmin h d a 0)
/-- VSCAN (R213). -/
def execVscan (h : VHdr) (d : VSel) (a : VSel) (op : ScanOp) (s : State) : Out :=
  .next (runSlot (.vscan h d a op) s fun s => s.vslot 1 (.scan op) h d a 0)
/-- VEXP2 (R214). -/
def execVexp2 (h : VHdr) (d : VSel) (a : VSel) (s : State) : Out :=
  .next (runSlot (.vexp2 h d a) s fun s => s.vslot 2 (.sp .exp2) h d a 0)
/-- VLOG2 (R214). -/
def execVlog2 (h : VHdr) (d : VSel) (a : VSel) (s : State) : Out :=
  .next (runSlot (.vlog2 h d a) s fun s => s.vslot 2 (.sp .log2) h d a 0)
/-- VRCP (R214). -/
def execVrcp (h : VHdr) (d : VSel) (a : VSel) (s : State) : Out :=
  .next (runSlot (.vrcp h d a) s fun s => s.vslot 2 (.sp .rcp) h d a 0)
/-- VRSQ (R214). -/
def execVrsq (h : VHdr) (d : VSel) (a : VSel) (s : State) : Out :=
  .next (runSlot (.vrsq h d a) s fun s => s.vslot 2 (.sp .rsq) h d a 0)
/-- VSQRT (R214). -/
def execVsqrt (h : VHdr) (d : VSel) (a : VSel) (s : State) : Out :=
  .next (runSlot (.vsqrt h d a) s fun s => s.vslot 2 (.sp .sqrt) h d a 0)
/-- VTANH (R214). -/
def execVtanh (h : VHdr) (d : VSel) (a : VSel) (s : State) : Out :=
  .next (runSlot (.vtanh h d a) s fun s => s.vslot 2 (.sp .tanh) h d a 0)
/-- VSIGM (R214). -/
def execVsigm (h : VHdr) (d : VSel) (a : VSel) (s : State) : Out :=
  .next (runSlot (.vsigm h d a) s fun s => s.vslot 2 (.sp .sigm) h d a 0)
/-- VSIN (R214). -/
def execVsin (h : VHdr) (d : VSel) (a : VSel) (s : State) : Out :=
  .next (runSlot (.vsin h d a) s fun s => s.vslot 2 (.sp .sin) h d a 0)
/-- VCOS (R214). -/
def execVcos (h : VHdr) (d : VSel) (a : VSel) (s : State) : Out :=
  .next (runSlot (.vcos h d a) s fun s => s.vslot 2 (.sp .cos) h d a 0)
/-- VERF (R214). -/
def execVerf (h : VHdr) (d : VSel) (a : VSel) (s : State) : Out :=
  .next (runSlot (.verf h d a) s fun s => s.vslot 2 (.sp .erf) h d a 0)

end Sys2Proof.Machine
end

