-- ==== Sys2Proof/Machine/Landing.lean ====
section
/-!
DEFINITION. Machine/Landing.lean: results, accesses and changes in flight that take effect at the present instant of a core's
streams (R65, R66, R184, R185, R192, R220, R237, R284, R285, R294, R295).
-/
namespace Sys2Proof.Machine

/-! ### Rows to their destinations -/

/-- The bytes that the mask enables come from the new row (R184). -/
def mergeRow (old new : Row) (en : Mask) : Row :=
  let b := BitVec.ofNat 1024 ((List.range 128).foldr (fun i x => (if en.getLsbD i then 255 else 0) + 256 * x) 0)
  (old &&& ~~~b) ||| (new &&& b)
/-- A scratchpad row that a stream of core k writes; a write of the primary enters the signature of its slice (R471). -/
def State.landRow (s : State) (k : CoreId) (comp : Bool) (e : Pend) (row : Nat) (d : Row) (en : Mask) (whole : Bool) : State :=
  (if comp then s else s.sign k e.iss e.slot 0 (row * 128) en d).modCore k (·.spWrite row d en whole)
/-- A row enters the egress buffer: after those that landed before it, and of those of its cycle in slot order (R455). -/
def State.hold (s : State) (k : CoreId) (h : Held) : State :=
  let later := fun (x : Held) => x.inst = h.inst && decide (h.slot < x.slot)
  s.modCore k fun c => { c with seg := { c.seg with
    held := c.seg.held.takeWhile (fun x => !later x) ++ h :: c.seg.held.dropWhile (fun x => !later x) } }
/-- A row that entry e writes to position pos of write stream q (R237, R455): to the scratchpad; or to its ring row, and on to
the egress buffer or to its home. -/
def State.landStream (s : State) (k : CoreId) (e : Pend) (q pos : Nat) (r : Row) : State :=
  let iss := e.iss
  let u := (s.core k).unitAt q iss
  let all : Mask := BitVec.allOnes 128
  if !u.bound then s
  else if u.kind = 1 then s.landRow k false e (u.addr pos / 128) r all true
  else
    let s := s.modCore k (·.spWrite (u.ringRow pos) r all true)
    let a := u.addr pos / 128 * 128
    match s.timedXlate k a 2 with
    | .error _ => s
    | .ok pa =>
      let h : Held := { isTq := false, k := q, pos := pos, row := r, gen := u.gen, addr := a, lead := u.lead, pa := pa, op := u.redOp
                       , slot := e.slot, iss := iss, inst := (s.core k).prim.inst }
      if (s.core k).inSegment iss then s.hold k h
      else if (s.core k).alreadySent iss then s.sign k iss e.slot 1 a all r
      else s.sendRow k h
/-- A row that entry e writes to outbound endpoint q (R413, R455). One that was sent before a rewind has the number that it had. -/
def State.landTq (s : State) (k : CoreId) (e : Pend) (q : Nat) (r : Row) : State :=
  if (s.core k).inSegment e.iss then
    s.hold k { isTq := true, k := q, pos := 0, row := r, gen := 0, addr := 0, lead := 0, pa := 0, op := 0
               , slot := e.slot, iss := e.iss, inst := (s.core k).prim.inst }
  else if (s.core k).alreadySent e.iss then
    let n := ((s.core k).seg.snap.elim [] (·.reads)).getD q 0
    (s.sign k e.iss e.slot 2 (((s.core k).tqAt q).bind.toNat % 2 ^ 32 + n % 2 ^ 16 * 2 ^ 32) (BitVec.allOnes 128) r).modCore k fun c =>
      { c with seg := { c.seg with snap := c.seg.snap.map fun sn => { sn with reads := sn.reads.set q (n + 1) } } }
  else s.tqWrite k q e.iss e.slot r

/-! ### Vector results and the cascade (R184, R185, R187, R192) -/

/-- The value of a vector destination once a result has been merged into it. -/
def Strm.merged (t : Strm) (d : VDst) (r : Row) (en : Mask) : Row :=
  match d with
  | .v n => mergeRow (rd t.v n 0) r en
  | .o n => mergeRow (rd t.o n 0) r en
  | _ => mergeRow 0 r en
def Strm.putV (t : Strm) (d : VDst) (r : Row) : Strm :=
  match d with
  | .v n => { t with v := wr t.v n r }
  | .o n => { t with o := wr t.o n r }
  | _ => t
/-- A later stage of the same bundle takes the result as its operand. -/
def Pend.feedOn (iss slot : Nat) (r : Row) (e : Pend) : Pend :=
  match e.eff with
  | .vop op src _ => if e.iss = iss ∧ src = slot then { e with eff := .vop op src (some r) } else e
  | _ => e
/-- A row result lands. One that goes to a stream enters the last-result file after that, in its turn among the results of the
instant (R185). -/
def State.landVec (s : State) (k : CoreId) (comp : Bool) (e : Pend) (d : VDst) (r : Row) (en : Mask) (j : Option Nat) : State :=
  let x := (s.strm k comp).merged d r en
  match d with
  | .q q pos => (s.modStrm k comp fun t => { t with pend := t.pend ++ [{ e with eff := .vec .gone x (BitVec.allOnes 128) j }] }).landStream k e q pos x
  | _ => s.modStrm k comp fun t =>
    let t := { t.putV d x with pend := t.pend.map (Pend.feedOn e.iss e.slot x) }
    match j with
    | some n => if comp then t else t.enterJ n x
    | none => t
/-- A cascaded stage executes: its causes are determined now, an enabled one in the deferred class, and a conversion in SR mode
draws now (R192, R217). One whose operand was suppressed is suppressed with it. -/
def State.landVop (s : State) (k : CoreId) (comp : Bool) (e : Pend) (op : VOp) (x : Option Row) : State :=
  match x with
  | none => s
  | some x =>
    let r := op.eval (s.srBlocks k comp op.blocks) (if op.casA then x else op.a) (if op.casB then x else op.b)
    let s := if r.1.fl = 0 then s else s.modStrm k comp fun t => { t with axflag := t.axflag ||| r.1.fl }
    let en := r.1.fl &&& (s.strm k comp).axen
    if en ≠ 0 then
      s.deferTrap k comp e.iss (0x10 + lowestCause en) e.slot (fields [(e.pc.toNat, 0, 52), (causeLane r.2 (lowestCause en), 56, 7)])
    else (s.srUse k comp op.blocks).modStrm k comp fun t =>
      { t with pend := t.pend ++ [{ e with due := e.due + vLatency op.stage op.kind op.t, eff := op.result r.1 }] }
/-- A mask pair: the result and its complement in the lanes that the mask enables (R201). -/
def Strm.putMasks (t : Strm) (md : Nat) (r en : Mask) : Strm :=
  (t.setM md ((rd t.m md 0 &&& ~~~en) ||| (r &&& en))).setM (md + 1) ((rd t.m (md + 1) 0 &&& ~~~en) ||| (~~~r &&& en))

/-! ### Drains (R284, R285, R294, R295) -/

/-- A drained row at d+9. -/
def State.landDrain (s : State) (k : CoreId) (e : Pend) (o : DrainOut) : State :=
  let was := (s.core k).mx.off
  let s := s.modCore k fun c => { c with mx := c.mx.account o.corr o.uncorr }
  let s := o.corr.foldl (fun s ch =>
    let s : State := { s with health := { s.health with rmis := wr s.health.rmis k.val (rd s.health.rmis k.val 0 + 1) } }
    s.logError 2 k.val ch 0 1 0 0) s
  -- firmware sees a core that goes offline in the error log (R298)
  let s := if (s.core k).mx.off && !was then s.logError 2 k.val 0 0x32 (s.core k).mx.ucnt 0 0 else s
  if o.uncorr then s.deferTrap k false e.iss 0x31 5 (e.pc.setWidth 64)
  else if o.carry then s
  else
    let s := if o.fl = 0 then s else s.modStrm k false fun t => { t with axflag := t.axflag ||| o.fl }
    match o.dkind with
    | 0 => o.data.zipIdx.foldl (fun s d => s.landStream k e o.dnum (o.pos + d.2) d.1) s
    | 1 => (o.rows.zip o.data).foldl (fun s d => s.landRow k false e d.1 d.2 (BitVec.allOnes 128) true) s
    | 2 => o.data.foldl (fun s d => s.landTq k e o.dnum d) s
    | _ => s

/-! ### One entry -/

/-- The effect of an entry takes place. -/
def State.landEff (s : State) (k : CoreId) (comp : Bool) (e : Pend) : State :=
  let ms := s.modStrm k comp
  let mc := s.modCore k
  let seq := s.asCtx (s.core k).ctx
  let mx := fun (f : Matrix → Matrix) => s.modCore k fun c => { c with mx := f c.mx }
  match e.eff with
  | .x sh r v => ms (·.setX sh r v)
  | .p sh r v => ms (·.setP sh r v)
  | .vec d r en j => s.landVec k comp e d r en j
  | .vop op _ x => s.landVop k comp e op x
  | .mask md r en => ms (·.putMasks md r en)
  | .rowRead row xf d =>
    if (s.core k).spBad.contains row then s.poisonAt k comp e.slot e.iss e.iss e.pc
    else
      let r := xf.apply ((s.core k).spRow row)
      ms fun t => { t with pend := t.pend ++ [{ e with due := e.due + 4, eff := .vec d r (BitVec.allOnes 128) (some 3) }] }
  | .rowWrite a d en whole => s.landRow k comp e (a / 128) d en whole
  | .wrc n v => s.cwrite k comp n.toNat v
  | .loop l ps => mc fun c => { c with loop := l, prim := ps.foldl (fun t p => t.setP false p.1 p.2) c.prim }
  | .bufState i b => s.modCluster (clusterOf k) fun u => { u with bufs := wr u.bufs i b }
  | .sbind q a => s.bindStream k q a e.iss e.pc
  | .sfree q => s.freeStream k q
  | .greg n vs tag => mx fun m => { m with g := wr m.g n { vals := Vector.ofFn fun i => vs.getD i.val 0, tag := tag } }
  | .xmaskRow i v => mx fun m => { m with mask := wr m.mask i v }
  | .xmaskFill => mx fun m => { m with mask := Vector.replicate 128 (BitVec.allOnes 128), mvalid := true }
  | .xmaskInv => mx fun m => { m with mvalid := false }
  | .xcfg b w => mx (·.configured b w)
  | .beat b clear fa fb => mx fun m => m.modBank b (·.beat clear fa fb)
  | .xclear b => mx fun m => m.modBank b Bank.clear
  | .drain o => s.landDrain k e o
  | .tqbind w => s.tqBindNow k w
  | .tqflush q => s.tqFlushNow k q
  | .lnch start xd a => seq (·.lnchLand k e start xd a)
  | .tile l => mc fun c => c.enterTile l e.pc
  | .commit n => s.commitHeld k n
  | .canc level x => seq (·.cancLand level x)
  | .fix => seq State.fixSelection
  | .hcval sh r =>
    let v := (s.ctxView (s.core k).ctx).hcval (s.strm k comp).hcsel
    (s.auditRes k comp e.iss e.slot v).modStrm k comp (·.setX sh r v)
  | .unshade => mc fun c => { c with inh := false }
  | .jsub a xd cy => seq (·.jsubLand k comp e a xd cy)
  | .jcan n => s.jcanLand k n
  | .barq b xd =>
    let v := rd (s.core k).bars b 0
    ms fun t => match xd with | some r => t.land comp r (v.setWidth 1024) | none => t
  | .nmsub a xd cy => s.nmsubLand k comp e a xd cy
  | .nmfn t xd => s.nmfnLand k e t xd
  | .smpsub a xd cy => seq (·.smpsubLand k comp e a xd cy)
  | .barm b add ui v => mc fun c => { c with bars := wr c.bars b ((Bar.ofWord (rd c.bars b 0)).armed add ui (wb v 35 0)).word }
  | .uien v => mc fun c => { c with uien := v }
  | .phsel b => seq (·.phselLand b)
  | .phld b va n => seq (·.phldLand k b va n)

/-! ### What a replay must not do again (R454, R455) -/

/-- An effect outside the core, made once even when a segment that carries it rewinds. -/
def Effect.once : Effect → Bool
  | .jsub _ _ _ | .jcan _ | .barq _ _ | .nmsub _ _ _ | .nmfn _ _ | .smpsub _ _ _ | .barm _ _ _ _ | .uien _ | .phld _ _ _ | .canc _ _
  | .tqbind _ | .tqflush _ | .bufState _ _ => true
  | _ => false
/-- The snapshot as it stands once an entry that it holds has landed: what was done once leaves its results alone. A row that it has
sent lands again in the replay, and is not sent again (`Core.alreadySent`). -/
def Snapshot.landed (sn : Snapshot) (e : Pend) (results : List Pend) : Snapshot :=
  if sn.inst ≤ e.iss || !e.eff.once || !sn.pend.contains e then sn
  else { sn with pend := sn.pend.erase e ++ results }
/-- One entry of a stream lands. -/
def State.landOne (s : State) (k : CoreId) (comp : Bool) (e : Pend) : State :=
  let s := s.modStrm k comp fun t => { t with pend := t.pend.erase e }
  let old := (s.strm k comp).pend
  let s := s.landEff k comp e
  if comp then s
  else s.modCore k fun c => match c.seg.snap with
    | none => c
    | some sn => { c with seg := { c.seg with snap := some (sn.landed e (c.prim.pend.filter fun p => !old.contains p)) } }

/-! ### The entries of one instant -/

/-- The order of effects within one cycle: held rows go first and barriers are armed (R322); writes precede reads (R220); then
what is submitted; then every result reaches its register, whatever brings it, so that the order of issue decides between two
(R66, R101); last what takes such a result: a cascaded stage, a tile, the fix of a selection. -/
def Effect.rank : Effect → Nat
  | .commit _ | .unshade | .barm _ _ _ _ => 0
  | .rowWrite _ _ _ _ | .vec (.q _ _) _ _ _ | .drain _ => 1
  | .rowRead _ _ _ | .sbind _ _ | .lnch _ _ _ | .jsub _ _ _ | .nmsub _ _ _ | .smpsub _ _ _ => 3
  | .x _ _ _ | .p _ _ _ | .vec _ _ _ _ | .mask _ _ _ | .loop _ _ | .hcval _ _ | .barq _ _ => 4
  | .vop _ _ _ | .tile _ | .fix => 5
  | _ => 2
/-- Entry a goes before entry b: by rank; the companion's before the primary's, but of submissions the primary's first (R307);
then in order of issue and by slot. -/
def goesBefore (a b : Bool × Pend) : Bool :=
  let ra := a.2.eff.rank
  let rb := b.2.eff.rank
  if ra ≠ rb then decide (ra < rb)
  else if a.1 ≠ b.1 then a.1 != decide (ra = 3)
  else if a.2.iss ≠ b.2.iss then decide (a.2.iss < b.2.iss)
  else decide (a.2.slot < b.2.slot)
/-- The entry of core k that lands next at the present instants. -/
def Core.nextDue (c : Core) : Option (Bool × Pend) :=
  let due := fun (comp : Bool) => ((c.strm comp).pend.filter fun e => e.due ≤ (c.strm comp).inst).map fun e => (comp, e)
  (due true ++ due false).foldl (fun m e => match m with
    | none => some e
    | some x => if goesBefore e x then some e else some x) none
def State.landDue (s : State) (k : CoreId) : Nat → State
  | 0 => s
  | f + 1 =>
    match (s.core k).nextDue with
    | none => s
    | some (comp, e) => (s.landOne k comp e).landDue k f
/-- IN_FLIGHT_RESULT_LANDING: everything of core k that is due at the present instant lands or performs (R65). -/
def execInFlightResultLanding (k : CoreId) (s : State) : Out :=
  .next (s.landDue k (2 * ((s.core k).prim.pend.length + (s.core k).comp.pend.length)))

/-! ### Barriers across cores (R322) -/

/-- Every BARM that is due takes effect before anything else of the cycle, of whichever core. -/
def State.armFirst (s : State) : State :=
  allCores.foldl (fun s k =>
    if (s.core k).frozen then s
    else [false, true].foldl (fun s comp =>
      let t := s.strm k comp
      (t.pend.filter fun e => e.due ≤ t.inst && (match e.eff with | .barm _ _ _ _ => true | _ => false)).foldl
        (fun s e => s.landOne k comp e) s) s) s
/-- A BARQ whose result is due at the next instant takes the word as the present cycle leaves it. -/
def Pend.answered (bars : Vector Word 128) (inst : Nat) (e : Pend) : Pend :=
  match e.eff with
  | .barq b xd =>
    if inst + 1 < e.due then e
    else match xd with
      | some (.x n) => { e with eff := .x false n (rd bars b 0) }
      | some (.sx n) => { e with eff := .x true n (rd bars b 0) }
      | _ => e
  | _ => e
/-- The BARQs of a core at the end of a cycle, those that its snapshot holds among them. -/
def Core.answerBarq (c : Core) : Core :=
  let of := fun (t : Strm) => { t with pend := t.pend.map (Pend.answered c.bars t.inst) }
  if c.frozen then c
  else
    { c with
      prim := if c.prim.run = .trapped then c.prim else of c.prim
      comp := of c.comp
      seg := { c.seg with snap := c.seg.snap.map fun sn => { sn with pend := sn.pend.map (Pend.answered c.bars c.prim.inst) } } }

end Sys2Proof.Machine
end

