-- ==== Sys2Proof/Machine/Record.lean ====
section
/-!
DEFINITION. Machine/Record.lean: the pre-emption record: what a save writes of a core and what a resumption reads back (R175 to
R178, R217, R244, R303, R304, R353, R416, R463). Words and sections follow the tables; state that the tables give no bytes to
(log 33) stays in the saved copy of the core.
-/
namespace Sys2Proof.Machine

/-! ### The replay buffer (R177, R217, R304) -/

/-- Values of n bytes each, the first lowest. -/
def packBytes (n : Nat) (xs : List Nat) : Nat := packLanes (8 * n) xs
/-- The replay entries of one result in flight: REMAIN, KIND, destination, address, mask and data (R177, R304). A vector result of
the primary that enters the last-result file has an entry of KIND 4 for its j register after its own; `was` is the stream as that
result finds it. The places of the channels and of UNCORR in a drain's descriptor, and the one entry of a carry drain, which
delivers nothing, are the model's (DESIGN CHOICE, log 33). -/
def Pend.entries (c : Core) (comp : Bool) (inst : Nat) (was : Strm) (e : Pend) : List Nat :=
  let mk := fun (kind dst : Nat) (shadow : Bool) (addr : Nat) (m : Mask) (data : Nat) =>
    (e.due - inst) % 256 + kind * 2 ^ 8 + dst % 4096 * 2 ^ 16 + comp.toNat * 2 ^ 28 + shadow.toNat * 2 ^ 29 + addr % 2 ^ 64 * 2 ^ 64 +
      m.toNat * 2 ^ 128 + data % 2 ^ 1024 * 2 ^ 256
  let all : Mask := BitVec.allOnes 128
  match e.eff with
  | .x sh r v => [mk 0 r sh 0 0 v.toNat]
  | .p sh r v => [mk 1 r sh 0 0 v.toNat]
  | .vec d r en j =>
    (match d with
      | .v n => [mk 2 n false 0 en r.toNat]
      | .o n => [mk 3 n false 0 en r.toNat]
      | .q q pos => [mk 7 0 false ((c.unit q).addr pos) en r.toNat]
      | _ => []) ++
    (match j with
      | some n => if comp then [] else [mk 4 (2 * n) false 0 all ((was.merged d r en).toNat)]
      | none => [])
  | .mask md r en => [mk 5 md false 0 en r.toNat]
  | .greg n vs _ => [mk 6 n false 0 all (packBytes 2 ((vs.take 64).map (·.toNat))), mk 6 n false 0 all (packBytes 2 ((vs.drop 64).map (·.toNat)))]
  | .rowWrite a d en _ => [mk 7 (a / 128) false a en d.toNat]
  | .drain o =>
    let flags := o.corr.foldl (fun x ch => x ||| 2 ^ ch) 0 + o.uncorr.toNat * 2 ^ 7
    let away := 0x1_0000 + 8 * o.dkind + o.dnum
    (List.range (if o.carry then 1 else o.k)).map fun i =>
      mk 8 (if i = 0 then flags else 0) false (if o.dkind = 1 && !o.carry then o.rows.getD i 0 * 128 else away) all (o.data.getD i 0).toNat
  | .beat b clear fa fb =>
    let part := fun (f : Feed) i => packLanes 12 (((f.sl.drop (64 * i)).take 64).map fun x => (x % 4096).toNat)
    [mk 9 0 false 0 fa.spec (part fa 0), mk 9 0 false 0 0 (part fa 1), mk 9 0 false 0 fb.spec (part fb 0),
     mk 9 0 false 0 0 (part fb 1 + (b.toNat + 2 * clear.toNat) * 2 ^ 768)]
  | .xclear b => [mk 9 0 false 0 0 0, mk 9 0 false 0 0 0, mk 9 0 false 0 0 0, mk 9 0 false 0 0 ((b.toNat + 2) * 2 ^ 768)]
  | .wrc n v => [mk 10 n.toNat false 0 0 v.toNat]
  | _ => []
/-- A result that an access, a cascaded stage or a submission in flight has come to, at one of the stream's next instants. -/
def Effect.isResult : Effect → Bool
  | .vec _ _ _ _ | .mask _ _ _ | .x _ _ _ => true
  | _ => false
/-- The stream of core k as it will stand after each of its next n instants. -/
def State.futures (s : State) (k : CoreId) (comp : Bool) : Nat → List Strm
  | 0 => []
  | n + 1 =>
    let s := s.modStrm k comp fun t => { t with inst := t.inst + 1 }
    let s := s.landDue k (2 * ((s.core k).prim.pend.length + (s.core k).comp.pend.length))
    s.strm k comp :: s.futures k comp n
/-- The entries of core k that are due land one after another, up to the one that p names. -/
def State.landUpTo (s : State) (k : CoreId) (p : Bool × Pend → Bool) : Nat → State
  | 0 => s
  | f + 1 =>
    match (s.core k).nextDue with
    | none => s
    | some e => if p e then s else (s.landOne k e.1 e.2).landUpTo k p f
/-- A stream of core k as a result of it that lands within n instants finds it (R185, R217). -/
def State.justBefore (s : State) (k : CoreId) (comp : Bool) (e : Pend) : Nat → Strm
  | 0 => s.strm k comp
  | n + 1 =>
    let s := s.modStrm k comp fun t => { t with inst := t.inst + 1 }
    let s := s.landUpTo k (fun x => x.1 = comp && x.2.iss = e.iss && x.2.slot = e.slot && x.2.eff.isResult && x.2.due = e.due)
      (2 * ((s.core k).prim.pend.length + (s.core k).comp.pend.length))
    if e.due ≤ (s.strm k comp).inst then s.strm k comp else s.justBefore k comp e n
/-- What the record holds for an entry in flight: a load, a cascaded stage and the register of a submission as the value they will
land with (R217), LOOP and BRL as the registers and predicates they write, a read of a counter, a barrier or NMSTAT as the value it has now. -/
def State.asRecorded (s : State) (k : CoreId) (comp : Bool) (fs : List Strm) (e : Pend) : List Pend :=
  let value := fun (v : Word) (r : Option PRef) => match r with
    | some (.x n) => [{ e with eff := .x false n v : Pend }]
    | some (.sx n) => [{ e with eff := .x true n v }]
    | _ => []
  match e.eff with
  | .rowRead _ _ _ | .vop _ _ _ | .jsub _ _ _ | .nmsub _ _ _ | .smpsub _ _ _ | .lnch _ _ _ => (fs.findSome? fun t => t.pend.find? fun p => p.iss = e.iss && p.slot = e.slot && p.eff.isResult).toList
  | .loop l ps =>
    [{ e with eff := .wrc 0x020 (l.lc.setWidth 64) : Pend }, { e with eff := .wrc 0x021 (l.ec.setWidth 64) },
     { e with eff := .wrc 0x022 (fields [(l.act.toNat, 8, 1), (l.base.toNat, 0, 4)]) }] ++
      ps.map fun p => { e with eff := .p false p.1 p.2 : Pend }
  | .hcval sh r => [{ e with eff := .x sh r ((s.ctxView (s.core k).ctx).hcval (s.strm k comp).hcsel) }]
  | .barq b xd => value (rd (s.core k).bars b 0) xd
  | .nmfn _ xd => value (s.strm k comp).nmstat xd
  | _ => [e]
/-- An entry in flight with the numbers that record it; its stream. -/
abbrev Recorded := Bool × Pend × List Nat
/-- What is in flight at the stop, in order of landing, within one cycle in slot order (R177). -/
def State.replayList (s : State) (k : CoreId) : List Recorded :=
  let c := s.core k
  let of := fun (comp : Bool) =>
    let t := c.strm comp
    let fs := s.futures k comp 18
    t.pend.map fun e =>
      let rs := s.asRecorded k comp fs e
      ((rs.map (·.due)).foldl max e.due - t.inst, (comp, e, rs.flatMap fun r => r.entries c comp t.inst (s.justBefore k comp r 18)))
  let before := fun (a b : Nat × Recorded) => a.1 < b.1 || (a.1 = b.1 && a.2.2.1.slot ≤ b.2.2.1.slot)
  ((of false ++ of true).mergeSort before).map (·.2)
def State.replayEntries (s : State) (k : CoreId) : List Nat := ((s.replayList k).flatMap fun r => r.2.2).take 256

/-! ### The record's image (R175, R176) -/

/-- The freezes announced and not yet taken. -/
def Core.announced (c : Core) : List Freeze := c.freezes.filter fun f => f.eff.isNone
/-- The extent of a group as the header holds it: 0 a cluster, 1 a cluster pair, 2 a die, 3 both dies (R34; DESIGN CHOICE, log 33). -/
def extentCode (ks : List CoreId) : Nat :=
  let one := fun (n : Nat) => ks.all fun k => k.val / n = (ks.headD 0).val / n
  if one 8 then 0 else if one 16 then 1 else if one 64 then 2 else 3
/-- The words of the header in the order of R176, one quantity to a word, and 0 for no group (log 33); then those of the near-memory units, of the tile queues and of the segment (R353, R416, R463). -/
def State.headerWords (s : State) (k : CoreId) : List Nat :=
  let c := s.core k
  let now := s.cyc.toNat
  let both := fun (f : Strm → List Nat) => f c.prim ++ f c.comp
  let nw := (c.weights ++ List.replicate (64 - c.weights.length) 0).take 64 |>.reverse
  [c.stoppedAt now, c.group.getD 0, c.group.elim 0 (fun g => extentCode (s.extent c.ctx g)), c.prim.inst - c.b0] ++
    both (fun t => [t.pc.toNat, t.holdTo - (t.inst + 1), t.ready - max t.holdTo (t.inst + 1)]) ++
    [c.loop.lc.toNat, c.loop.ec.toNat, (s.cread k false 0x022).toNat] ++
    both (fun t => t.t.toList.flatMap fun g => [g.valid.toNat, min (t.inst - g.prep) 3]) ++
    both (fun t => [t.ras.length]) ++ both (fun t => [t.axen.toNat, t.axflag.toNat, t.srctr.toNat]) ++
    c.srkey.toList.map (·.toNat) ++ [c.holdchk.toNat, (s.cread k true 0x028).toNat, (s.cread k true 0x029).toNat, c.uiepc.toNat] ++
    [c.segpc.toNat] ++ (c.announced.map fun f => f.key - (if f.byWall then c.stoppedAt now else c.prim.inst)) ++
    [(s.replayEntries k).length, (s.cread k false 0x048).toNat, c.mx.rnslim.toNat, c.mx.z0.mtr] ++
    (List.range 16).map (fun i => packLanes 16 ((nw.drop (4 * i)).take 4)) ++
    [false, true].flatMap (fun comp => [(s.cread k comp 0x130).toNat, (s.cread k comp 0x131).toNat]) ++
    c.tq.toList.flatMap (fun e => [e.bind.toNat, e.rows.length, e.count, e.credit % 2 ^ 16 + e.freed % 2 ^ 16 * 2 ^ 16 + e.acked * 2 ^ 32]) ++ [(s.cread k false 0x200).toNat]
/-- A bank: cells of seven residues, then the special bits. -/
def Bank.image (z : Bank) : Nat :=
  packBytes 7 (z.rows.toList.flatMap fun r => r.cells.toList.map (·.toNat)) +
    packBytes 16 (z.rows.toList.map fun r => r.spec.toNat) * 2 ^ (8 * 114688)
/-- The matrix section (R303). -/
def State.matrixImage (s : State) (k : CoreId) : Nat :=
  let x := (s.core k).mx
  let ck := match x.ck with
    | none => 0
    | some (b, z) => z.mtr % 2 ^ 40 + z.drow * 2 ^ 40 + z.slev * 2 ^ 47 + XFmt.num z.bfmt * 2 ^ 50 + z.chunk.toNat * 2 ^ 53 + b.toNat * 2 ^ 54 +
        2 ^ 55 + z.clrrun * 2 ^ 56
  packBytes 256 (x.g.toList.map fun g => packBytes 2 (g.vals.toList.map (·.toNat))) +
    packBytes 16 (x.mask.toList.map (·.toNat)) * 2 ^ (8 * 0x2000) +
    packBytes 8 [x.bcfg0.toNat, x.bcfg1.toNat, (s.cread k false 0x112).toNat, x.z1.mtr, packLanes 2 (x.g.toList.map fun g => g.tag.toNat),
      packLanes 1 (x.latch.toList.map fun l => l.half.toNat), ck] * 2 ^ (8 * 0x2800) +
    packBytes 64 (x.latch.toList.map fun l => l.bytes.toNat) * 2 ^ (8 * 0x2840)
/-- The next position that a unit fills: of a local stream, and of a ring, the one after those staged (R244). -/
def SUnit.nextFill (u : SUnit) : Nat := max u.filled ((u.stage.map fun r => r.pos + 1).foldl max u.next)
/-- Positions of write stream q whose rows are still in flight, held by the segment or sent (R237). -/
def Core.unacked (c : Core) (q : Nat) : List Nat :=
  let u := c.unit q
  let ofDst : VDst → List Nat := fun d => match d with | .q n pos => if n = q then [pos] else [] | _ => []
  u.unack ++ (c.seg.held.filter fun h => !h.isTq && h.k = q && h.gen = u.gen).map (·.pos) ++
    (c.prim.pend.filter fun e => (c.unitAt q e.iss).gen = u.gen).flatMap fun e => match e.eff with
      | .vec d _ _ _ => ofDst d
      | .vop op _ _ => ofDst op.dst
      | .drain o => if o.dkind = 0 then (List.range o.data.length).flatMap fun i => ofDst (.q o.dnum (o.pos + i)) else []
      | _ => []
/-- The stream section: unit records, then staging (R244). -/
def Core.streamImage (c : Core) : Nat :=
  packBytes 128 ((List.range 8).map fun q =>
    let u := c.unit q
    let acked := (c.unacked q).foldl min u.next
    u.desc.toNat + packBytes 8 [u.bound.toNat, u.next, u.nextFill, u.req, acked,
      (((u.due u.next : Int) - c.prim.inst) % 2 ^ 64).toNat] * 2 ^ 512) +
    packBytes 1024 ((List.range 8).map fun q => packBytes 128 (((c.unit q).stage.take 8).map fun r => r.row.toNat)) * 2 ^ (8 * 0x400)
/-- The record's sections below the scratchpad: offset, length and value (R175); p0 is 1 and m0 all ones (R60, R61). -/
def State.recordParts (s : State) (k : CoreId) : List (Nat × Nat × Nat) :=
  let c := s.core k
  let p := c.prim
  let q := c.comp
  let words := fun (ws : List Word) => ws.map (·.toNat)
  let ras := fun (t : Strm) => (words t.ras.reverse ++ List.replicate 16 0).take 16
  let preds := packLanes 1 ((true :: p.p.toList.drop 1 ++ true :: (q.p.toList.take 8).drop 1 ++ q.sp.toList).map (·.toNat))
  let regs := words p.x.toList ++ words (q.x.toList.take 32) ++ words q.sx.toList ++ [preds] ++ p.t.toList.map (·.addr.toNat) ++
    q.t.toList.map (·.addr.toNat) ++ ras p ++ ras q
  let rows := fun (xs : List Row) => packBytes 128 (xs.map (·.toNat))
  [(0x0_0000, 4096, packBytes 8 (s.headerWords k)), (0x0_1000, 4096, packBytes 8 regs), (0x0_2000, 4096, rows p.v.toList),
   (0x0_3000, 2048, rows p.o.toList), (0x0_3800, 1024, rows p.j.toList),
   (0x0_3C00, 1024, packBytes 16 ((BitVec.allOnes 128 :: p.m.toList.drop 1 ++ BitVec.allOnes 128 :: (q.m.toList.take 8).drop 1).map (·.toNat))), (0x0_4000, 4096, rows (q.v.toList.take 16)),
   (0x0_5000, 40960, packBytes 160 (s.replayEntries k)), (0x0_F000, 8192, rows (c.seg.held.map (·.row))), (0x1_1000, 16384, c.streamImage),
   (0x1_5000, 16384, s.matrixImage k), (0x1_9000, 65536, packBytes 8192 (c.tq.toList.map fun e => rows ((e.rows.take 64).map (·.2)))),
   (0x2_9000, 116736, c.mx.z0.image), (0x4_5800, 116736, c.mx.z1.image),
   (0x6_2000, 116736, match c.mx.ck with | some (_, z) => z.image | none => 0)]
/-- The record: its sections, then the scratchpad byte for byte (R175). -/
def State.recordImage (s : State) (k : CoreId) : Memory :=
  (s.recordParts k).flatMap (fun p => Memory.ofVal p.1 p.2.1 p.2.2) ++
    ((s.core k).sp.filter fun b => decide (b.1 < 0x40_0000)).map fun b => (0x8_0000 + b.1, b.2)
/-- The record is written: its bytes, their poison and the exposed-write set (R175, R465, R506). -/
def State.writeRecord (s : State) (k : CoreId) (at' : Nat) : State :=
  s.fillBytes at' 0x48_0000 (s.recordImage k)

/-! ### The record read back (R178) -/

/-- A record as memory holds it: numbers by section offset. -/
structure RecordAt where
  mem : Memory
  at' : Nat
  deriving DecidableEq, Repr
def RecordAt.num (r : RecordAt) (off n : Nat) : Nat := Memory.getN r.mem (r.at' + off) n
def RecordAt.word (r : RecordAt) (off i : Nat) : Word := BitVec.ofNat 64 (r.num (off + 8 * i) 8)
def RecordAt.row (r : RecordAt) (off i : Nat) : Row := BitVec.ofNat 1024 (r.num (off + 128 * i) 128)
/-- The first entries of a vector read back, the others as they are. -/
def readBack {α : Type} {n : Nat} (v : Vector α n) (m : Nat) (d : α) (f : Nat → α) : Vector α n :=
  Vector.ofFn fun i => if i.val < m then f i.val else rd v i.val d
/-- The registers, the control state and the counts of a stream, from the register section and the header; `prim` for the
primary's places in them. -/
def Strm.readRecord (t : Strm) (r : RecordAt) (prim : Bool) (announced : Nat) : Strm :=
  let h := r.word 0
  let g := r.word 0x1000
  let pick := fun (a b : Nat) => if prim then a else b
  let preds := (g 104).toNat
  let hold := (h (pick 5 8)).toNat
  let age := fun i => (h (pick 13 29 + 2 * i + 1)).toNat
  let n := min (h (pick 45 46)).toNat 16
  let t := { t with
    pc := (h (pick 4 7)).setWidth 52
    holdTo := t.inst + 1 + hold, ready := t.inst + 1 + hold + (h (pick 6 9)).toNat
    x := readBack t.x (pick 64 32) 0 fun i => g (pick 0 64 + i)
    p := readBack t.p (pick 16 8) false fun i => decide (i ≠ 0) && preds.testBit (pick 0 16 + i)
    v := readBack t.v (pick 32 16) 0 (r.row (pick 0x2000 0x4000))
    m := readBack t.m (pick 16 8) 0 fun i => if i = 0 then 0 else BitVec.ofNat 128 (r.num (0x3C00 + 16 * (pick 0 16 + i)) 16)
    t := Vector.ofFn fun i =>
      { addr := g (pick 105 113 + i.val), valid := (h (pick 13 29 + 2 * i.val)).getLsbD 0
        prep := if age i.val < 3 then t.inst - age i.val else min ((rd t.t i.val { addr := 0, valid := false, prep := 0 }).prep) (t.inst - 3) }
    ras := ((List.range n).map fun i => g (pick 121 137 + i)).reverse
    axen := (h (pick 47 50)).setWidth 6, axflag := (h (pick 48 51)).setWidth 6, srctr := h (pick 49 52)
    nmstat := h (pick 82 84 + announced), nmnext := BitVec.ofNat 32 ((h (pick 83 85 + announced)).toNat / 2 ^ 32) }
  if prim then { t with o := readBack t.o 16 0 (r.row 0x3000), j := readBack t.j 8 0 (r.row 0x3800) }
  else { t with sx := readBack t.sx 8 0 fun i => g (96 + i), sp := readBack t.sp 4 false fun i => preds.testBit (24 + i) }
/-- A bank's cells and special bits. -/
def Bank.readRecord (z : Bank) (r : RecordAt) (off : Nat) : Bank :=
  { z with rows := Vector.ofFn fun i =>
      { cells := Vector.ofFn fun n => BitVec.ofNat 56 (r.num (off + 7 * (128 * i.val + n.val)) 7)
        spec := BitVec.ofNat 128 (r.num (off + 114688 + 16 * i.val) 16) } }
/-- A bank's half of XBST, or the checkpoint's status, both by their own places (R299, R303). -/
def Bank.readStatus (z : Bank) (mtr drow slev bfmt chunk clrrun : Nat) : Bank :=
  { z with mtr := mtr, drow := drow, slev := slev, bfmt := XFmt.ofCode (BitVec.ofNat 3 bfmt), chunk := chunk = 1, clrrun := clrrun }
def Bank.readHalf (z : Bank) (mtr b : Nat) : Bank :=
  { z.readStatus mtr (bitsOf b 6 0) (bitsOf b 9 7) (bitsOf b 13 11) (bitsOf b 10 10) (bitsOf b 23 16) with act := bitsOf b 14 14 = 1 }
/-- The matrix engine, from its section, the banks and RNGMTR (R303). What the core itself keeps, RNSSTAT and its counters, stays. -/
def Matrix.readRecord (x : Matrix) (r : RecordAt) (mtr0 : Nat) : Matrix :=
  let m := 0x1_5000
  let st := r.num (m + 0x2810) 8
  let tags := r.num (m + 0x2820) 8
  let halves := r.num (m + 0x2828) 8
  let ck := r.num (m + 0x2830) 8
  { x with
    z0 := (x.z0.readRecord r 0x2_9000).readHalf mtr0 (st % 2 ^ 32)
    z1 := (x.z1.readRecord r 0x4_5800).readHalf (r.num (m + 0x2818) 8) (st / 2 ^ 32)
    ck := if bitsOf ck 55 55 = 0 then none
      else some (decide (bitsOf ck 54 54 = 1), ((x.ck.elim .reset (·.2)).readRecord r 0x6_2000).readStatus (bitsOf ck 39 0) (bitsOf ck 46 40)
        (bitsOf ck 49 47) (bitsOf ck 52 50) (bitsOf ck 53 53) (bitsOf ck 63 56))
    bcfg0 := r.word m 0x500, bcfg1 := r.word m 0x501, mvalid := bitsOf st 15 15 = 1
    g := Vector.ofFn fun i =>
      { vals := Vector.ofFn fun n => BitVec.ofNat 16 (r.num (m + 256 * i.val + 2 * n.val) 2), tag := BitVec.ofNat 2 (tags / 4 ^ i.val) }
    mask := Vector.ofFn fun i => BitVec.ofNat 128 (r.num (m + 0x2000 + 16 * i.val) 16)
    latch := Vector.ofFn fun i => { bytes := BitVec.ofNat 512 (r.num (m + 0x2840 + 64 * i.val) 64), half := halves.testBit i.val } }
/-- A transfer unit, from its record and its staging (R244). -/
def SUnit.readRecord (u : SUnit) (r : RecordAt) (q : Nat) : SUnit :=
  let a := 0x1_1000 + 128 * q
  let w := fun i => r.num (a + 64 + 8 * i) 8
  { u with
    desc := BitVec.ofNat 512 (r.num a 64), bound := w 0 = 1, next := w 1, filled := if u.stage.isEmpty then u.filled else w 2, req := w 3
    stage := u.stage.zipIdx.map fun d => if d.2 < 8 then { d.1 with row := r.row (0x1_1400 + 1024 * q) d.2 } else d.1 }
/-- The entry as its replay entries give it: when it lands, where, and with what. A cascaded stage still computes, since a cause that
it raises is raised at its instant (R217), and a submission gets its number when it is made (log 33). -/
def Pend.readRecord (inst : Nat) (e : Pend) (ns : List Nat) : List Pend :=
  let n := fun i => ns.getD i 0
  let kind := fun i => n i / 2 ^ 8 % 2 ^ 8
  let dst := n 0 / 2 ^ 16 % 2 ^ 12
  let sh := (n 0).testBit 29
  let addr := fun i => n i / 2 ^ 64 % 2 ^ 64
  let data := fun i => n i / 2 ^ 256
  let mask : Nat → Mask := fun i => BitVec.ofNat 128 (n i / 2 ^ 128)
  let word := fun i => BitVec.ofNat 64 (data i)
  let row := fun i => BitVec.ofNat 1024 (data i)
  let half := fun i => (List.range 64).map fun k => BitVec.ofNat 16 (data i / 2 ^ (16 * k))
  let slices := fun i => (List.range 64).map fun k => (BitVec.ofNat 12 (data i / 2 ^ (12 * k))).toInt
  let lands := inst + n 0 % 2 ^ 8
  let xd := some (if sh then PRef.sx dst else PRef.x dst)
  let as := fun (f : Effect) => ({ e with due := lands, eff := f } : Pend)
  let soon := fun (f : Effect) => ({ e with due := lands - 1, eff := f } : Pend)
  let vdst := fun (d : VDst) => if kind 0 = 2 then VDst.v dst else if kind 0 = 3 then .o dst else d
  if ns.isEmpty then [e]
  else match e.eff with
    | .x _ _ _ | .hcval _ _ | .barq _ _ | .nmfn _ _ => [as (.x sh dst (word 0))]
    | .p _ _ _ => [as (.p sh dst (data 0 % 2 = 1))]
    | .vec .gone _ _ j => [as (.vec .gone (row 0) (BitVec.allOnes 128) j)]
    | .vec d _ _ none => [as (.vec (vdst d) (row 0) (mask 0) none)]
    | .vec d _ _ (some j) =>
      if kind 1 = 4 then [as (.vec (vdst d) (row 0) (mask 0) none), as (.vec .gone (row 1) (BitVec.allOnes 128) (some j))]
      else [as (.vec (vdst d) (row 0) (mask 0) (some j))]
    | .rowRead _ _ d => [as (.vec (vdst d) (row 0) (mask 0) (if kind 1 = 4 then none else some 3))] ++
      if kind 1 = 4 then [as (.vec .gone (row 1) (BitVec.allOnes 128) (some 3))] else []
    | .vop op src x => [{ e with due := lands - (e.lands.2 - e.due), eff := .vop { op with dst := vdst op.dst } src x }]
    | .mask _ _ _ => [as (.mask dst (BitVec.ofNat 128 (data 0)) (mask 0))]
    | .greg _ _ tag => [as (.greg dst (half 0 ++ half 1) tag)]
    | .rowWrite _ _ _ whole => [as (.rowWrite (addr 0) (row 0) (mask 0) whole)]
    | .drain o =>
      let is := List.range ns.length
      [as (.drain { o with
        corr := (List.range 7).filter dst.testBit, uncorr := dst.testBit 7
        rows := if o.rows.isEmpty then [] else is.map fun i => addr i / 128
        data := if o.data.isEmpty then [] else is.map row })]
    | .beat _ _ _ _ => [as (.beat ((data 3).testBit 768) ((data 3).testBit 769) ⟨slices 0 ++ slices 1, mask 0⟩ ⟨slices 2 ++ slices 3, mask 2⟩)]
    | .xclear _ => [as (.xclear ((data 3).testBit 768))]
    | .wrc _ _ => [as (.wrc (BitVec.ofNat 12 dst) (word 0))]
    | .loop _ ps =>
      let l : LoopState := { lc := (word 0).setWidth 32, ec := (word 1).setWidth 6, base := (word 2).setWidth 4, act := (word 2).getLsbD 8 }
      [as (.loop l (ps.zipIdx.map fun p => (p.1.1, decide (data (3 + p.2) % 2 = 1))))]
    | .jsub a _ c => [soon (.jsub a xd c)]
    | .nmsub a _ c => [soon (.nmsub a xd c)]
    | .smpsub a _ c => [soon (.smpsub a xd c)]
    | .lnch start _ a => [soon (.lnch start dst a)]
    | _ => [e]
/-- The entries of a replay list as the record gives them, from its entry n on. -/
def readReplay (r : RecordAt) (inst : Bool → Nat) : Nat → List Recorded → List (Bool × Pend × List Pend)
  | _, [] => []
  | n, (comp, e, ns) :: rest =>
    let got := (List.range ns.length).map fun i => r.num (0x0_5000 + 160 * (n + i)) 160
    (comp, e, if n + ns.length ≤ 256 then e.readRecord (inst comp) got else [e]) :: readReplay r inst (n + ns.length) rest
/-- Freezes with the keys that remaining cycles from the record give: an instant, or for one that counts in wall cycles, cycles from
w on, when the group goes on. -/
def readKeys (r : RecordAt) (inst w : Nat) : Nat → List Freeze → List Freeze
  | _, [] => []
  | i, f :: fs =>
    if f.eff.isSome then f :: readKeys r inst w i fs
    else { f with key := (if f.byWall then w else inst) + (r.word 0 (62 + i)).toNat } :: readKeys r inst w (i + 1) fs
/-- Core k as its record holds it, its group going on in wall cycle w; what the tables give no bytes to is as saved (R178, log 33). -/
def State.readRecord (s : State) (k : CoreId) (at' w : Nat) : Core :=
  let c := s.core k
  let r : RecordAt := ⟨s.mem, at'⟩
  let h := r.word 0
  let n := c.announced.length
  let now := readReplay r (fun comp => (c.strm comp).inst) 0 (s.replayList k)
  let flight := fun (comp : Bool) (t : Strm) => { t with pend := t.pend.flatMap fun e =>
    ((now.find? fun x => x.1 = comp && x.2.1 = e).map fun x => x.2.2).getD [e] }
  let seg := (h (118 + n)).toNat
  { c with
    prim := flight false (c.prim.readRecord r true n), comp := flight true (c.comp.readRecord r false n)
    loop := { lc := (h 10).setWidth 32, ec := (h 11).setWidth 6, base := (h 12).setWidth 4, act := (h 12).getLsbD 8 }
    freezes := readKeys r c.prim.inst w 0 c.freezes
    srkey := Vector.ofFn fun i => h (53 + i.val)
    holdchk := (h 57).getLsbD 0, uivAddr := BitVec.ofNat 47 (wb (h 58) 51 5), uivEn := (h 58).getLsbD 0, inh := (h 59).getLsbD 0
    uiepc := (h 60).setWidth 52, segpc := (h 61).setWidth 52
    weights := ((List.range 64).map fun i => (h (66 + n + i / 4)).toNat / 2 ^ (16 * (i % 4)) % 2 ^ 16).reverse
    tq := readBack c.tq 8 .reset fun q =>
      let e := c.tqAt q
      { e with
        bind := h (86 + n + 4 * q), count := (h (88 + n + 4 * q)).toNat, credit := wb (h (89 + n + 4 * q)) 15 0
        freed := wb (h (89 + n + 4 * q)) 31 16, acked := wb (h (89 + n + 4 * q)) 63 32
        rows := e.rows.zipIdx.map fun d => if d.2 < 64 then (d.1.1, r.row (0x1_9000 + 8192 * q) d.2) else d.1 }
    seg := { c.seg with
      isOpen := seg.testBit 63, fix := seg.testBit 61, rpl := seg.testBit 60
      held := c.seg.held.zipIdx.map fun d => { d.1 with row := r.row 0xF000 d.2 } }
    q := readBack c.q 8 .reset fun q => (c.unit q).readRecord r q
    mx := c.mx.readRecord r (h (65 + n)).toNat
    sp := (s.mem.filter fun b => decide (at' + 0x8_0000 ≤ b.1 ∧ b.1 < at' + 0x48_0000)).map fun b => (b.1 - (at' + 0x8_0000), b.2) }

end Sys2Proof.Machine
end

