-- ==== Sys2Proof/Machine/Preempt.lean ====
section
/-!
DEFINITION. Machine/Preempt.lean: the slot table (R377 to R380), pre-emption of groups and their return (R173, R174, R178,
R182, R352), and the switch of contexts (R321, R325, R366, R378).
-/
namespace Sys2Proof.Machine

/-! ### Slots (R377, R378) -/

def State.descAt (s : State) (n : Nat) : Nat := wb s.ctxbase 51 7 * 2 ^ 7 + 128 * n
/-- The descriptor of a context is well formed: its pointers fit and its unused bytes are zero (R377). -/
def State.descOk (s : State) (n : Nat) : Bool :=
  let d := Memory.getN s.mem (s.descAt n) 128
  let w := fun i => bitsOf d (64 * i + 63) (64 * i)
  !s.poisoned (s.descAt n) 128 && d / 2 ^ 448 = 0 && w 1 % 4096 = 0 && w 1 < 2 ^ 52 && w 6 < 2 ^ 52 && w 6 % 32 = 0
/-- Wall cycles of a microsecond at the present clock (R479). -/
def State.perUs (s : State) : Nat := 3600 * 458752 / max s.health.ramp 1
/-- A context as its descriptor gives it. -/
def State.takeCtx (s : State) (n : Nat) : State :=
  let a := s.descAt n
  let mask := BitVec.ofNat 128 (Memory.getN s.mem (a + 32) 16)
  let init := (s.getWord (a + 48)).setWidth 52
  let recb := (s.getWord (a + 8)).toNat
  if s.ctxs.any (fun x => x.num = n) then s.modCtx n fun x => { x with mask := mask, init := init, recb := recb }
  else { s with ctxs := s.ctxs ++ [{ num := n, mask := mask, init := init, recb := recb, started := false, saved := [], saving := []
                                     jobRun := false, coming := [], slot := (1, 0), nmHeld := [], seq := none }] }
/-- The group of core k is asked to stop H wall cycles from now (R173). -/
def State.requestPreempt (s : State) (k : CoreId) : State :=
  if (s.core k).freezes.any (fun f => f.src = .preempt) then s else s.announce k .preempt (s.cyc.toNat + s.horizon k) none
/-- The sequencer turns to a context: what it holds for the one it served goes to that context, which runs on with it on cores
outside the mask (R378). -/
def State.swapSequencer (s : State) (n : Nat) : State :=
  if s.curCtx = some n then s
  else
    let q := s.keptSeq (some n)
    let s := match s.curCtx with | none => s | some o => s.modCtx o fun x => { x with seq := some s.seqState }
    let s : State := { s with curCtx := some n, ptbase := keep (s.getWord (s.descAt n)) 51 16 ||| keep (s.getWord (s.descAt n)) 0 0 }
    match q with
    | none => s
    | some q => (s.withSeq q).modCtx n fun x => { x with seq := none }
/-- A class-0 switch-in of more than 50 µs after the start of the slot that asked for it is logged (R380). -/
def State.logLate (s : State) (x : Context) : State :=
  if x.slot.1 = 0 && x.slot.2 + 50 * s.perUs < s.cyc.toNat then s.logError 8 x.num 0 0 1 0 0 else s
/-- The context of a slot is to run: the groups of others on its cores are pre-empted, and the cores wait for it; a context that runs
on all its cores already has the sequencer at once. -/
def State.switchTo (s : State) (n : Nat) : State :=
  let s := s.takeCtx n
  match s.ctxs.find? (fun x => x.num = n) with
  | none => s
  | some x =>
    let ks := (coresOf x.mask).filter fun k => (s.core k).ctx ≠ some n
    let s := ks.foldl (fun s k => if (s.core k).ctx.isSome then s.requestPreempt k else s) s
    let s : State := { s with ctxs := s.ctxs.map fun y =>
      if y.num = n then { y with coming := ks, slot := if x.coming.isEmpty then (s.slotClass, s.slotAt) else y.slot } else { y with coming := [] } }
    if ks.isEmpty then s.swapSequencer n else s
/-- SLOT_START: the slot after the present one begins (R378). -/
def execSlotStart (s : State) : Out :=
  .next (
    let i := (s.slotIx + 1) % (wb s.stbase 7 0 + 1)
    let e := Memory.getN s.mem (wb s.stbase 51 12 * 2 ^ 12 + 16 * i) 16
    let n := bitsOf e 7 0
    let bad := s.poisoned (wb s.stbase 51 12 * 2 ^ 12 + 16 * i) 16 || bitsOf e 15 12 ≠ 0 || bitsOf e 31 16 = 0 || e / 2 ^ 32 ≠ 0 ||
      (bitsOf e 11 11 = 0 && !s.descOk n)
    if bad then State.firmware { s with slotHeld := true } 3 0 false 0x64 (BitVec.ofNat 64 i)
    else
      let now := s.cyc.toNat
      let s : State := { s with slotIx := i, slotAt := now, slotEnd := now + bitsOf e 31 16 * s.perUs, slotClass := bitsOf e 9 8
                                slotAudit := bitsOf e 10 10 = 1, slotHeld := false }
      if bitsOf e 11 11 = 1 || s.curCtx = some n then s else s.switchTo n)
/-- STBASE_WRITE: the table is stored; a slot that a fault had extended ends, and a table that nothing followed is followed
from its first entry (R378). -/
def execStbaseWrite (v : Word) (s : State) : Out :=
  .next (
    let s := s.cwrite 0 false 0x152 v
    if s.slotHeld then { s with slotHeld := false, slotEnd := s.cyc.toNat }
    else if s.slotOn then s
    else { s with slotOn := true, slotIx := wb s.stbase 7 0, slotEnd := s.cyc.toNat })

/-! ### Stop and save (R173, R174, R178) -/

/-- The context whose save of core k is under way. -/
def State.savingOf (s : State) (k : CoreId) : Option Context := s.ctxs.find? fun x => x.saving.contains k
/-- PREEMPT_STOP: the core's group stands stopped for pre-emption; a trap or a replay of the group goes first (R173, R182). -/
def execPreemptStop (k : CoreId) (s : State) : Out :=
  .next (
    let c := s.core k
    match c.preempted, c.ctx with
    | some _, some n =>
      if (s.members k).any (fun j => (s.core j).prim.trap.pend || (s.core j).replaying || (s.core j).preempted.isNone) ||
          (s.savingOf k).isSome then s
      else s.modCtx n fun x => { x with saving := x.saving ++ [k] }
    | _, _ => s)
/-- The core can be saved: no trap of its group waits for firmware, which goes first (R182), and nothing untimed is outstanding but
NMFNs (R174, R352). -/
def State.savable (s : State) (k : CoreId) : Bool :=
  let ws := (s.core k).prim.waits ++ (s.core k).comp.waits
  !(s.members k).any (fun j => (s.core j).prim.trap.pend) &&
    ws.all (fun w => s.nmWaits.any fun n => n.id = w.1) &&
    !s.accs.any (fun a => a.op.writes && (match a.who with | .unit j _ _ => j = k | _ => false))
/-- A stream with NMFNs that wait is saved as it stood before the first of them: its bundle issues again at resume (R352). -/
def Strm.beforeWaits (t : Strm) (ws : List NmWait) : Strm :=
  match ws with
  | [] => t
  | w :: _ => { t with pc := w.pc, holdTo := t.inst, ready := t.inst, waits := t.waits.filter fun x => !ws.any fun w => w.id = x.1 }
/-- What a core without a context is: its own lasting state and its scratchpad; the rest as after reset. -/
def Core.vacant (c : Core) : Core :=
  { Core.reset with
    frzcnt := c.frzcnt, weircnt := c.weircnt, frzmax := c.frzmax, weirSet := c.weirSet, weirFlr := c.weirFlr, weirLim := c.weirLim
    sp := c.sp, spBad := c.spBad, seg := { Segment.reset with rewinds := c.seg.rewinds }
    mx := { Matrix.reset with off := c.mx.off, ret := c.mx.ret, inForce := c.mx.inForce, lch := c.mx.lch, rnslim := c.mx.rnslim, ucnt := c.mx.ucnt, ch := c.mx.ch } }
/-- A context's core as its record holds it: no snapshot, no ingress log, no cached translation (R463). -/
def Core.forRecord (c : Core) : Core :=
  { c with
    tlb := [], seg := { c.seg with valid := false, snap := none, ingress := [], logpos := [] }
    prim := { c.prim with ibuf := [] }, comp := { c.comp with ibuf := [] } }
/-- PREEMPT_SAVE: the record is written and the core is free; barriers and UICTL go to memory (R174, R175, R321, R325). An NMFN that
waits untimed is given up and issues again; one that is registered goes with the context (R352). -/
def execPreemptSave (k : CoreId) (s : State) : Out :=
  .next (
    match s.savingOf k with
    | none => s
    | some x =>
      if !s.savable k then s
      else
        let mine := s.nmWaits.filter fun w => w.core = k
        let again := fun (comp : Bool) => mine.filter fun w => !w.reg && w.comp = comp
        let s := s.modCore k fun c => { c with prim := c.prim.beforeWaits (again false), comp := c.comp.beforeWaits (again true) }
        let c := s.core k
        let s := s.writeRecord k (x.recb + 0x48_0000 * k.val)
        let s := s.putWords (wb c.barbase 51 10 * 2 ^ 10) c.bars.toList
        let s := s.putWords (wb c.uiRing 51 12 * 2 ^ 12 + 2048) [s.cread k true 0x122]
        let s : State := { s with
          nmWaits := s.nmWaits.filter fun w => w.core ≠ k
          accs := s.accs.filter fun a => match a.who with | .unit j _ _ => j ≠ k | _ => true }
        let s := s.modCtx x.num fun x =>
          { x with saving := x.saving.filter (· ≠ k), saved := x.saved ++ [(k, c.forRecord)], nmHeld := x.nmHeld ++ mine.filter (·.reg) }
        s.setCore k c.vacant)

/-! ### Resume (R178, R366) -/

/-- The context that waits for core k. -/
def State.comingOf (s : State) (k : CoreId) : Option Context := s.ctxs.find? fun x => x.coming.contains k
/-- Every core that the context waits for is free. -/
def State.coreFree (s : State) (x : Context) : Bool := x.coming.all fun k => (s.core k).ctx.isNone
/-- Requests that have not landed and are not on their way are sent again (R244, R459). -/
def State.askAgain (s : State) (k : CoreId) : State :=
  (List.range 8).foldl (fun s q =>
    let u := (s.core k).unit q
    if !(u.bound && u.isRing && u.isRead) then s
    else
      let ps := ((List.range (u.req - u.next)).map (· + u.next)).filter fun p =>
        !u.landed.any (fun l => l.1 = p) && !u.lost.any (fun l => l.1 = p) &&
          !s.accs.any (fun a => a.who = .unit k q u.gen && !a.op.writes && a.pos = p)
      ps.foldl (fun s p => s.askFor k q p) s) s
/-- The records that wait in a ring, from TAIL to HEAD (R325). -/
def State.ringRecords (s : State) (ring head tail : Nat) : List (List Word × Nat) :=
  (List.range ((64 + head - tail) % 64)).map fun i =>
    let a := ring + 64 * ((tail + i) % 32)
    ((List.range 8).map fun j => s.getWord (a + 8 * j), a)
/-- Barriers, UICTL and the queue of records as memory holds them (R321, R325). -/
def State.readBack (s : State) (k : CoreId) (n : Nat) : State :=
  let bb := (s.getWord (s.descAt n + 16)).toNat + 1024 * k.val
  let ur := (s.getWord (s.descAt n + 24)).toNat + 4096 * k.val
  let u := s.getWord (ur + 2048)
  let q := s.ringRecords ur (wb u 21 16) (wb u 29 24)
  let bars : Vector Word 128 := Vector.ofFn fun i => s.getWord (bb + 8 * i.val)
  s.modCore k fun c =>
    { c with
      barbase := keep (BitVec.ofNat 64 bb) 51 10, uiRing := keep (BitVec.ofNat 64 ur) 51 12, bars := bars, uiq := q
      uiHead := BitVec.ofNat 12 (wb u 21 16), uiTail := BitVec.ofNat 12 (wb u 29 24), uiOvf := u.getLsbD 8, uien := BitVec.ofNat 8 (wb u 3 0) }
/-- The freezes of a core that goes on in wall cycle w after an interval: its pre-emption ends, a stretch whose region's margin is
good again ends with it (R478), and what holds it otherwise holds it for as many cycles more (R178). -/
def Freeze.after (f : Freeze) (low : CoreId → Bool) (clr interval : Nat) : Freeze :=
  if f.src = .stretch && f.clr.isNone && !low f.owner then { f with clr := some clr }
  else if f.eff.isNone then f
  else if f.src = .preempt && f.clr.isNone then { f with clr := some clr }
  else { f with eff := f.eff.map (· + interval), clr := f.clr.map (· + interval) }
/-- A core takes a context: its record is read back, and its group goes on H cycles after (R178). What belongs to the core and not
to a context stays. -/
def State.restoreCore (s : State) (k : CoreId) (x : Context) : State :=
  let live := s.core k
  match x.saved.find? (fun c => c.1 = k) with
  | none => (s.modCore k fun c => { c with ctx := some x.num }).readBack k x.num
  | some (_, c) =>
    let now := s.cyc.toNat
    let s := s.setCore k c
    let w := now + s.horizon k
    let interval := w - c.stoppedAt now
    let c := s.readRecord k (x.recb + 0x48_0000 * k.val) w
    let c := { c with
      frozen := true
      freezes := c.freezes.map fun f => f.after (fun j => s.health.low.any fun x => x.1 = regionOf j) (w - s.horizon k) interval
      startAt := c.startAt.map (· + interval)
      frzcnt := live.frzcnt, weircnt := live.weircnt, frzmax := live.frzmax, weirSet := live.weirSet, weirFlr := live.weirFlr
      weirLim := live.weirLim, seg := { c.seg with rewinds := live.seg.rewinds }
      mx := { c.mx with off := live.mx.off, ret := live.mx.ret, inForce := live.mx.inForce, lch := live.mx.lch, rnslim := live.mx.rnslim, ucnt := live.mx.ucnt, ch := live.mx.ch } }
    let s := (((s.setCore k c).readBack k x.num).askAgain k).transposeAgain k
    let ws := x.nmHeld.filter fun w => w.core = k
    State.modCtx { s with nmWaits := s.nmWaits ++ ws } x.num fun x =>
      { x with saved := x.saved.filter (fun c => c.1 ≠ k), nmHeld := x.nmHeld.filter fun w => w.core ≠ k }
/-- PREEMPT_RESUME: once every core of the incoming mask is free, core k takes the context of the slot; with the last of them
a context that has not run starts its job (R366), and a class-0 switch-in of more than 50 µs is logged (R380). -/
def execPreemptResume (k : CoreId) (s : State) : Out :=
  .next (
    match s.comingOf k with
    | none => s
    | some x =>
      if !s.coreFree x then s
      else
        let s := (s.swapSequencer x.num).restoreCore k x
        let s := s.modCtx x.num fun x => { x with coming := x.coming.filter (· ≠ k) }
        if x.coming ≠ [k] then s
        else
          let s := s.logLate x
          if x.started then s
          else (s.modCtx x.num fun x => { x with started := true, jobRun := true }).startJob x.init)

end Sys2Proof.Machine
end

