-- ==== Sys2Proof/Machine/Scalar.lean ====
section
/-!
DEFINITION. Machine/Scalar.lean: the scalar instructions of the C and S slots (R142 to R148).
-/
namespace Sys2Proof.Machine

/-- A shift or rotate amount: the low 6 bits (R142). -/
def shamt (b : Word) : Nat := b.toNat % 64
/-- Leading zeros of the low n bits. -/
def leadZeros : Nat → Word → Nat
  | 0, _ => 0
  | n + 1, w => if w.getLsbD n then 0 else leadZeros n w + 1
/-- Trailing zeros of the high n bits. -/
def trailZeros : Nat → Word → Nat
  | 0, _ => 0
  | n + 1, w => if w.getLsbD (63 - n) then 0 else trailZeros n w + 1
def popCount : Nat → Word → Nat
  | 0, _ => 0
  | n + 1, w => popCount n w + (w.getLsbD n).toNat
/-- The float in the low bits of a scalar register (R147). -/
def State.flt (s : State) (f : FFmt) (r : XReg) : FVal := f.decode ((s.x r).toNat % 2 ^ f.bits)
def CvtTy.flt : CvtTy → Option FFmt
  | .f16 => some .f16 | .bf16 => some .bf16 | .f32 => some .f32 | .f64 => some .f64 | .i64 => none
/-- FCVT's result (R147). -/
def scalarCvt (fr ty : CvtTy) (rm : Rm) (x : Word) : FRes :=
  match CvtTy.flt fr, CvtTy.flt ty with
  | some f, some t => roundVal t (.mode rm) (f.decode (x.toNat % 2 ^ f.bits))
  | some f, none => toInt 64 (.mode rm) (f.decode (x.toNat % 2 ^ f.bits))
  | none, some t => ofIntTo t rm x.toInt
  | none, none => ⟨x.toNat, 0⟩
/-- The bytes of one lane. -/
def laneMask (t : VType) (lane : Nat) : Mask :=
  BitVec.ofNat 128 ((2 ^ (t.bits / 8) - 1) * 2 ^ (t.bits / 8 * lane))

/-- ADD in slot C (R142). -/
def execAddC (h : CHdr) (d : XReg) (a : XReg) (b : XReg) (s : State) : Out :=
  .next (runSlot (.addC h d a b) s fun s => s.putX 0 1 d (s.x a + s.x b))
/-- ADD in slot S (R142). -/
def execAddS (g : PReg) (d : XReg) (a : XReg) (b : XReg) (s : State) : Out :=
  .next (runSlot (.addS g d a b) s fun s => s.putX 1 1 d (s.x a + s.x b))
/-- SUB in slot C (R142). -/
def execSubC (h : CHdr) (d : XReg) (a : XReg) (b : XReg) (s : State) : Out :=
  .next (runSlot (.subC h d a b) s fun s => s.putX 0 1 d (s.x a - s.x b))
/-- SUB in slot S (R142). -/
def execSubS (g : PReg) (d : XReg) (a : XReg) (b : XReg) (s : State) : Out :=
  .next (runSlot (.subS g d a b) s fun s => s.putX 1 1 d (s.x a - s.x b))
/-- AND in slot C (R142). -/
def execAndC (h : CHdr) (d : XReg) (a : XReg) (b : XReg) (s : State) : Out :=
  .next (runSlot (.andC h d a b) s fun s => s.putX 0 1 d (s.x a &&& s.x b))
/-- AND in slot S (R142). -/
def execAndS (g : PReg) (d : XReg) (a : XReg) (b : XReg) (s : State) : Out :=
  .next (runSlot (.andS g d a b) s fun s => s.putX 1 1 d (s.x a &&& s.x b))
/-- OR in slot C (R142). -/
def execOrC (h : CHdr) (d : XReg) (a : XReg) (b : XReg) (s : State) : Out :=
  .next (runSlot (.orC h d a b) s fun s => s.putX 0 1 d (s.x a ||| s.x b))
/-- OR in slot S (R142). -/
def execOrS (g : PReg) (d : XReg) (a : XReg) (b : XReg) (s : State) : Out :=
  .next (runSlot (.orS g d a b) s fun s => s.putX 1 1 d (s.x a ||| s.x b))
/-- XOR in slot C (R142). -/
def execXorC (h : CHdr) (d : XReg) (a : XReg) (b : XReg) (s : State) : Out :=
  .next (runSlot (.xorC h d a b) s fun s => s.putX 0 1 d (s.x a ^^^ s.x b))
/-- XOR in slot S (R142). -/
def execXorS (g : PReg) (d : XReg) (a : XReg) (b : XReg) (s : State) : Out :=
  .next (runSlot (.xorS g d a b) s fun s => s.putX 1 1 d (s.x a ^^^ s.x b))
/-- ANDN in slot C (R142). -/
def execAndnC (h : CHdr) (d : XReg) (a : XReg) (b : XReg) (s : State) : Out :=
  .next (runSlot (.andnC h d a b) s fun s => s.putX 0 1 d (s.x a &&& ~~~(s.x b)))
/-- ANDN in slot S (R142). -/
def execAndnS (g : PReg) (d : XReg) (a : XReg) (b : XReg) (s : State) : Out :=
  .next (runSlot (.andnS g d a b) s fun s => s.putX 1 1 d (s.x a &&& ~~~(s.x b)))
/-- SHL in slot C (R142). -/
def execShlC (h : CHdr) (d : XReg) (a : XReg) (b : XReg) (s : State) : Out :=
  .next (runSlot (.shlC h d a b) s fun s => s.putX 0 1 d (s.x a <<< shamt (s.x b)))
/-- SHL in slot S (R142). -/
def execShlS (g : PReg) (d : XReg) (a : XReg) (b : XReg) (s : State) : Out :=
  .next (runSlot (.shlS g d a b) s fun s => s.putX 1 1 d (s.x a <<< shamt (s.x b)))
/-- SHR in slot C (R142). -/
def execShrC (h : CHdr) (d : XReg) (a : XReg) (b : XReg) (s : State) : Out :=
  .next (runSlot (.shrC h d a b) s fun s => s.putX 0 1 d (s.x a >>> shamt (s.x b)))
/-- SHR in slot S (R142). -/
def execShrS (g : PReg) (d : XReg) (a : XReg) (b : XReg) (s : State) : Out :=
  .next (runSlot (.shrS g d a b) s fun s => s.putX 1 1 d (s.x a >>> shamt (s.x b)))
/-- SRA in slot C (R142). -/
def execSraC (h : CHdr) (d : XReg) (a : XReg) (b : XReg) (s : State) : Out :=
  .next (runSlot (.sraC h d a b) s fun s => s.putX 0 1 d ((s.x a).sshiftRight (shamt (s.x b))))
/-- SRA in slot S (R142). -/
def execSraS (g : PReg) (d : XReg) (a : XReg) (b : XReg) (s : State) : Out :=
  .next (runSlot (.sraS g d a b) s fun s => s.putX 1 1 d ((s.x a).sshiftRight (shamt (s.x b))))
/-- MIN (R142). -/
def execMinC (h : CHdr) (d : XReg) (a : XReg) (b : XReg) (s : State) : Out :=
  .next (runSlot (.minC h d a b) s fun s => s.putX 0 1 d (if (s.x a).toInt ≤ (s.x b).toInt then s.x a else s.x b))
/-- MAX (R142). -/
def execMaxC (h : CHdr) (d : XReg) (a : XReg) (b : XReg) (s : State) : Out :=
  .next (runSlot (.maxC h d a b) s fun s => s.putX 0 1 d (if (s.x a).toInt ≤ (s.x b).toInt then s.x b else s.x a))
/-- MINU (R142). -/
def execMinuC (h : CHdr) (d : XReg) (a : XReg) (b : XReg) (s : State) : Out :=
  .next (runSlot (.minuC h d a b) s fun s => s.putX 0 1 d (if (s.x a).toNat ≤ (s.x b).toNat then s.x a else s.x b))
/-- MAXU (R142). -/
def execMaxuC (h : CHdr) (d : XReg) (a : XReg) (b : XReg) (s : State) : Out :=
  .next (runSlot (.maxuC h d a b) s fun s => s.putX 0 1 d (if (s.x a).toNat ≤ (s.x b).toNat then s.x b else s.x a))
/-- ROL (R142). -/
def execRol (g : PReg) (d : XReg) (a : XReg) (b : XReg) (s : State) : Out :=
  .next (runSlot (.rol g d a b) s fun s => s.putX 1 1 d ((s.x a).rotateLeft (shamt (s.x b))))
/-- CLZ (R142). -/
def execClz (g : PReg) (d : XReg) (a : XReg) (s : State) : Out :=
  .next (runSlot (.clz g d a) s fun s => s.putX 1 1 d (BitVec.ofNat 64 (leadZeros 64 (s.x a))))
/-- CTZ (R142). -/
def execCtz (g : PReg) (d : XReg) (a : XReg) (s : State) : Out :=
  .next (runSlot (.ctz g d a) s fun s => s.putX 1 1 d (BitVec.ofNat 64 (trailZeros 64 (s.x a))))
/-- POPC (R142). -/
def execPopc (g : PReg) (d : XReg) (a : XReg) (s : State) : Out :=
  .next (runSlot (.popc g d a) s fun s => s.putX 1 1 d (BitVec.ofNat 64 (popCount 64 (s.x a))))
/-- LI in slot C (R143). -/
def execLiC (h : CHdr) (d : XReg) (imm : BitVec 12) (s : State) : Out :=
  .next (runSlot (.liC h d imm) s fun s => s.putX 0 1 d (imm.signExtend 64))
/-- ADDI in slot C (R143). -/
def execAddiC (h : CHdr) (d : XReg) (imm : BitVec 12) (s : State) : Out :=
  .next (runSlot (.addiC h d imm) s fun s => s.putX 0 1 d (s.x d + imm.signExtend 64))
/-- LIH in slot C (R143). -/
def execLihC (h : CHdr) (d : XReg) (imm : BitVec 12) (s : State) : Out :=
  .next (runSlot (.lihC h d imm) s fun s => s.putX 0 1 d (s.x d <<< 12 ||| imm.setWidth 64))
/-- LI in slot S (R143). -/
def execLiS (g : PReg) (d : XReg) (imm : BitVec 16) (s : State) : Out :=
  .next (runSlot (.liS g d imm) s fun s => s.putX 1 1 d (imm.signExtend 64))
/-- ADDI in slot S (R143). -/
def execAddiS (g : PReg) (d : XReg) (imm : BitVec 16) (s : State) : Out :=
  .next (runSlot (.addiS g d imm) s fun s => s.putX 1 1 d (s.x d + imm.signExtend 64))
/-- LIH in slot S (R143). -/
def execLihS (g : PReg) (d : XReg) (imm : BitVec 16) (s : State) : Out :=
  .next (runSlot (.lihS g d imm) s fun s => s.putX 1 1 d (s.x d <<< 16 ||| imm.setWidth 64))
/-- MUL (R144). -/
def execMul (g : PReg) (d : XReg) (a : XReg) (b : XReg) (s : State) : Out :=
  .next (runSlot (.mul g d a b) s fun s => s.putX 1 3 d (BitVec.ofInt 64 ((s.x a).toInt * (s.x b).toInt)))
/-- MULH (R144). -/
def execMulh (g : PReg) (d : XReg) (a : XReg) (b : XReg) (s : State) : Out :=
  .next (runSlot (.mulh g d a b) s fun s => s.putX 1 3 d (BitVec.ofInt 64 ((s.x a).toInt * (s.x b).toInt / 2 ^ 64)))
/-- MULHU (R144). -/
def execMulhu (g : PReg) (d : XReg) (a : XReg) (b : XReg) (s : State) : Out :=
  .next (runSlot (.mulhu g d a b) s fun s => s.putX 1 3 d (BitVec.ofNat 64 ((s.x a).toNat * (s.x b).toNat / 2 ^ 64)))
/-- DIV (R144); a divisor of 0 raises INT_DIVZERO. -/
def execDiv (g : PReg) (d : XReg) (a : XReg) (b : XReg) (s : State) : Out :=
  .next (runSlot (.div g d a b) s fun s => 
    let q := if s.x b = 0 then BitVec.allOnes 64 else BitVec.ofInt 64 (Int.tdiv (s.x a).toInt (s.x b).toInt)
    s.arith 1 (causeIf (s.x b = 0) Causes.intDivzero) 0 fun s => s.putX 1 18 d q)
/-- DIVU (R144); a divisor of 0 raises INT_DIVZERO. -/
def execDivu (g : PReg) (d : XReg) (a : XReg) (b : XReg) (s : State) : Out :=
  .next (runSlot (.divu g d a b) s fun s => 
    let q := if s.x b = 0 then BitVec.allOnes 64 else BitVec.ofNat 64 ((s.x a).toNat / (s.x b).toNat)
    s.arith 1 (causeIf (s.x b = 0) Causes.intDivzero) 0 fun s => s.putX 1 18 d q)
/-- REM (R144); a divisor of 0 raises INT_DIVZERO. -/
def execRem (g : PReg) (d : XReg) (a : XReg) (b : XReg) (s : State) : Out :=
  .next (runSlot (.rem g d a b) s fun s => 
    let q := if s.x b = 0 then s.x a else BitVec.ofInt 64 (Int.tmod (s.x a).toInt (s.x b).toInt)
    s.arith 1 (causeIf (s.x b = 0) Causes.intDivzero) 0 fun s => s.putX 1 18 d q)
/-- REMU (R144); a divisor of 0 raises INT_DIVZERO. -/
def execRemu (g : PReg) (d : XReg) (a : XReg) (b : XReg) (s : State) : Out :=
  .next (runSlot (.remu g d a b) s fun s => 
    let q := if s.x b = 0 then s.x a else BitVec.ofNat 64 ((s.x a).toNat % (s.x b).toNat)
    s.arith 1 (causeIf (s.x b = 0) Causes.intDivzero) 0 fun s => s.putX 1 18 d q)
/-- CMPEQ in slot C (R145). -/
def execCmpeqC (h : CHdr) (pd : PReg) (a : XReg) (b : XReg) (s : State) : Out :=
  .next (runSlot (.cmpeqC h pd a b) s fun s => s.putPair 0 1 pd (decide (s.x a = s.x b)))
/-- CMPEQ in slot S (R145). -/
def execCmpeqS (g : PReg) (pd : PReg) (a : XReg) (b : XReg) (s : State) : Out :=
  .next (runSlot (.cmpeqS g pd a b) s fun s => s.putPair 1 1 pd (decide (s.x a = s.x b)))
/-- CMPLT in slot C (R145). -/
def execCmpltC (h : CHdr) (pd : PReg) (a : XReg) (b : XReg) (s : State) : Out :=
  .next (runSlot (.cmpltC h pd a b) s fun s => s.putPair 0 1 pd (decide ((s.x a).toInt < (s.x b).toInt)))
/-- CMPLT in slot S (R145). -/
def execCmpltS (g : PReg) (pd : PReg) (a : XReg) (b : XReg) (s : State) : Out :=
  .next (runSlot (.cmpltS g pd a b) s fun s => s.putPair 1 1 pd (decide ((s.x a).toInt < (s.x b).toInt)))
/-- CMPLTU in slot C (R145). -/
def execCmpltuC (h : CHdr) (pd : PReg) (a : XReg) (b : XReg) (s : State) : Out :=
  .next (runSlot (.cmpltuC h pd a b) s fun s => s.putPair 0 1 pd (decide ((s.x a).toNat < (s.x b).toNat)))
/-- CMPLTU in slot S (R145). -/
def execCmpltuS (g : PReg) (pd : PReg) (a : XReg) (b : XReg) (s : State) : Out :=
  .next (runSlot (.cmpltuS g pd a b) s fun s => s.putPair 1 1 pd (decide ((s.x a).toNat < (s.x b).toNat)))
/-- CMPLE in slot C (R145). -/
def execCmpleC (h : CHdr) (pd : PReg) (a : XReg) (b : XReg) (s : State) : Out :=
  .next (runSlot (.cmpleC h pd a b) s fun s => s.putPair 0 1 pd (decide ((s.x a).toInt ≤ (s.x b).toInt)))
/-- CMPLE in slot S (R145). -/
def execCmpleS (g : PReg) (pd : PReg) (a : XReg) (b : XReg) (s : State) : Out :=
  .next (runSlot (.cmpleS g pd a b) s fun s => s.putPair 1 1 pd (decide ((s.x a).toInt ≤ (s.x b).toInt)))
/-- CMPLEU in slot C (R145). -/
def execCmpleuC (h : CHdr) (pd : PReg) (a : XReg) (b : XReg) (s : State) : Out :=
  .next (runSlot (.cmpleuC h pd a b) s fun s => s.putPair 0 1 pd (decide ((s.x a).toNat ≤ (s.x b).toNat)))
/-- CMPLEU in slot S (R145). -/
def execCmpleuS (g : PReg) (pd : PReg) (a : XReg) (b : XReg) (s : State) : Out :=
  .next (runSlot (.cmpleuS g pd a b) s fun s => s.putPair 1 1 pd (decide ((s.x a).toNat ≤ (s.x b).toNat)))
/-- CMPEQI (R145). -/
def execCmpeqi (h : CHdr) (pd : PReg) (a : XReg) (imm : BitVec 8) (s : State) : Out :=
  .next (runSlot (.cmpeqi h pd a imm) s fun s => s.putPair 0 1 pd (decide (s.x a = imm.signExtend 64)))
/-- CMPLTI (R145). -/
def execCmplti (h : CHdr) (pd : PReg) (a : XReg) (imm : BitVec 8) (s : State) : Out :=
  .next (runSlot (.cmplti h pd a imm) s fun s => s.putPair 0 1 pd (decide ((s.x a).toInt < imm.toInt)))
/-- PAND (R146). -/
def execPand (h : CHdr) (pd : PReg) (pa : PReg) (pb : PReg) (s : State) : Out :=
  .next (runSlot (.pand h pd pa pb) s fun s => s.putP 0 1 pd (s.p pa && s.p pb))
/-- POR (R146). -/
def execPor (h : CHdr) (pd : PReg) (pa : PReg) (pb : PReg) (s : State) : Out :=
  .next (runSlot (.por h pd pa pb) s fun s => s.putP 0 1 pd (s.p pa || s.p pb))
/-- PXOR (R146). -/
def execPxor (h : CHdr) (pd : PReg) (pa : PReg) (pb : PReg) (s : State) : Out :=
  .next (runSlot (.pxor h pd pa pb) s fun s => s.putP 0 1 pd (s.p pa ^^ s.p pb))
/-- PANDN (R146). -/
def execPandn (h : CHdr) (pd : PReg) (pa : PReg) (pb : PReg) (s : State) : Out :=
  .next (runSlot (.pandn h pd pa pb) s fun s => s.putP 0 1 pd (s.p pa && !s.p pb))
/-- SEL (R146). -/
def execSel (g : PReg) (d : XReg) (a : XReg) (b : XReg) (pc : PReg) (s : State) : Out :=
  .next (runSlot (.sel g d a b pc) s fun s => s.putX 1 1 d (if s.p pc then s.x a else s.x b))
/-- MOVP (R146). -/
def execMovp (g : PReg) (d : XReg) (pa : PReg) (s : State) : Out :=
  .next (runSlot (.movp g d pa) s fun s => s.putX 1 1 d (BitVec.ofNat 64 (s.p pa).toNat))
/-- PMOV (R146). -/
def execPmov (g : PReg) (pd : PReg) (a : XReg) (s : State) : Out :=
  .next (runSlot (.pmov g pd a) s fun s => s.putP 1 1 pd ((s.x a).getLsbD 0))
/-- FADD (R147). -/
def execFadd (g : PReg) (f : FFmt) (rm : Rm) (d : XReg) (a : XReg) (b : XReg) (s : State) : Out :=
  .next (runSlot (.fadd g f rm d a b) s fun s => 
    let r := Sys2Proof.fadd f rm (s.flt f a) (s.flt f b)
    s.arith 1 r.fl 0 fun s => s.putX 1 4 d (BitVec.ofNat 64 r.bits))
/-- FSUB (R147). -/
def execFsub (g : PReg) (f : FFmt) (rm : Rm) (d : XReg) (a : XReg) (b : XReg) (s : State) : Out :=
  .next (runSlot (.fsub g f rm d a b) s fun s => 
    let r := Sys2Proof.fadd f rm (s.flt f a) (s.flt f b).negate
    s.arith 1 r.fl 0 fun s => s.putX 1 4 d (BitVec.ofNat 64 r.bits))
/-- FMUL (R147). -/
def execFmul (g : PReg) (f : FFmt) (rm : Rm) (d : XReg) (a : XReg) (b : XReg) (s : State) : Out :=
  .next (runSlot (.fmul g f rm d a b) s fun s => 
    let r := Sys2Proof.fmul f rm (s.flt f a) (s.flt f b)
    s.arith 1 r.fl 0 fun s => s.putX 1 4 d (BitVec.ofNat 64 r.bits))
/-- FFMA (R147): one rounding, the old xd as the addend. -/
def execFfma (g : PReg) (f : FFmt) (rm : Rm) (d : XReg) (a : XReg) (b : XReg) (s : State) : Out :=
  .next (runSlot (.ffma g f rm d a b) s fun s => 
    let r := Sys2Proof.ffma f rm (s.flt f a) (s.flt f b) (s.flt f d)
    s.arith 1 r.fl 0 fun s => s.putX 1 4 d (BitVec.ofNat 64 r.bits))
/-- FCMP (R147). -/
def execFcmp (g : PReg) (f : FFmt) (c : FCond) (pd : PReg) (a : XReg) (b : XReg) (s : State) : Out :=
  .next (runSlot (.fcmp g f c pd a b) s fun s => 
    let r := fcompare c (s.flt f a) (s.flt f b)
    s.arith 1 r.2 0 fun s => s.putPair 1 4 pd r.1)
/-- FCVT (R147). -/
def execFcvt (g : PReg) (fr : CvtTy) (ty : CvtTy) (rm : Rm) (d : XReg) (a : XReg) (s : State) : Out :=
  .next (runSlot (.fcvt g fr ty rm d a) s fun s => 
    let r := scalarCvt fr ty rm (s.x a)
    s.arith 1 r.fl 0 fun s => s.putX 1 4 d (BitVec.ofNat 64 r.bits))
/-- XV (R148): one lane to a scalar register. -/
def execXv (g : PReg) (t : VType) (lane : BitVec 7) (d : XReg) (va : VSel) (s : State) : Out :=
  .next (runSlot (.xv g t lane d va) s fun s => 
    let e := Sys2Proof.lane t.bits (s.v va) lane.toNat
    s.putX 1 1 d (if t.isInt then BitVec.ofInt 64 (sextNat t.bits e) else BitVec.ofNat 64 e))
/-- VX (R148): one lane from a scalar register, the other lanes kept. -/
def execVx (g : PReg) (t : VType) (lane : BitVec 7) (vd : VSel) (a : XReg) (s : State) : Out :=
  .next (runSlot (.vx g t lane vd a) s fun s => 
    s.later 1 1 (.vec (s.vDst vd) (BitVec.ofNat 1024 ((s.x a).toNat % 2 ^ t.bits * 2 ^ (t.bits * lane.toNat)))
      (laneMask t lane.toNat) none))

end Sys2Proof.Machine
end

