-- ==== Sys2Proof/Machine/Dispatch.lean ====
section
/-!
DEFINITION. Machine/Dispatch.lean: one arm per instruction of the opcode table, each a call of its meaning.
-/
namespace Sys2Proof.Machine

/-- The meaning of an instruction: a slot of a bundle, or a machine step. -/
def exec (i : Instr) (s : State) : Host.Outcome State Fault Refusal :=
  match i with
  | .nop => Sys2Proof.Machine.execNop s
  | .hold n => Sys2Proof.Machine.execHold n s
  | .addC h d a b => Sys2Proof.Machine.execAddC h d a b s
  | .addS g d a b => Sys2Proof.Machine.execAddS g d a b s
  | .subC h d a b => Sys2Proof.Machine.execSubC h d a b s
  | .subS g d a b => Sys2Proof.Machine.execSubS g d a b s
  | .andC h d a b => Sys2Proof.Machine.execAndC h d a b s
  | .andS g d a b => Sys2Proof.Machine.execAndS g d a b s
  | .orC h d a b => Sys2Proof.Machine.execOrC h d a b s
  | .orS g d a b => Sys2Proof.Machine.execOrS g d a b s
  | .xorC h d a b => Sys2Proof.Machine.execXorC h d a b s
  | .xorS g d a b => Sys2Proof.Machine.execXorS g d a b s
  | .andnC h d a b => Sys2Proof.Machine.execAndnC h d a b s
  | .andnS g d a b => Sys2Proof.Machine.execAndnS g d a b s
  | .shlC h d a b => Sys2Proof.Machine.execShlC h d a b s
  | .shlS g d a b => Sys2Proof.Machine.execShlS g d a b s
  | .shrC h d a b => Sys2Proof.Machine.execShrC h d a b s
  | .shrS g d a b => Sys2Proof.Machine.execShrS g d a b s
  | .sraC h d a b => Sys2Proof.Machine.execSraC h d a b s
  | .sraS g d a b => Sys2Proof.Machine.execSraS g d a b s
  | .minC h d a b => Sys2Proof.Machine.execMinC h d a b s
  | .maxC h d a b => Sys2Proof.Machine.execMaxC h d a b s
  | .minuC h d a b => Sys2Proof.Machine.execMinuC h d a b s
  | .maxuC h d a b => Sys2Proof.Machine.execMaxuC h d a b s
  | .rol g d a b => Sys2Proof.Machine.execRol g d a b s
  | .clz g d a => Sys2Proof.Machine.execClz g d a s
  | .ctz g d a => Sys2Proof.Machine.execCtz g d a s
  | .popc g d a => Sys2Proof.Machine.execPopc g d a s
  | .liC h d imm => Sys2Proof.Machine.execLiC h d imm s
  | .liS g d imm => Sys2Proof.Machine.execLiS g d imm s
  | .addiC h d imm => Sys2Proof.Machine.execAddiC h d imm s
  | .addiS g d imm => Sys2Proof.Machine.execAddiS g d imm s
  | .lihC h d imm => Sys2Proof.Machine.execLihC h d imm s
  | .lihS g d imm => Sys2Proof.Machine.execLihS g d imm s
  | .mul g d a b => Sys2Proof.Machine.execMul g d a b s
  | .mulh g d a b => Sys2Proof.Machine.execMulh g d a b s
  | .mulhu g d a b => Sys2Proof.Machine.execMulhu g d a b s
  | .div g d a b => Sys2Proof.Machine.execDiv g d a b s
  | .divu g d a b => Sys2Proof.Machine.execDivu g d a b s
  | .rem g d a b => Sys2Proof.Machine.execRem g d a b s
  | .remu g d a b => Sys2Proof.Machine.execRemu g d a b s
  | .cmpeqC h pd a b => Sys2Proof.Machine.execCmpeqC h pd a b s
  | .cmpeqS g pd a b => Sys2Proof.Machine.execCmpeqS g pd a b s
  | .cmpltC h pd a b => Sys2Proof.Machine.execCmpltC h pd a b s
  | .cmpltS g pd a b => Sys2Proof.Machine.execCmpltS g pd a b s
  | .cmpltuC h pd a b => Sys2Proof.Machine.execCmpltuC h pd a b s
  | .cmpltuS g pd a b => Sys2Proof.Machine.execCmpltuS g pd a b s
  | .cmpleC h pd a b => Sys2Proof.Machine.execCmpleC h pd a b s
  | .cmpleS g pd a b => Sys2Proof.Machine.execCmpleS g pd a b s
  | .cmpleuC h pd a b => Sys2Proof.Machine.execCmpleuC h pd a b s
  | .cmpleuS g pd a b => Sys2Proof.Machine.execCmpleuS g pd a b s
  | .cmpeqi h pd a imm => Sys2Proof.Machine.execCmpeqi h pd a imm s
  | .cmplti h pd a imm => Sys2Proof.Machine.execCmplti h pd a imm s
  | .pand h pd pa pb => Sys2Proof.Machine.execPand h pd pa pb s
  | .por h pd pa pb => Sys2Proof.Machine.execPor h pd pa pb s
  | .pxor h pd pa pb => Sys2Proof.Machine.execPxor h pd pa pb s
  | .pandn h pd pa pb => Sys2Proof.Machine.execPandn h pd pa pb s
  | .sel g d a b pc => Sys2Proof.Machine.execSel g d a b pc s
  | .movp g d pa => Sys2Proof.Machine.execMovp g d pa s
  | .pmov g pd a => Sys2Proof.Machine.execPmov g pd a s
  | .fadd g f rm d a b => Sys2Proof.Machine.execFadd g f rm d a b s
  | .fsub g f rm d a b => Sys2Proof.Machine.execFsub g f rm d a b s
  | .fmul g f rm d a b => Sys2Proof.Machine.execFmul g f rm d a b s
  | .ffma g f rm d a b => Sys2Proof.Machine.execFfma g f rm d a b s
  | .fcmp g f c pd a b => Sys2Proof.Machine.execFcmp g f c pd a b s
  | .fcvt g fr ty rm d a => Sys2Proof.Machine.execFcvt g fr ty rm d a s
  | .xv g t lane d va => Sys2Proof.Machine.execXv g t lane d va s
  | .vx g t lane vd a => Sys2Proof.Machine.execVx g t lane vd a s
  | .pbr h t off => Sys2Proof.Machine.execPbr h t off s
  | .pbrx h t a => Sys2Proof.Machine.execPbrx h t a s
  | .br h t => Sys2Proof.Machine.execBr h t s
  | .call h t => Sys2Proof.Machine.execCall h t s
  | .ret h => Sys2Proof.Machine.execRet h s
  | .loop h a ec => Sys2Proof.Machine.execLoop h a ec s
  | .brl h t => Sys2Proof.Machine.execBrl h t s
  | .segb h => Sys2Proof.Machine.execSegb h s
  | .phend h => Sys2Proof.Machine.execPhend h s
  | .tend h => Sys2Proof.Machine.execTend h s
  | .realign h => Sys2Proof.Machine.execRealign h s
  | .trap h code => Sys2Proof.Machine.execTrap h code s
  | .rdc h d n => Sys2Proof.Machine.execRdc h d n s
  | .wrc h a n => Sys2Proof.Machine.execWrc h a n s
  | .ifence h => Sys2Proof.Machine.execIfence h s
  | .uiret h => Sys2Proof.Machine.execUiret h s
  | .waiti h => Sys2Proof.Machine.execWaiti h s
  | .vaddV0 h d a b => Sys2Proof.Machine.execVaddV0 h d a b s
  | .vaddV1 h d a b => Sys2Proof.Machine.execVaddV1 h d a b s
  | .vaddV2 h d a b => Sys2Proof.Machine.execVaddV2 h d a b s
  | .vsubV0 h d a b => Sys2Proof.Machine.execVsubV0 h d a b s
  | .vsubV1 h d a b => Sys2Proof.Machine.execVsubV1 h d a b s
  | .vsubV2 h d a b => Sys2Proof.Machine.execVsubV2 h d a b s
  | .vmulV0 h d a b => Sys2Proof.Machine.execVmulV0 h d a b s
  | .vmulV1 h d a b => Sys2Proof.Machine.execVmulV1 h d a b s
  | .vmulV2 h d a b => Sys2Proof.Machine.execVmulV2 h d a b s
  | .vfmaV0 h d a b => Sys2Proof.Machine.execVfmaV0 h d a b s
  | .vfmaV1 h d a b => Sys2Proof.Machine.execVfmaV1 h d a b s
  | .vfmaV2 h d a b => Sys2Proof.Machine.execVfmaV2 h d a b s
  | .vfmsV0 h d a b => Sys2Proof.Machine.execVfmsV0 h d a b s
  | .vfmsV1 h d a b => Sys2Proof.Machine.execVfmsV1 h d a b s
  | .vminV0 h d a b => Sys2Proof.Machine.execVminV0 h d a b s
  | .vminV1 h d a b => Sys2Proof.Machine.execVminV1 h d a b s
  | .vminV2 h d a b => Sys2Proof.Machine.execVminV2 h d a b s
  | .vmaxV0 h d a b => Sys2Proof.Machine.execVmaxV0 h d a b s
  | .vmaxV1 h d a b => Sys2Proof.Machine.execVmaxV1 h d a b s
  | .vmaxV2 h d a b => Sys2Proof.Machine.execVmaxV2 h d a b s
  | .vminuV0 h d a b => Sys2Proof.Machine.execVminuV0 h d a b s
  | .vminuV1 h d a b => Sys2Proof.Machine.execVminuV1 h d a b s
  | .vmaxuV0 h d a b => Sys2Proof.Machine.execVmaxuV0 h d a b s
  | .vmaxuV1 h d a b => Sys2Proof.Machine.execVmaxuV1 h d a b s
  | .vandV0 h d a b => Sys2Proof.Machine.execVandV0 h d a b s
  | .vandV1 h d a b => Sys2Proof.Machine.execVandV1 h d a b s
  | .vorV0 h d a b => Sys2Proof.Machine.execVorV0 h d a b s
  | .vorV1 h d a b => Sys2Proof.Machine.execVorV1 h d a b s
  | .vxorV0 h d a b => Sys2Proof.Machine.execVxorV0 h d a b s
  | .vxorV1 h d a b => Sys2Proof.Machine.execVxorV1 h d a b s
  | .vandn h d a b => Sys2Proof.Machine.execVandn h d a b s
  | .vshl h d a b => Sys2Proof.Machine.execVshl h d a b s
  | .vshr h d a b => Sys2Proof.Machine.execVshr h d a b s
  | .vsra h d a b => Sys2Proof.Machine.execVsra h d a b s
  | .vabsV0 h d a => Sys2Proof.Machine.execVabsV0 h d a s
  | .vabsV1 h d a => Sys2Proof.Machine.execVabsV1 h d a s
  | .vnegV0 h d a => Sys2Proof.Machine.execVnegV0 h d a s
  | .vnegV1 h d a => Sys2Proof.Machine.execVnegV1 h d a s
  | .vmovV0 h d a => Sys2Proof.Machine.execVmovV0 h d a s
  | .vmovV1 h d a => Sys2Proof.Machine.execVmovV1 h d a s
  | .vmovV2 h d a => Sys2Proof.Machine.execVmovV2 h d a s
  | .vcmpeqV0 h md a b => Sys2Proof.Machine.execVcmpeqV0 h md a b s
  | .vcmpeqV1 h md a b => Sys2Proof.Machine.execVcmpeqV1 h md a b s
  | .vcmpeqV2 h md a b => Sys2Proof.Machine.execVcmpeqV2 h md a b s
  | .vcmpltV0 h md a b => Sys2Proof.Machine.execVcmpltV0 h md a b s
  | .vcmpltV1 h md a b => Sys2Proof.Machine.execVcmpltV1 h md a b s
  | .vcmpltV2 h md a b => Sys2Proof.Machine.execVcmpltV2 h md a b s
  | .vcmpleV0 h md a b => Sys2Proof.Machine.execVcmpleV0 h md a b s
  | .vcmpleV1 h md a b => Sys2Proof.Machine.execVcmpleV1 h md a b s
  | .vselV0 h d a b => Sys2Proof.Machine.execVselV0 h d a b s
  | .vselV1 h d a b => Sys2Proof.Machine.execVselV1 h d a b s
  | .vselV2 h d a b => Sys2Proof.Machine.execVselV2 h d a b s
  | .vclamp h d a b => Sys2Proof.Machine.execVclamp h d a b s
  | .vcvtV0 h d a rm fr => Sys2Proof.Machine.execVcvtV0 h d a rm fr s
  | .vcvtV1 h d a rm fr => Sys2Proof.Machine.execVcvtV1 h d a rm fr s
  | .vcvtV2 h d a rm fr => Sys2Proof.Machine.execVcvtV2 h d a rm fr s
  | .vrnd h d a rm => Sys2Proof.Machine.execVrnd h d a rm s
  | .vldexp h d a b => Sys2Proof.Machine.execVldexp h d a b s
  | .vexpo h d a => Sys2Proof.Machine.execVexpo h d a s
  | .vmaxexp h d a => Sys2Proof.Machine.execVmaxexp h d a s
  | .vshuf h d a b => Sys2Proof.Machine.execVshuf h d a b s
  | .vrotl h d a k => Sys2Proof.Machine.execVrotl h d a k s
  | .vbcl h d a k => Sys2Proof.Machine.execVbcl h d a k s
  | .vpack h d a b => Sys2Proof.Machine.execVpack h d a b s
  | .vunpk h d a hi zx => Sys2Proof.Machine.execVunpk h d a hi zx s
  | .vraddV1 h d a => Sys2Proof.Machine.execVraddV1 h d a s
  | .vraddV2 h d a => Sys2Proof.Machine.execVraddV2 h d a s
  | .vrmaxV1 h d a => Sys2Proof.Machine.execVrmaxV1 h d a s
  | .vrmaxV2 h d a => Sys2Proof.Machine.execVrmaxV2 h d a s
  | .vrmin h d a => Sys2Proof.Machine.execVrmin h d a s
  | .vscan h d a op => Sys2Proof.Machine.execVscan h d a op s
  | .vexp2 h d a => Sys2Proof.Machine.execVexp2 h d a s
  | .vlog2 h d a => Sys2Proof.Machine.execVlog2 h d a s
  | .vrcp h d a => Sys2Proof.Machine.execVrcp h d a s
  | .vrsq h d a => Sys2Proof.Machine.execVrsq h d a s
  | .vsqrt h d a => Sys2Proof.Machine.execVsqrt h d a s
  | .vtanh h d a => Sys2Proof.Machine.execVtanh h d a s
  | .vsigm h d a => Sys2Proof.Machine.execVsigm h d a s
  | .vsin h d a => Sys2Proof.Machine.execVsin h d a s
  | .vcos h d a => Sys2Proof.Machine.execVcos h d a s
  | .verf h d a => Sys2Proof.Machine.execVerf h d a s
  | .xacc g bank f a b si sj dr db => Sys2Proof.Machine.execXacc g bank f a b si sj dr db s
  | .xaccz g bank f a b si sj dr db => Sys2Proof.Machine.execXaccz g bank f a b si sj dr db s
  | .xzero g bank dr db => Sys2Proof.Machine.execXzero g bank dr db s
  | .xdrn g dr db => Sys2Proof.Machine.execXdrn g dr db s
  | .ld g v a off => Sys2Proof.Machine.execLd g v a off s
  | .st g v a off => Sys2Proof.Machine.execSt g v a off s
  | .stm g v a off => Sys2Proof.Machine.execStm g v a off s
  | .ldt g v a off => Sys2Proof.Machine.execLdt g v a off s
  | .ldb g v a off => Sys2Proof.Machine.execLdb g v a off s
  | .ldx g v a b => Sys2Proof.Machine.execLdx g v a b s
  | .stx g v a b => Sys2Proof.Machine.execStx g v a b s
  | .rmrg g vd va a => Sys2Proof.Machine.execRmrg g vd va a s
  | .gld g v a off => Sys2Proof.Machine.execGld g v a off s
  | .gst g v a off => Sys2Proof.Machine.execGst g v a off s
  | .aopAdd g d a b => Sys2Proof.Machine.execAopAdd g d a b s
  | .aopFadd32 g d a b => Sys2Proof.Machine.execAopFadd32 g d a b s
  | .aopMin g d a b => Sys2Proof.Machine.execAopMin g d a b s
  | .aopMax g d a b => Sys2Proof.Machine.execAopMax g d a b s
  | .aopMinu g d a b => Sys2Proof.Machine.execAopMinu g d a b s
  | .aopMaxu g d a b => Sys2Proof.Machine.execAopMaxu g d a b s
  | .aopAnd g d a b => Sys2Proof.Machine.execAopAnd g d a b s
  | .aopOr g d a b => Sys2Proof.Machine.execAopOr g d a b s
  | .aopXor g d a b => Sys2Proof.Machine.execAopXor g d a b s
  | .aopXchg g d a b => Sys2Proof.Machine.execAopXchg g d a b s
  | .aopCas g d a b => Sys2Proof.Machine.execAopCas g d a b s
  | .rwlRdacq g d a pd => Sys2Proof.Machine.execRwlRdacq g d a pd s
  | .rwlRdrel g d a pd => Sys2Proof.Machine.execRwlRdrel g d a pd s
  | .rwlWracq g d a pd => Sys2Proof.Machine.execRwlWracq g d a pd s
  | .rwlWrrel g d a pd => Sys2Proof.Machine.execRwlWrrel g d a pd s
  | .rwlSetpref g d a pd => Sys2Proof.Machine.execRwlSetpref g d a pd s
  | .fenceAcq g sc => Sys2Proof.Machine.execFenceAcq g sc s
  | .fenceRel g sc => Sys2Proof.Machine.execFenceRel g sc s
  | .fenceFull g sc => Sys2Proof.Machine.execFenceFull g sc s
  | .sbind g q a => Sys2Proof.Machine.execSbind g q a s
  | .sfree g q => Sys2Proof.Machine.execSfree g q s
  | .sadv g q n => Sys2Proof.Machine.execSadv g q n s
  | .gls g gd first va vb => Sys2Proof.Machine.execGls g gd first va vb s
  | .zld g gd va => Sys2Proof.Machine.execZld g gd va s
  | .eld g gd va vb => Sys2Proof.Machine.execEld g gd va vb s
  | .xcfg g bank a => Sys2Proof.Machine.execXcfg g bank a s
  | .xmaskRow g ma a => Sys2Proof.Machine.execXmaskRow g ma a s
  | .xmaskFill g => Sys2Proof.Machine.execXmaskFill g s
  | .xmaskInv g => Sys2Proof.Machine.execXmaskInv g s
  | .btake g a => Sys2Proof.Machine.execBtake g a s
  | .bgive g a b => Sys2Proof.Machine.execBgive g a b s
  | .bpub g a => Sys2Proof.Machine.execBpub g a s
  | .bret g a => Sys2Proof.Machine.execBret g a s
  | .jsub g d a => Sys2Proof.Machine.execJsub g d a s
  | .jcan g a => Sys2Proof.Machine.execJcan g a s
  | .barmSet g bar a ui => Sys2Proof.Machine.execBarmSet g bar a ui s
  | .barmAdd g bar a ui => Sys2Proof.Machine.execBarmAdd g bar a ui s
  | .barq g d bar => Sys2Proof.Machine.execBarq g d bar s
  | .uien g a => Sys2Proof.Machine.execUien g a s
  | .tqbind g a => Sys2Proof.Machine.execTqbind g a s
  | .tqfl g q => Sys2Proof.Machine.execTqfl g q s
  | .nmsub g d a => Sys2Proof.Machine.execNmsub g d a s
  | .nmfn g d a => Sys2Proof.Machine.execNmfn g d a s
  | .phsel g pk => Sys2Proof.Machine.execPhsel g pk s
  | .phld g bank a n1 => Sys2Proof.Machine.execPhld g bank a n1 s
  | .lnch g d a => Sys2Proof.Machine.execLnch g d a s
  | .cancLaunch g a => Sys2Proof.Machine.execCancLaunch g a s
  | .cancGraph g a => Sys2Proof.Machine.execCancGraph g a s
  | .cancPhase g a => Sys2Proof.Machine.execCancPhase g a s
  | .cancJob g a => Sys2Proof.Machine.execCancJob g a s
  | .smpsub g d a => Sys2Proof.Machine.execSmpsub g d a s
  | .seedq g d => Sys2Proof.Machine.execSeedq g d s
  | .untimedResultLand id => Sys2Proof.Machine.execUntimedResultLand id s
  | .homeAccess id => Sys2Proof.Machine.execHomeAccess id s
  | .writeAck id => Sys2Proof.Machine.execWriteAck id s
  | .localStreamFill k q => Sys2Proof.Machine.execLocalStreamFill k q s
  | .streamRequest k q => Sys2Proof.Machine.execStreamRequest k q s
  | .ringLanding id => Sys2Proof.Machine.execRingLanding id s
  | .ringStageFill k q => Sys2Proof.Machine.execRingStageFill k q s
  | .transposerRead k => Sys2Proof.Machine.execTransposerRead k s
  | .peerReadServe k => Sys2Proof.Machine.execPeerReadServe k s
  | .freezeAnnounce k src inst => Sys2Proof.Machine.execFreezeAnnounce k src inst s
  | .freezeTakeEffect k => Sys2Proof.Machine.execFreezeTakeEffect k s
  | .freezeResume k => Sys2Proof.Machine.execFreezeResume k s
  | .freezeTimeout k => Sys2Proof.Machine.execFreezeTimeout k s
  | .groupStop k => Sys2Proof.Machine.execGroupStop k s
  | .bodyLengthExceeded k => Sys2Proof.Machine.execBodyLengthExceeded k s
  | .weirFreezeRequest k => Sys2Proof.Machine.execWeirFreezeRequest k s
  | .clockStretch r => Sys2Proof.Machine.execClockStretch r s
  | .stretchFreeze r => Sys2Proof.Machine.execStretchFreeze r s
  | .criticalMargin r => Sys2Proof.Machine.execCriticalMargin r s
  | .opctlGoSync => Sys2Proof.Machine.execOpctlGoSync s
  | .opctlGoRunning => Sys2Proof.Machine.execOpctlGoRunning s
  | .opSwitch => Sys2Proof.Machine.execOpSwitch s
  | .runningRampStep => Sys2Proof.Machine.execRunningRampStep s
  | .powerLoop watts temp => Sys2Proof.Machine.execPowerLoop watts temp s
  | .pfWindowEnd => Sys2Proof.Machine.execPfWindowEnd s
  | .trapactContinue k comp => Sys2Proof.Machine.execTrapactContinue k comp s
  | .trapactAbort k comp => Sys2Proof.Machine.execTrapactAbort k comp s
  | .groupResume k => Sys2Proof.Machine.execGroupResume k s
  | .uiDeliver k => Sys2Proof.Machine.execUiDeliver k s
  | .slotStart => Sys2Proof.Machine.execSlotStart s
  | .preemptStop k => Sys2Proof.Machine.execPreemptStop k s
  | .preemptSave k => Sys2Proof.Machine.execPreemptSave k s
  | .preemptResume k => Sys2Proof.Machine.execPreemptResume k s
  | .phldLoadDone bank => Sys2Proof.Machine.execPhldLoadDone bank s
  | .phaseLatch => Sys2Proof.Machine.execPhaseLatch s
  | .pageRequestAnswer va => Sys2Proof.Machine.execPageRequestAnswer va s
  | .refreshDebtRepaid => Sys2Proof.Machine.execRefreshDebtRepaid s
  | .sluiceLastArrival => Sys2Proof.Machine.execSluiceLastArrival s
  | .slackOverrun => Sys2Proof.Machine.execSlackOverrun s
  | .phaseStart k => Sys2Proof.Machine.execPhaseStart k s
  | .seqctlGo => Sys2Proof.Machine.execSeqctlGo s
  | .seqctlAbort => Sys2Proof.Machine.execSeqctlAbort s
  | .partitionPeriod => Sys2Proof.Machine.execPartitionPeriod s
  | .jcopy cl serial => Sys2Proof.Machine.execJcopy cl serial s
  | .jcopyt cl serial => Sys2Proof.Machine.execJcopyt cl serial s
  | .jgather cl serial => Sys2Proof.Machine.execJgather cl serial s
  | .jscatter cl serial => Sys2Proof.Machine.execJscatter cl serial s
  | .jred cl serial => Sys2Proof.Machine.execJred cl serial s
  | .jsnap cl serial => Sys2Proof.Machine.execJsnap cl serial s
  | .jobComplete cl serial => Sys2Proof.Machine.execJobComplete cl serial s
  | .snapshotBlockCopy stack => Sys2Proof.Machine.execSnapshotBlockCopy stack s
  | .nadd u => Sys2Proof.Machine.execNadd u s
  | .naxpy u => Sys2Proof.Machine.execNaxpy u s
  | .nscal u => Sys2Proof.Machine.execNscal u s
  | .nsgdw u => Sys2Proof.Machine.execNsgdw u s
  | .nadamw u => Sys2Proof.Machine.execNadamw u s
  | .nfill u => Sys2Proof.Machine.execNfill u s
  | .nred u => Sys2Proof.Machine.execNred u s
  | .ncopy u => Sys2Proof.Machine.execNcopy u s
  | .ncvt u => Sys2Proof.Machine.execNcvt u s
  | .nchk u => Sys2Proof.Machine.execNchk u s
  | .nmStep u => Sys2Proof.Machine.execNmStep u s
  | .nmCommandComplete u => Sys2Proof.Machine.execNmCommandComplete u s
  | .samplerFetch cl => Sys2Proof.Machine.execSamplerFetch cl s
  | .samplerExecute cl => Sys2Proof.Machine.execSamplerExecute cl s
  | .samplerCommit cl => Sys2Proof.Machine.execSamplerCommit cl s
  | .samplerComplete cl => Sys2Proof.Machine.execSamplerComplete cl s
  | .kvLost pa => Sys2Proof.Machine.execKvLost pa s
  | .flitReceive port flit => Sys2Proof.Machine.execFlitReceive port flit s
  | .nakRepeat port => Sys2Proof.Machine.execNakRepeat port s
  | .replayWindowEnd port => Sys2Proof.Machine.execReplayWindowEnd port s
  | .trainingComplete port ok => Sys2Proof.Machine.execTrainingComplete port ok s
  | .pctlRetrain port => Sys2Proof.Machine.execPctlRetrain port s
  | .tqrow msg => Sys2Proof.Machine.execTqrow msg s
  | .rd msg => Sys2Proof.Machine.execRd msg s
  | .wr msg => Sys2Proof.Machine.execWr msg s
  | .rsp msg => Sys2Proof.Machine.execRsp msg s
  | .atom msg => Sys2Proof.Machine.execAtom msg s
  | .sluiceArrival msg => Sys2Proof.Machine.execSluiceArrival msg s
  | .sluiceStart msg => Sys2Proof.Machine.execSluiceStart msg s
  | .timeRequest msg => Sys2Proof.Machine.execTimeRequest msg s
  | .timeReply msg => Sys2Proof.Machine.execTimeReply msg s
  | .timeStep msg => Sys2Proof.Machine.execTimeStep msg s
  | .timeReport msg => Sys2Proof.Machine.execTimeReport msg s
  | .tqclose msg => Sys2Proof.Machine.execTqclose msg s
  | .tqack msg => Sys2Proof.Machine.execTqack msg s
  | .freezeMessage k resume inst => Sys2Proof.Machine.execFreezeMessage k resume inst s
  | .freezeMessageLate k => Sys2Proof.Machine.execFreezeMessageLate k s
  | .realignBegin => Sys2Proof.Machine.execRealignBegin s
  | .timeExchangeSend => Sys2Proof.Machine.execTimeExchangeSend s
  | .cycStep => Sys2Proof.Machine.execCycStep s
  | .realignTimeout => Sys2Proof.Machine.execRealignTimeout s
  | .replayEnd k => Sys2Proof.Machine.execReplayEnd k s
  | .auditLogCopy k => Sys2Proof.Machine.execAuditLogCopy k s
  | .auditReplay blk => Sys2Proof.Machine.execAuditReplay blk s
  | .auditCompare blk => Sys2Proof.Machine.execAuditCompare blk s
  | .rcvmarkWrite v => Sys2Proof.Machine.execRcvmarkWrite v s
  | .recoveryRecordWrite => Sys2Proof.Machine.execRecoveryRecordWrite s
  | .registerWrite k comp n v => Sys2Proof.Machine.execRegisterWrite k comp n v s
  | .hostRead off len => Sys2Proof.Machine.execHostRead off len s
  | .hostWrite off data => Sys2Proof.Machine.execHostWrite off data s
  | .hostFetchadd off wide v => Sys2Proof.Machine.execHostFetchadd off wide v s
  | .hostSwap off wide v => Sys2Proof.Machine.execHostSwap off wide v s
  | .hostCas off wide cmp v => Sys2Proof.Machine.execHostCas off wide cmp v s
  | .load slot => Sys2Proof.Machine.execLoad slot s
  | .attest slot => Sys2Proof.Machine.execAttest slot s
  | .seed slot => Sys2Proof.Machine.execSeed slot s
  | .abort slot => Sys2Proof.Machine.execAbort slot s
  | .tlbinvWrite v => Sys2Proof.Machine.execTlbinvWrite v s
  | .tlbinvDone => Sys2Proof.Machine.execTlbinvDone s
  | .startGo => Sys2Proof.Machine.execStartGo s
  | .startClr => Sys2Proof.Machine.execStartClr s
  | .fundamentalReset => Sys2Proof.Machine.execFundamentalReset s
  | .powerOn => Sys2Proof.Machine.execPowerOn s
  | .powerLoss => Sys2Proof.Machine.execPowerLoss s
  | .startTimeout => Sys2Proof.Machine.execStartTimeout s
  | .entropyHealthFail => Sys2Proof.Machine.execEntropyHealthFail s
  | .entropyPass => Sys2Proof.Machine.execEntropyPass s
  | .inFlightResultLanding k => Sys2Proof.Machine.execInFlightResultLanding k s
  | .preTranslationArrival => Sys2Proof.Machine.execPreTranslationArrival s
  | .realignComplete => Sys2Proof.Machine.execRealignComplete s
  | .stbaseWrite v => Sys2Proof.Machine.execStbaseWrite v s

end Sys2Proof.Machine
end

