-- ==== Sys2Proof/Machine/Agenda.lean ====
section
/-!
DEFINITION. Machine/Agenda.lean: the machine steps that the agenda holds, each with the meaning of its row.
-/
namespace Sys2Proof.Machine

/-- A machine step of the agenda has the meaning of the instruction of its name. -/
def Event.run (e : Event) (s : State) : Out :=
  match e with
  | .untimedResultLand id => execUntimedResultLand id s
  | .homeAccess id => execHomeAccess id s
  | .writeAck id => execWriteAck id s
  | .localStreamFill k q => execLocalStreamFill k q s
  | .streamRequest k q => execStreamRequest k q s
  | .ringLanding id => execRingLanding id s
  | .ringStageFill k q => execRingStageFill k q s
  | .transposerRead k => execTransposerRead k s
  | .peerReadServe k => execPeerReadServe k s
  | .freezeAnnounce k src inst => execFreezeAnnounce k src inst s
  | .freezeTakeEffect k => execFreezeTakeEffect k s
  | .freezeResume k => execFreezeResume k s
  | .freezeTimeout k => execFreezeTimeout k s
  | .groupStop k => execGroupStop k s
  | .bodyLengthExceeded k => execBodyLengthExceeded k s
  | .weirFreezeRequest k => execWeirFreezeRequest k s
  | .clockStretch r => execClockStretch r s
  | .stretchFreeze r => execStretchFreeze r s
  | .criticalMargin r => execCriticalMargin r s
  | .opctlGoSync => execOpctlGoSync s
  | .opctlGoRunning => execOpctlGoRunning s
  | .opSwitch => execOpSwitch s
  | .runningRampStep => execRunningRampStep s
  | .powerLoop watts temp => execPowerLoop watts temp s
  | .pfWindowEnd => execPfWindowEnd s
  | .trapactContinue k comp => execTrapactContinue k comp s
  | .trapactAbort k comp => execTrapactAbort k comp s
  | .groupResume k => execGroupResume k s
  | .uiDeliver k => execUiDeliver k s
  | .slotStart => execSlotStart s
  | .preemptStop k => execPreemptStop k s
  | .preemptSave k => execPreemptSave k s
  | .preemptResume k => execPreemptResume k s
  | .phldLoadDone bank => execPhldLoadDone bank s
  | .phaseLatch => execPhaseLatch s
  | .pageRequestAnswer va => execPageRequestAnswer va s
  | .refreshDebtRepaid => execRefreshDebtRepaid s
  | .sluiceLastArrival => execSluiceLastArrival s
  | .slackOverrun => execSlackOverrun s
  | .phaseStart k => execPhaseStart k s
  | .seqctlGo => execSeqctlGo s
  | .seqctlAbort => execSeqctlAbort s
  | .partitionPeriod => execPartitionPeriod s
  | .jcopy cl serial => execJcopy cl serial s
  | .jcopyt cl serial => execJcopyt cl serial s
  | .jgather cl serial => execJgather cl serial s
  | .jscatter cl serial => execJscatter cl serial s
  | .jred cl serial => execJred cl serial s
  | .jsnap cl serial => execJsnap cl serial s
  | .jobComplete cl serial => execJobComplete cl serial s
  | .snapshotBlockCopy stack => execSnapshotBlockCopy stack s
  | .nadd u => execNadd u s
  | .naxpy u => execNaxpy u s
  | .nscal u => execNscal u s
  | .nsgdw u => execNsgdw u s
  | .nadamw u => execNadamw u s
  | .nfill u => execNfill u s
  | .nred u => execNred u s
  | .ncopy u => execNcopy u s
  | .ncvt u => execNcvt u s
  | .nchk u => execNchk u s
  | .nmStep u => execNmStep u s
  | .nmPass k comp ticket => execNmPass k comp ticket s
  | .nmReadError u n => execNmReadError u n s
  | .rowError k row hard => execRowError k row hard s
  | .snapshotError k => execSnapshotError k s
  | .sectorError sector hard => execSectorError sector hard s
  | .nmCommandComplete u => execNmCommandComplete u s
  | .samplerFetch cl => execSamplerFetch cl s
  | .samplerExecute cl => execSamplerExecute cl s
  | .samplerCommit cl => execSamplerCommit cl s
  | .samplerComplete cl => execSamplerComplete cl s
  | .kvLost pa => execKvLost pa s
  | .flitReceive port flit => execFlitReceive port flit s
  | .nakRepeat port => execNakRepeat port s
  | .replayWindowEnd port => execReplayWindowEnd port s
  | .trainingComplete port ok => execTrainingComplete port ok s
  | .pctlRetrain port => execPctlRetrain port s
  | .tqrow msg => execTqrow msg s
  | .rd msg => execRd msg s
  | .wr msg => execWr msg s
  | .rsp msg => execRsp msg s
  | .atom msg => execAtom msg s
  | .sluiceArrival msg => execSluiceArrival msg s
  | .sluiceStart msg => execSluiceStart msg s
  | .timeRequest msg => execTimeRequest msg s
  | .timeReply msg => execTimeReply msg s
  | .timeStep msg => execTimeStep msg s
  | .timeReport msg => execTimeReport msg s
  | .tqclose msg => execTqclose msg s
  | .tqack msg => execTqack msg s
  | .freezeMessage k resume inst => execFreezeMessage k resume inst s
  | .freezeMessageLate k => execFreezeMessageLate k s
  | .realignBegin => execRealignBegin s
  | .jobTree devs ports => execJobTree devs ports s
  | .timeExchangeSend => execTimeExchangeSend s
  | .cycStep => execCycStep s
  | .realignTimeout => execRealignTimeout s
  | .replayEnd k => execReplayEnd k s
  | .auditLogCopy k => execAuditLogCopy k s
  | .auditReplay blk => execAuditReplay blk s
  | .auditCompare blk => execAuditCompare blk s
  | .rcvmarkWrite v => execRcvmarkWrite v s
  | .recoveryRecordWrite => execRecoveryRecordWrite s
  | .registerWrite k comp n v => execRegisterWrite k comp n v s
  | .firmwareWrite k comp n v => execFirmwareWrite k comp n v s
  | .hw0Read off len => execHw0Read off len s
  | .hw0Write off len v => execHw0Write off len v s
  | .hw2Read off len => execHw2Read off len s
  | .hw2Write off data => execHw2Write off data s
  | .hostCas128 off => execHostCas128 off s
  | .hostRead off len => execHostRead off len s
  | .hostWrite off data => execHostWrite off data s
  | .hostFetchadd off wide v => execHostFetchadd off wide v s
  | .hostSwap off wide v => execHostSwap off wide v s
  | .hostCas off wide cmp v => execHostCas off wide cmp v s
  | .load slot => execLoad slot s
  | .attest slot => execAttest slot s
  | .seed slot => execSeed slot s
  | .abort slot => execAbort slot s
  | .tlbinvWrite v => execTlbinvWrite v s
  | .tlbinvDone => execTlbinvDone s
  | .startGo => execStartGo s
  | .startClr => execStartClr s
  | .fundamentalReset => execFundamentalReset s
  | .powerOn => execPowerOn s
  | .powerLoss => execPowerLoss s
  | .startTimeout => execStartTimeout s
  | .entropyHealthFail => execEntropyHealthFail s
  | .entropyPass => execEntropyPass s
  | .inFlightResultLanding k => execInFlightResultLanding k s
  | .preTranslationArrival => execPreTranslationArrival s
  | .realignComplete => execRealignComplete s
  | .stbaseWrite v => execStbaseWrite v s

end Sys2Proof.Machine
end

