-- ==== Sys2Proof/Machine/Fetch.lean ====
section
/-!
DEFINITION. Machine/Fetch.lean: instruction fetch (R58, R162, R253, R263), whether a stream's bundle issues in the present cycle
(R21 to R24, R36, R64, R67, R251), and the issue-class causes of a whole bundle (R66, R71, R84, R85, R456).
-/
namespace Sys2Proof.Machine

/-! ### Fetch (R58, R162, R253) -/

/-- The translation of a fetch: timed inside a phase body, by the phase translation cache and with no walk (R253). -/
def State.fetchXlate (s : State) (k : CoreId) (comp : Bool) (va : Nat) : Except Nat (Nat × Option Tlb) :=
  if !comp && (s.core k).place = .body then (s.timedXlate k va 4).map fun pa => (pa, none) else s.translate k va 4
/-- The bundle at a physical address; one of another package comes by links whose time the manual does not bound, and its
bytes are free values here (log 3). -/
def State.bundleAt (s : State) (pa : Nat) : BitVec 256 :=
  if s.ownAddr pa then BitVec.ofNat 256 (Memory.getN s.mem pa 32) else (Config.freeRow (2 ^ 62 + pa)).setWidth 256
/-- A bundle fetched afresh, or the cause that its fetch meets. -/
def State.fetch (s : State) (k : CoreId) (comp : Bool) (va : Nat) : Except Nat (BitVec 256 × Option Tlb) :=
  if va % 32 ≠ 0 then .error 0x08
  else match s.fetchXlate k comp va with
    | .error c => .error c
    | .ok (pa, t) => if s.poisoned pa 32 then .error 0x27 else .ok (s.bundleAt pa, t)
/-- The bundle that a stream stands at: fetched ahead, or fetched now. -/
def State.bundleNow (s : State) (k : CoreId) (comp : Bool) : Except Nat (BitVec 256 × Option Tlb) :=
  let t := s.strm k comp
  match t.ibuf.find? (fun e => e.1 = t.pc.toNat) with
  | some e => .ok (e.2, none)
  | none => s.fetch k comp t.pc.toNat
/-- The addresses that a stream may fetch ahead: bundles in ascending order, and its branch targets. How many is a free value
(R58, R162; log 3). -/
def Strm.ahead (t : Strm) (n : Nat) : List Nat :=
  (List.range (n % 64)).map (fun i => t.pc.toNat + 32 * i) ++
    (if n / 64 % 2 = 1 then (t.t.toList.filter (·.valid)).map (·.addr.toNat) ++ (t.ras.take 1).map (·.toNat) else [])
/-- A stream fetches ahead. -/
def State.prefetch (s : State) (k : CoreId) (comp : Bool) : State :=
  let t := s.strm k comp
  if t.run ≠ .running then s
  else
    let got := (t.ahead (Config.prefetch s.fresh)).filterMap fun a =>
      if t.ibuf.any (fun e => e.1 = a) then none
      else match s.fetch k comp a with
        | .ok (b, _) => some (a, b)
        | .error _ => none
    (s.modStrm k comp fun t => { t with ibuf := t.ibuf ++ got }).draw

/-! ### Whether a bundle issues (R21 to R24) -/

/-- The slots of a bundle that are occupied, with their words and what they decode to (R20). -/
def bundleSlots (b : BitVec 256) : List (Nat × Word32 × Except Reject Instr) :=
  ([0, 1, 2, 3, 4, 5, 6, 7].filter fun n => slotWord b n ≠ 0).map fun n => (n, slotWord b n, decodeSlot n (slotWord b n))
/-- The instructions of a bundle whose slots all decode. -/
def bundleInstrs (b : BitVec 256) : List Instr :=
  (bundleSlots b).filterMap fun e => match e.2.2 with | .ok i => some i | .error _ => none
def bundleDecodes (b : BitVec 256) : Bool := (bundleSlots b).all fun e => match e.2.2 with | .ok _ => true | .error _ => false
/-- A stream stands ready: it runs, its hold and bubble cycles are over, no freeze holds its core, and no fence holds it; and the
core rails are on (R486). -/
def State.standing (s : State) (k : CoreId) (comp : Bool) : Bool :=
  let t := s.strm k comp
  t.run = .running && s.health.rails && decide (t.ready ≤ t.inst) && !(s.core k).frozen &&
    (match t.fence with | none => true | some f => s.fenceHolds k comp f)
/-- The state in which a stream's bundle issues: its slots are in focus and its accesses are numbered from here. -/
def State.focusOn (s : State) (k : CoreId) (comp : Bool) : State := { s with focus := (k, comp), bundleId := s.nextId }
/-- A slot of the bundle waits, so that the bundle does not issue (R36, R67), whatever its other slots hold. -/
def State.bundleWaits (s : State) (k : CoreId) (comp : Bool) (b : BitVec 256) : Bool :=
  (bundleInstrs b).any (s.focusOn k comp).slotWaits
/-- The bundle that a stream has ready in the present cycle. -/
def State.offered (s : State) (k : CoreId) (comp : Bool) : Option (BitVec 256) :=
  if !s.standing k comp then none
  else match s.bundleNow k comp with
    | .ok (b, _) => if s.bundleWaits k comp b then none else some b
    | .error _ => none
/-- A slot is occupied in both bundles (R21). -/
def bundlesClash (a b : BitVec 256) : Bool := [0, 1, 2, 3, 4, 5, 6, 7].any fun n => slotWord a n ≠ 0 && slotWord b n ≠ 0
/-- The companion's bundle gives way to the primary's of the same cycle (R21, R22). In the start code, and after a TEND that
another tile or the launch's continuation follows, the primary issues bundles, though R24 lets the companion issue without
regard to it: R22's "always" and "never" are taken to hold there too (DEDUCED, log 13). -/
def State.yields (s : State) (k : CoreId) (b : BitVec 256) : Bool :=
  match s.offered k false with
  | none => false
  | some a => bundlesClash a b

/-! ### Issue-class causes of a bundle (R66, R71, R84, R85, R456) -/

/-- The registers that a slot writes, on the physical numbering; a drain to a stream writes that stream (R66, R71). -/
def State.slotWrites (s : State) (i : Instr) : List PRef :=
  (i.shape.writes.filterMap fun w => s.cur.phys s.focus.2 w.1) ++
    (match i.drainPart with
     | some (db, _) => ((drainStream s.cur.mx db).map PRef.q).toList
     | none => [])
/-- The slot writes a mask pair. -/
def Shape.isCmp (sh : Shape) : Bool := sh.writes.any fun w => match w.1 with | .m _ => true | _ => false
/-- The lag of each V stage behind its issue that the cascade brings (R187): a read of j0 or j2 beside a compare is an ordinary
read (R201). -/
def bundleLag (is : List Instr) (slot : Nat) : Nat :=
  let reads := fun (i : Instr) (j : VSel) => i.shape.reads.any fun r => r = .v j
  let lat := fun (i : Instr) => (i.shape.writes.head?.map fun w => w.2).getD 0
  let at' := fun n => is.find? fun i => i.shape.slot = n && i.shape.occ
  let lag1 := match at' 3, at' 2 with
    | some b, some a => if reads b 0x30 && !a.shape.isCmp then lat a else 0
    | _, _ => 0
  if slot = 3 then lag1
  else if slot = 4 then
    match at' 4, at' 3 with
    | some c, some b => if reads c 0x32 && !b.shape.isCmp then lag1 + lat b else 0
    | _, _ => 0
  else 0
/-- The issue-class causes of a bundle, as cause, slot and TRAPINFO: words that do not decode, two slots that name one
register, rows beyond the egress buffer or the ingress log, and each slot's own. -/
def State.bundleFaults (s : State) (b : BitVec 256) : List (Nat × Nat × Word) :=
  let is := bundleInstrs b
  let bad := (bundleSlots b).filterMap fun e => match e.2.2 with
    | .error _ => some (0x01, e.1, e.2.1.setWidth 64)
    | .ok _ => none
  let own := is.filterMap fun i => (s.slotFault i is (if s.focus.2 then 0 else bundleLag is i.shape.slot)).map fun f => (f.1, i.shape.slot, f.2)
  let twice := is.filterMap fun i =>
    let ws := s.slotWrites i
    if is.any fun j => j.shape.slot ≠ i.shape.slot && (s.slotWrites j).any fun r => ws.contains r then
      some (0x01, i.shape.slot, illegalInfo 1 i) else none
  let rows := is.map fun i => (i, if s.guardOn i.shape then s.egressRows i else 0)
  let excess := if s.focus.2 then [] else (rows.filter fun r =>
    r.2 ≠ 0 && decide (64 < s.egressDue + ((rows.filter fun q => q.1.shape.slot ≤ r.1.shape.slot).map fun q => q.2).sum)).map
      fun r => (0x0A, r.1.shape.slot, wordInfo r.1)
  bad ++ own ++ twice ++ excess
/-- The cause that a bundle reports: the lowest, then of the lowest slot (R85). -/
def leastFault : List (Nat × Nat × Word) → Option (Nat × Nat × Word)
  | [] => none
  | f :: r =>
    match leastFault r with
    | none => some f
    | some g => if g.1 < f.1 ∨ (g.1 = f.1 ∧ g.2.1 < f.2.1) then some g else some f
/-- The hold count of a bundle's C slot (R64). -/
def bundleHold (is : List Instr) : Nat := ((is.find? fun i => i.shape.slot = 0 && i.shape.occ).map fun i => i.shape.hold).getD 0
/-- The order in which the slots of a bundle have their effects: by slot, but PHEND and SEGB last (R156, R157, R187). -/
def issueOrder (is : List Instr) : List Instr :=
  let last := fun (i : Instr) => match i with | .phend _ | .segb _ => true | _ => false
  is.filter (fun i => !last i) ++ is.filter last

end Sys2Proof.Machine
end

