-- ==== Sys2Proof/Machine/Bundle.lean ====
section
/-!
DEFINITION. Machine/Bundle.lean: the issue of one bundle of a stream (R58, R62, R66, R84 to R86).
-/
namespace Sys2Proof.Machine

/-- The slots have their effects one after another. -/
def runSlots : List Instr → State → Out
  | [], s => .next s
  | i :: is, s =>
    match exec i s with
    | .next t => runSlots is t
    | .fault f => .fault f
    | .refused r => .refused r
/-- The stream stands at its next bundle. -/
def Strm.pass (t : Strm) (pc : BitVec 52) : Strm := { t with last := pc, pc := t.npc }
/-- A bundle's cycle: it counts from its issue, its successor follows it, and its hold cycles begin (R58, R64). -/
def Strm.beginBundle (t : Strm) (hold : Nat) : Strm :=
  { t with npc := t.pc + 32, holdTo := t.inst + 1 + hold, ready := t.inst + 1 + hold, fence := none
           ibuf := t.ibuf.filter fun e => e.1 ≠ t.pc.toNat }
/-- A bundle issues, or traps in the issue class with no effect (R84). -/
def State.runBundle (s : State) (b : BitVec 256) : Out :=
  let is := bundleInstrs b
  let pc := s.me.pc
  match leastFault (s.bundleFaults b) with
  | some f =>
    let s := s.modMe fun t => { t with npc := t.pc + 32 }
    let s := if f.1 = 0x07 then s.holdFor (bundleHold is) else s
    .next (s.issueTrap f.1 f.2.1 f.2.2)
  | none =>
    let s := (s.auditEnd s.focus.1).auditImage (is.any fun i => match i with | .lnch _ _ _ => true | _ => false)
    match runSlots (issueOrder is) (s.modMe (·.beginBundle (bundleHold is))) with
    | .next t => .next (t.modMe (·.pass pc))
    | .fault f => .fault f
    | .refused r => .refused r
/-- A stream issues its bundle in the present cycle, if it has one ready. A fetch that fails stops the stream where it
stands: a misaligned address in the issue class, any other cause in the execution class. -/
def State.issue (s : State) (k : CoreId) (comp : Bool) : Out :=
  if !s.standing k comp then .next s
  else
    let s := s.focusOn k comp
    match s.bundleNow k comp with
    | .error c =>
      .next (if c = 0x27 then s.deferTrap k comp s.me.inst 0x27 0 (s.me.pc.setWidth 64)
        else s.takeTrap k comp (if c = 0x08 then 0 else 1) c 0 s.me.pc s.me.pc (s.me.pc.setWidth 64))
    | .ok (b, t) =>
      if s.bundleWaits k comp b || (comp && s.yields k b) then .next s else (s.cacheTlb k t).runBundle b

end Sys2Proof.Machine
end

