-- ==== Sys2Proof/Machine/Tick.lean ====
section
/-!
DEFINITION. Machine/Tick.lean: the end of a wall cycle and the start of the next: freezes at their instants (R36 to R41), the
advance of instants (R6, R39), and the machine steps that come about in a cycle, those of fixed time and those whose time the
manual does not bound.
-/
namespace Sys2Proof.Config

/-- What comes from outside the package in a wall cycle: the host, firmware, the links, the monitors (log 3). -/
opaque outside : Nat → List Sys2Proof.Machine.Event

end Sys2Proof.Config

namespace Sys2Proof.Machine

/-! ### Freeze tests (R36, R37, R234, R237, R414, R457, R458) -/

/-- A need of the present instant: its source, and the wall cycle since which it is met, none while it is not. -/
abbrev Need := FreezeSrc × Option Nat

/-- Rows that a stream must have in its ring at instant t (R234). -/
def SUnit.readNeeds (u : SUnit) (t : Nat) : List Need :=
  let first := u.start + u.startAt
  let p := (t - first) / max u.period 1
  if !(u.bound && u.isRing && u.isRead) || t < first || u.due p ≠ t || u.total ≤ p || p < u.next || u.lost.any (fun l => l.1 = p) then []
  else [(if u.kind = 2 then .streamRead else .globalAccess, (u.landed.find? fun l => l.1 = p).map fun l => l.2.2)]
/-- The rows that entries in flight bring to GLOBAL_WR streams at instant t: stream and position. -/
def Core.globalRows (c : Core) (t : Nat) : List (Nat × Nat) :=
  c.prim.pend.flatMap fun e =>
    if e.due ≠ t then []
    else match e.eff with
      | .vec (.q q pos) _ _ _ => if (c.unitAt q e.iss).kind = 4 then [(q, pos)] else []
      | .drain o => if o.dkind = 0 ∧ (c.unitAt o.dnum e.iss).kind = 4 then (List.range o.data.length).map fun i => (o.dnum, o.pos + i) else []
      | _ => []
/-- The ring row for a position must be free (R237); a row held by the segment is not (R457). -/
def Core.writeNeeds (c : Core) (t : Nat) : List Need :=
  (c.globalRows t).filterMap fun r =>
    let u := c.unit r.1
    if r.2 < u.ringRows then none
    else
      let old := r.2 - u.ringRows
      if u.unack.contains old || c.seg.held.any (fun h => !h.isTq && h.k = r.1 && h.pos = old) then some (.streamWrite, none)
      else (u.acks.find? fun a => a.1 = old).map fun a => (.streamWrite, some a.2)
/-- The wall cycle since which n rows have had room, by the rows freed of late, newest first; 0 when they always had. -/
def roomSince (n : Nat) : List (Nat × Nat) → Nat
  | [] => 0
  | (w, f) :: r => if 64 < n + f then w else roomSince (n + f) r
/-- The rows that drains bring to outbound endpoints at instant t must have room (R414). -/
def Core.tqWriteNeeds (c : Core) (t : Nat) : List Need :=
  (List.range 8).filterMap fun q =>
    let n := (c.prim.pend.map fun e => match e.eff with
      | .drain o => if e.due = t ∧ o.dkind = 2 ∧ o.dnum = q then o.data.length else 0
      | _ => 0).sum
    let e := c.tqAt q
    let have_ := e.rows.length + (c.seg.held.filter fun h => h.isTq && h.k = q).length + n
    if n = 0 then none else some (.tqWrite, if 64 < have_ then none else some (roomSince have_ e.log))
/-- The inbound endpoints that the next bundle of core k reads, judged as it will issue, must hold their rows (R414). A row of
the ingress log is present (R458). -/
def State.tqReadNeeds (s : State) (k : CoreId) : List Need :=
  let t := (s.core k).nextInst
  if (s.core k).prim.run ≠ .running || decide (t < (s.core k).prim.ready) then []
  else match s.bundleNow k false with
    | .error _ => []
    | .ok (b, _) =>
      match (bundleInstrs b).findSome? (fun i => i.beatPart.map fun p => (i, p)) with
      | none => []
      | some (i, f, x, y) =>
        let n := (s.modStrm k false fun u => { u with inst := t }).landDue k (2 * (s.core k).prim.pend.length + 2)
        let n := n.focusOn k false
        if !n.guardOn i.shape then []
        else (beatSources n.cur.mx f x y).filterMap fun m => match m with
          | .q _ => none
          | .tq q =>
            let e := n.cur.tqAt q.toNat
            if !e.readable || !(n.cur.logged q.toNat).isEmpty then none else some (.tqRead, e.rows.head?.map fun r => r.1)
/-- Core k as it would stand after n more instants had its fault not stopped it: its primary goes on from TRAPNPC. -/
def State.unfaulted (s : State) (k : CoreId) : Nat → State
  | 0 => s.modCore k fun c => { c with frozen := false, ahead := 0, prim := { c.prim.resume .running with late := false } }
  | n + 1 =>
    let s := (s.unfaulted k n).modStrm k false fun t => { t with inst := t.inst + 1 }
    let s := s.landDue k (2 * (s.core k).prim.pend.length + 2)
    match s.issue k false with
    | .next t => t
    | _ => s
/-- The needs of core k at its next instant. A stopped core makes no test (R171); one past its PHEND only awaits its writes. A
core that its own fault holds has tested, before the fault, the needs of the instants that its group passes until it stops, those
of the bundles that would have followed the faulting one among them (R37, R43; DEDUCED, log 21). -/
def State.needs (s : State) (k : CoreId) : List Need :=
  let c := s.core k
  let t := c.nextInst
  if c.prim.run = .running then
    (List.range 8).flatMap (fun q => (c.unit q).readNeeds t) ++ c.writeNeeds t ++ c.tqWriteNeeds t ++ s.tqReadNeeds k
  else if c.prim.run = .slack then c.writeNeeds t ++ c.tqWriteNeeds t
  else if c.faultHold s.cyc.toNat && decide (c.ahead < s.horizon k) then
    (List.range 8).flatMap (fun q => (c.unit q).readNeeds t) ++ c.writeNeeds t ++ c.tqWriteNeeds t ++ (s.unfaulted k c.ahead).tqReadNeeds k
  else []
/-- The wall cycle of the detection point of a need at the next instant (R37). -/
def State.detectedAt (s : State) (k : CoreId) : Nat := (s.core k).hist.getD (s.horizon k - 1 - (s.core k).ahead) 0
/-- The sources whose freezes the needs of an instant raise and clear. -/
def ofNeed (src : FreezeSrc) : Bool := [.streamRead, .streamWrite, .globalAccess, .tqRead, .tqWrite].contains src
/-- Freezes of core k in effect whose needs have been met clear at the cycle in which they were. -/
def State.meetNeeds (s : State) (k : CoreId) (ns : List Need) : State :=
  let mine := (s.core k).freezes.filter fun f => f.owner = k && f.eff.isSome && f.clr.isNone && ofNeed f.src
  mine.foldl (fun s f =>
    let of := ns.filter fun n => n.1 = f.src
    if of.any (fun n => n.2.isNone) then s
    else s.clearFreeze k f.src ((of.filterMap fun n => n.2).foldl max 0)) s
/-- The freeze tests of core k for its next instant. The condition of the detection point is judged now, from when each need
was met: what counts is whether it was met by then (R37, R38). The announcement dates from the detection point, and a resumption
from the cycle in which the need was met (R398). -/
def State.testCore (s : State) (k : CoreId) : State :=
  let c := s.core k
  if c.prim.run ≠ .running && c.prim.run ≠ .slack && !c.faultHold s.cyc.toNat then s
  else
    let ns := s.needs k
    let s := s.meetNeeds k ns
    let d := s.detectedAt k
    (ns.filter fun n => match n.2 with | none => true | some w => decide (d < w)).foldl
      (fun s n => s.announceAt k n.1 (s.core k).nextInst n.2 (n.2.getD d)) s

/-! ### Held snapshot writes (R333) -/

/-- Core instants at which the windows of core k's held writes close: held from the mark until they perform. -/
def State.heldWindows (s : State) (k : CoreId) : List Nat :=
  s.accs.filterMap fun a => match a.who with
    | .unit j _ _ => if j = k && !a.done && a.held then some (s.windowEnd k a) else none
    | _ => none
/-- The tests of the present instant, and freezes whose writes have performed. -/
def State.snapshotTests (s : State) (k : CoreId) : State :=
  let c := s.core k
  let ws := s.heldWindows k
  let s := if c.frozen then s
    else (ws.filter fun w => w = c.prim.inst + s.horizon k).foldl (fun s w => s.announce k .snapshot w none) s
  let past := (s.core k).freezes.filter fun f => f.owner = k && f.src = .snapshot && f.clr.isNone && !ws.contains f.key
  if past.isEmpty then s
  else
    let mine := (s.core k).prim.inst
    s.clearWhich k (fun c f => f.src = .snapshot && past.any fun g => decide ((f.key : Int) - c.prim.inst = (g.key : Int) - mine)) s.cyc.toNat

/-! ### The end of a wall cycle -/

/-- FRZCNT and WEIRCNT once the present cycle has passed: a wall cycle counts in which the core was frozen, but not one of a
pre-emption nor one past the stop of a trap (R40, R171, R178). -/
def State.countCycle (s : State) (k : CoreId) : State :=
  let now := s.cyc.toNat
  let h := s.horizon k
  s.modCore k fun c =>
    let pre := c.freezes.any fun f => f.src = .preempt && f.holds h now
    let weir := (c.applying k).any fun f => f.src = .weir && f.holds h now
    { c with
      frzcnt := if (c.frozen || c.restoring now) && !pre && !c.stopped now then c.frzcnt + 1 else c.frzcnt
      weircnt := if weir then c.weircnt + 1 else c.weircnt }

/-- The end of the present cycle: streams with a deferred fault stop, staging is trimmed, endpoints are served, arrivals are
collected, bundles are fetched ahead, and the Weir tests of the cycle are made. -/
def State.close (s : State) : State :=
  let s := allCores.foldl State.releaseRings s.jcansAct
  let s : State := { s with part := .closed, cores := s.cores.map fun c =>
    { c with prim := c.prim.settle, comp := c.comp.settle }.answerBarq.trimStages }
  let s := (allCores.foldl State.countCycle s).tqServiceAll.collect.sluiceUp
  let s := s.watchAccesses.hostPosts
  let s := allCores.foldl (fun s k => if !s.accs.any (·.held) && !(s.core k).freezes.any (fun f => f.src = .snapshot) then s else s.snapshotTests k) s
  let s := s.marginTick
  let s := allCores.foldl (fun s k => (s.prefetch k false).prefetch k true) s
  { s with agenda := s.agenda ++ (allCores.filter fun k => (s.core k).weirFails s.cyc.toNat).map Event.weirFreezeRequest }

/-! ### The start of a wall cycle -/

/-- The freeze run of a core (R41, R171, R178), and, for one that its own fault holds, the instants that its group passes
(R43). -/
def State.countFreeze (s : State) (k : CoreId) (held : Bool) : State :=
  let now := s.cyc.toNat
  let h := s.horizon k
  s.modCore k fun c =>
    let counts := c.frozen && !held && !c.stopped now && c.countsRun now h
    { c with
      frlim := if counts && c.frun = 0 then max c.frzmax.toNat 1024 else c.frlim
      ahead := if held && c.stopAt.any (now < ·) && !c.freezes.any (fun f => f.holds h now) then c.ahead + 1 else c.ahead
      frun := if counts then c.frun + 1 else if c.frozen || c.replaying then c.frun else 0 }
/-- The next instant of a core that no freeze holds (R6, R39); a channel retired at the instant before counts as retired (R297), and what the
instant wrote has entered the signature of the slice (R471).
The Weir window stands still from the cycle in which a pre-emption stops the core, so that the record has it as at the stop (R176). A stopped primary is held as a frozen core is; what a stopped
companion has in flight lands (R171). -/
def Core.advance (c : Core) (now : Nat) : Core :=
  let c : Core := { c.signAll with weights := if c.preempted.any (fun (f : Freeze) => f.eff ≠ some now) then c.weights else (c.charge :: c.weights).take 64, charge := 0 }
  if c.frozen then c
  else
    { c with
      mx := { c.mx with inForce := c.mx.ret }, opens := c.opens.filter fun o => c.prim.inst + 1 < o.2
      prim := if c.prim.run = .trapped || c.restoring now then c.prim else { c.prim with inst := c.prim.inst + 1 }
      comp := { c.comp with inst := c.comp.inst + 1 }
      hist := if c.prim.run = .trapped || c.restoring now then c.hist else (now :: c.hist).take 73 }
/-- The core issues the first instant of a replay (R459). -/
def Core.replaysFirst (c : Core) : Bool := c.replaying && c.seg.rpl && !c.frozen && c.seg.snap.any fun sn => sn.inst = c.prim.inst
/-- Members that wait for their start move with a group that is frozen (R37, R368), but not with a core that only its own
fault or its replay holds (R43, R460). -/
def State.delayStarts (s : State) (held : List CoreId) : State :=
  allCores.foldl (fun s k =>
    match s.startGroup k with
    | none => s
    | some g =>
      if allCores.any (fun j => (s.core j).group = some g && (s.core j).ctx = (s.core k).ctx && (s.core j).frozen && !(s.core j).replaying && !held.contains j) then
        s.modCore k fun c => { c with startAt := c.startAt.map (· + 1) }
      else s) s
/-- The new wall cycle up to the advance of instants: groups stop and resume, replays end, freezes are tested, take effect and
end. -/
def State.freezePlan (s : State) : State :=
  let now := s.cyc.toNat
  let held := allCores.filter fun k => (s.core k).faultHold now
  let s := allCores.foldl (fun s k => (s.groupStop k).groupResume k) s
  let s := allCores.foldl (fun s k => if (s.core k).replaying then s.replayEnd k else s) s
  let s := allCores.foldl State.testCore s
  let s := allCores.foldl (fun s k => s.freezeCore k) s
  let s := allCores.foldl (fun s k => if (s.core k).frozen then s.unfreezeCore k else s) s
  let s := held.foldl (fun s k => s.modCore k fun c => { c with frozen := true }) s
  let s := allCores.foldl (fun s k => s.countFreeze k (held.contains k)) s
  s.delayStarts held

/-! ### Machine steps of fixed time -/

def evIf (b : Bool) (e : Event) : List Event := if b then [e] else []
def allQ : List QReg := [0, 1, 2, 3, 4, 5, 6, 7]
/-- The steps of one core in the present cycle. -/
def State.coreSteps (s : State) (k : CoreId) : List Event :=
  let c := s.core k
  let qs := if c.frozen || c.prim.run = .trapped || c.restoring s.cyc.toNat then [] else allQ.filter fun q => (c.unit q.toNat).bound
  qs.flatMap (fun q =>
      let u := c.unit q.toNat
      evIf (u.kind = 0 && !u.transpose && !(u.fillPositions u.lead c.prim.inst).isEmpty) (.localStreamFill k q) ++
      evIf (u.isRing && u.isRead && !(u.fillPositions u.lead c.prim.inst).isEmpty) (.streamRequest k q)) ++
    evIf (qs.any fun q => (c.unit q.toNat).tposNow c.prim.inst) (.transposerRead k) ++
    (allQ.filter fun q => (c.unit q.toNat).bound && !((c.unit q.toNat).toStage c.prim.inst).isEmpty).map (Event.ringStageFill k) ++
    evIf (s.delivers k) (.uiDeliver k) ++
    evIf (c.place = .body && c.b0 + 65536 ≤ c.prim.inst && !c.prim.trap.pend) (.bodyLengthExceeded k) ++
    evIf (c.unheard (s.horizon k) s.cyc.toNat) (.freezeMessageLate k) ++
    evIf (c.frozen && c.frlim ≤ c.frun && c.frun ≠ 0 && (s.frzLimit (s.members k)).map (fun m => m.2) = some k) (.freezeTimeout k) ++
    evIf ((s.comingOf k).any fun x => s.coreFree x) (.preemptResume k)
/-- Cores whose entry bundle issues in the present cycle (R368). -/
def State.starting (s : State) (k : CoreId) : Bool :=
  let c := s.core k
  c.startAt.any (fun w => w ≤ s.cyc.toNat) && c.prim.run ≠ .trapped && !c.parked && s.health.rails
/-- A step for each context of which p holds. -/
def State.forCtxs (s : State) (p : State → Bool) (e : Event) : List Event := (s.seqCtxs.filter fun n => p (s.ctxView n)).map fun _ => e
/-- Steps of the ports, of REALIGN, of the health controller, of the sequencer and of firmware whose cycle is fixed. -/
def State.timedSteps (s : State) : List Event :=
  let now := s.cyc.toNat
  let h := s.health
  let every := fun (n : Nat) => decide (n ≠ 0 ∧ now % n = 0)
  evIf (h.busy && h.goMode && every 256) .runningRampStep ++
    evIf (s.realign.stepAt = some now) .cycStep ++ evIf (s.realign.resume.any fun w => w ≤ now) .realignComplete ++
    evIf s.exchangeDue .timeExchangeSend ++ evIf (s.realignLate || s.anyCtx State.realignAwaited) .realignTimeout ++ s.forCtxs State.realignDue .realignBegin ++
    (List.finRange 56).flatMap (fun p =>
      evIf ((s.anyPort p).train && (s.anyPort p).trainAt + 144000 ≤ now)
        (.trainingComplete p ((Config.freeWord (2 ^ 57 + s.fresh)).getLsbD 0)) ++
      evIf ((s.anyPort p).nakOut.any fun w => w + 512 ≤ now) (.nakRepeat p) ++ evIf (every (s.windowOf p)) (.replayWindowEnd p)) ++
    (List.finRange 8).flatMap (fun st =>
      evIf (s.marks.any fun m => stackOf (m.block * 65536) = st.val && !m.sent && m.began.any (fun w => w + 1024 ≤ now)) (.snapshotBlockCopy st)) ++
    (List.finRange 16).flatMap (fun cl => ((s.cluster cl).jobs.filter fun j => cOp j.card = 6 && s.jobStarts cl j).map fun j =>
      Event.jsnap cl (BitVec.ofNat 32 j.stamp.serial)) ++
    (List.finRange 16).flatMap (fun cl => evIf (s.fetchDue cl) (.samplerFetch cl)) ++
    (List.finRange 16).flatMap (fun cl => match (s.cluster cl).reqs.head? with
      | some r => (match r.stage with | .execute n => evIf (r.start + n ≤ now) (.samplerCommit cl) | _ => [])
      | none => []) ++
    evIf (wb s.partctl 1 0 = 1 && every (1000 * s.perUs)) .partitionPeriod ++
    evIf (s.startUp && h.loopDue)
      (.powerLoop (Config.freeWord (2 ^ 59 + 2 * s.fresh)).toNat (Config.freeWord (2 ^ 59 + 2 * s.fresh + 1)).toNat) ++
    evIf (s.startUp && h.pfDue) .pfWindowEnd ++
    evIf (s.slotOn && !s.slotHeld && s.slotEnd ≤ now) .slotStart ++
    evIf (!s.startUp && !s.startMin && 7200000000 ≤ now) .startTimeout ++
    s.forCtxs State.latchDue .phaseLatch ++ s.forCtxs State.lastReady .sluiceLastArrival ++ s.forCtxs State.slackDue .slackOverrun
/-- Copies of messages that the bridge delivers now (R398). -/
def State.bridgeArrivals (s : State) : List Event := (s.bridgeNet.filter fun e => e.1 ≤ s.cyc.toNat).map fun e => e.2
/-- The window of a timed access to this package's memory closes now or has closed (R258). -/
def State.closing (s : State) (a : Access) : Bool :=
  match a.who, a.op with
  | .unit _ _ _, .peer _ _ => false
  | .unit k _ _, _ => s.ownAddr a.pa && decide (s.windowEnd k a ≤ (s.core k).prim.inst)
  | _, _ => false
/-- Timed accesses whose windows close now perform at their homes, each after what performs before it (R258). -/
def State.windowSteps (s : State) : List Event :=
  (s.accs.foldr (fun b l => if !b.done && (s.closing b || l.any fun a => b.before a) then b :: l else l) []).map fun a => .homeAccess a.id
/-- Homes at which requests of peer streams stand whose cores are past their PHEND: each serves one row in every cycle, so that they
perform before the next phase (R219, R259). -/
def State.peersOver (s : State) : List CoreId :=
  allCores.filter fun h => s.accs.any fun a => !a.done && (match a.op, a.who with
    | .peer j _, .unit k _ _ => decide (j = h) && decide ((s.core k).place = .window)
    | _, _ => false)
/-- Messages of tile queues inside the package that arrive now; the others stay on their way (R408). -/
def State.tqArrivals (s : State) : List Event :=
  (s.tqNet.filter fun e => e.1 ≤ s.cyc.toNat).filterMap fun e => msgStep e.2.1 e.2.2

/-! ### Machine steps whose time the manual does not bound -/

def jobEvent (cl : ClusterId) (j : Job) : Option Event :=
  let n : Word32 := BitVec.ofNat 32 j.stamp.serial
  match cOp j.card with
  | 1 => some (.jcopy cl n)
  | 2 => some (.jcopyt cl n)
  | 3 => some (.jgather cl n)
  | 4 => some (.jscatter cl n)
  | 5 => some (.jred cl n)
  | _ => none
def nmEvent (u : UnitId) (c : NmCmd) : Event :=
  match nmOp c with
  | 1 => .nadd u
  | 2 => .naxpy u
  | 3 => .nscal u
  | 4 => .nsgdw u
  | 5 => .nadamw u
  | 6 => .nfill u
  | 7 => .nred u
  | 8 => .ncopy u
  | 9 => .ncvt u
  | 10 => .nchk u
  | _ => .nmStep u
/-- Steps of accesses: to their homes, back to their senders, and into rings; one row at a peer port (R219). -/
def State.accessSteps (s : State) : List Event :=
  let late := s.peersOver
  ((allCores.filter fun h => !late.contains h && s.accs.any fun a => !a.done && (match a.op with | .peer j _ => j = h | _ => false)).map Event.peerReadServe) ++
  s.accs.flatMap fun a =>
    if !a.done then
      match a.op with
      | .peer _ _ => []
      | _ => evIf (s.homeReady a) (.homeAccess a.id)
    else match a.who with
      | .unit _ _ _ => if a.op.writes then [.writeAck a.id] else [.ringLanding a.id]
      | _ => if a.replies then [.untimedResultLand a.id] else [.writeAck a.id]
/-- Steps of the engines. -/
def State.engineSteps (s : State) : List Event :=
  (List.finRange 16).flatMap (fun cl => (s.cluster cl).jobs.flatMap fun j =>
      let n : Word32 := BitVec.ofNat 32 j.stamp.serial
      if cOp j.card ≠ 6 && (s.jobStarts cl j || j.phase = .started) then (jobEvent cl j).toList
      else evIf (j.phase = .finishing || j.phase = .marked) (.jobComplete cl n)) ++
    (List.finRange 16).flatMap (fun cl => match (s.cluster cl).reqs.head? with
      | none => []
      | some r => match r.stage with
        | .queued => []
        | .fetch => [.samplerExecute cl]
        | .execute _ => []
        | .commit _ _ => [.samplerCommit cl, .samplerComplete cl]) ++
    s.nmPassable.map (fun c => Event.nmPass c.stamp.core c.stamp.comp c.stamp.serial) ++
    (List.finRange 128).flatMap (fun u => match s.nmHead u with
      | none => []
      | some c => if c.over then [.nmCommandComplete u] else [nmEvent u c]) ++
    evIf (!s.nmReady.isEmpty) (.nmCommandComplete 0)
/-- Steps of the sequencer, the audit engine, the health controller and firmware. -/
def State.slowSteps (s : State) : List Event :=
  s.seqCtxs.flatMap (fun n =>
      let v := s.ctxView n
      evIf (v.bankA.st = .loading) (.phldLoadDone false) ++ evIf (v.bankB.st = .loading) (.phldLoadDone true) ++
        (match v.bound with
         | none => []
         | some b =>
           b.pages.map Event.pageRequestAnswer ++ evIf (b.missing.contains .refresh) .refreshDebtRepaid ++
             evIf (b.missing.contains .pretrans) .preTranslationArrival)) ++
    (allCores.filter fun k => (s.savingOf k).isSome).map Event.preemptSave ++
    s.audblks.flatMap (fun b =>
      evIf (!b.image) (.auditLogCopy b.k) ++ evIf (s.slotAudit && b.ended) (.auditReplay b.num) ++ evIf (!b.runs.isEmpty) (.auditCompare b.num)) ++
    evIf (s.falls.any fun f => s.quiet f.ctx) .recoveryRecordWrite ++ evIf s.tlbBusy .tlbinvDone ++
    (List.finRange 56).flatMap (fun p =>
      evIf (s.anyPort p).train (.trainingComplete p ((Config.freeWord (2 ^ 58 + s.fresh)).getLsbD 0))) ++
    (if s.startUp || s.startMin || s.startStep = 2 then
       (List.finRange 64).filterMap fun b => match s.mailStep b with | some (.inl e) => some e | _ => none
     else [])
/-- Those of a list that free values choose. -/
def someOf (fresh : Nat) (es : List Event) : List Event := (es.zipIdx.filter fun e => Config.pick (fresh + e.2) % 2 = 1).map fun e => e.1

/-! ### The tick -/

/-- Streams that may issue in the present cycle; the companion's bundle is judged first, against what the primary offers. -/
def State.streams (s : State) : List (CoreId × Bool) :=
  allCores.flatMap fun k =>
    let c := s.core k
    let may := fun (t : Strm) => t.run ≠ .idle && t.run ≠ .ended
    if c.frozen then []
    else (if may c.comp then [(k, true)] else []) ++ (if (may c.prim || c.startAt.isSome) && !c.restoring s.cyc.toNat then [(k, false)] else [])
/-- Firmware answers the commands of the mailbox whose OP means nothing, and takes the steps of a start (R496, R498). -/
def State.firmwareStep (s : State) : State :=
  let s := if s.startUp || s.startMin then (List.finRange 64).foldl (fun s b => match s.mailStep b with | some (.inr _) => s.mailUnknown b | _ => s) s else s
  if s.startUp || s.startMin || s.startStep = 2 || Config.pick s.fresh % 2 = 0 then s.draw
  else (s.draw.startOn (Config.pick (s.fresh + 1) % 2 = 1)).draw
/-- Firmware may start a companion that does not run, of a core that has a context, at a bundle of its choice: the manual names
no register for that, so a free value says when and where (R24, R163; log 4). -/
def State.companionStart (s : State) : State :=
  let k := coreOf (Config.pick (s.fresh + 1))
  let pc : BitVec 52 := (Config.freeWord s.fresh).setWidth 52 >>> 5 <<< 5
  let go := Config.pick s.fresh % 2 = 1 && (s.core k).ctx.isSome
  (if !go then s else s.modStrm k true fun t =>
    if t.run = .idle || t.run = .ended then { t with run := .running, pc := pc, holdTo := t.inst, ready := t.inst } else t).draw.draw
/-- The next wall cycle begins: what comes about in it goes on the agenda. -/
def State.advance (s : State) : State :=
  let s : State := { s with cyc := s.cyc + 1, part := .landings, health := s.health.pass }
  let s := s.freezePlan
  let now := s.cyc.toNat
  let s : State := { s with cores := s.cores.map fun c => c.advance now }
  let s := allCores.foldl (fun s k => if (s.core k).replaysFirst then s.askAgain k else s) s
  let s := s.transmitAll.firmwareStep.companionStart
  let due := fun (t : Strm) => t.pend.any fun e => e.due ≤ t.inst
  let lands := (allCores.filter fun k => let c := s.core k; !c.frozen && (due c.comp || (due c.prim && c.prim.run ≠ .trapped))).map Event.inFlightResultLanding
  let starts := (allCores.filter s.starting).map Event.phaseStart
  let free := (s.accessSteps ++ s.engineSteps ++ s.slowSteps).filter fun e => !s.slowed e
  let switch := evIf (s.health.busy && !s.health.goMode && s.health.goAt = s.cyc) .opSwitch
  { s.armFirst with
    agenda := s.agenda ++ switch ++ lands ++ starts ++ s.tqArrivals ++ s.bridgeArrivals ++ someOf s.fresh free ++ Config.outside (s.fresh + free.length)
    tqNet := s.tqNet.filter fun e => s.cyc.toNat < e.1
    bridgeNet := s.bridgeNet.filter fun e => s.cyc.toNat < e.1
    fresh := s.fresh + free.length + 1 }
/-- What is due has landed: the steps of fixed time come about, a pre-emption's stop after every trap of the cycle (R182), and the
streams may issue. -/
def State.issuePart (s : State) : State :=
  let stops := (allCores.filter fun k => (s.core k).preempted.isSome && (s.savingOf k).isNone).map Event.preemptStop
  { s with part := .issue, agenda := s.agenda ++ allCores.flatMap s.coreSteps ++ s.windowSteps ++ s.peersOver.map Event.peerReadServe ++ s.timedSteps ++ stops, turn := s.streams }
/-- Without power nothing comes about until the outside world gives it back (R490, R498; log 3). -/
def State.dark (s : State) : State :=
  { s.draw with agenda := (Config.outside s.fresh).filter fun e => match e with | .powerOn => true | _ => false }
/-- The next part of the present cycle begins, or the next cycle. -/
def State.tick (s : State) : State :=
  match s.part with
  | .landings => s.issuePart
  | .issue => s.close
  | .closed => s.advance

end Sys2Proof.Machine
end

