-- ==== Sys2Proof/Machine/Step.lean ====
section
/-!
DEFINITION. Machine/Step.lean: one step of the package: a machine step of the agenda, else the next stream's bundle, else the
end or the start of a wall cycle.
-/
namespace Sys2Proof.Machine

/-- A step. Without power nothing is left but the agenda and the return of power (R490, R498). -/
def step (s : State) : Host.Outcome State Fault Refusal :=
  match s.agenda with
  | e :: r => e.run { s with agenda := r }
  | [] =>
    if !s.power then .next s.dark
    else match s.turn with
      | (k, comp) :: r => State.issue { s with turn := r } k comp
      | [] => .next s.tick

/-- The primary stream of core 0 stands, running, at a bundle in memory that a cached translation maps, and issues next. The
log says how a program comes to run from reset (log 4). -/
def State.withFetchWord (s : State) (nbits w : Nat) : State :=
  let pa := wb s.devid 9 0 * 2 ^ 42
  let s : State := { s with
    power := true, agenda := [], turn := [(0, false)], ptbase := 1, curCtx := none
    mem := Memory.putN s.mem pa 32 (tableBundle nbits w).toNat (2 ^ 32 - 1)
    poison := s.poison.filter fun x => x ≠ pa / 64 }
  s.modCore 0 fun c =>
    { c with
      ctx := none, place := .startCode, frozen := false, tlb := [{ va := 0, size := 16, pa := pa, perm := 5 }]
      prim := { c.prim with run := .running, pc := 0, holdTo := c.prim.inst, ready := c.prim.inst, fence := none, waits := [], ibuf := [] } }

end Sys2Proof.Machine
end

