-- ==== Sys2Proof/Safety.lean ====
section
/-!
DEFINITION. Safety.lean: what claims call a safe run, when a slot has its effect, and the invariants of the state that
claims name.
-/
namespace Sys2Proof.Machine

/-- The state after n steps, none once a step faults or refuses. -/
def State.after (s : State) : Nat → Option State
  | 0 => some s
  | n + 1 =>
    match step s with
    | .next t => t.after n
    | .fault _ => none
    | .refused _ => none
/-- n steps run without a fault or a refusal. -/
def State.safeFor (s : State) (n : Nat) : Prop := ∃ t, s.after n = some t
/-- A step answers a next state of which p holds. -/
def Out.nextIs (o : Out) (p : State → Prop) : Prop := ∃ t, o = .next t ∧ p t
/-- Device memory is in its canonical form. -/
def State.memOk (s : State) : Prop := Memory.wf s.mem = true
/-- A core's scratchpad, and the copy that an audit log may take of it, are in their canonical form. -/
def Core.formOk (c : Core) : Prop := Memory.wf c.sp = true ∧ ∀ a ∈ c.atLnch, Memory.wf a.sp = true
/-- Device memory, every core's scratchpad, every scratchpad of a switched-out core and every image in an audit log are in their
canonical form. -/
def State.formOk (s : State) : Prop :=
  s.memOk ∧ (∀ k : CoreId, (s.core k).formOk) ∧ (∀ x ∈ s.ctxs, ∀ p ∈ x.saved, p.2.formOk) ∧ (∀ b ∈ s.audblks, Memory.wf b.log.sp = true)

/-- The slot of i executes in the present bundle with its effect: no register or row makes it wait (R36, R67), no
issue-class cause holds (R84), and its guard is 1 (R60, R62). -/
def State.goes (s : State) (i : Instr) : Prop :=
  s.slotWaits i = false ∧ s.slotFault i [i] (s.cascadeLag i.shape) = none ∧ s.guardOn i.shape = true
/-- The state in which the effect of such a slot comes about: its weight is charged, its hold cycles run, and an open
segment that it fixes is fixed (R62, R64, R88, R454). -/
def State.placed (s : State) (i : Instr) : State := (s.occupy i.shape).fixSegment i
/-- The registers that programs compute with are alike in two streams. -/
structure SameArch (a b : Strm) : Prop where
  x  : a.x = b.x
  sx : a.sx = b.sx
  p  : a.p = b.p
  sp : a.sp = b.sp
  v  : a.v = b.v
  o  : a.o = b.o
  j  : a.j = b.j
  m  : a.m = b.m
/-- They are alike in every stream of every core. -/
def SameRegisters (s t : State) : Prop := ∀ (k : CoreId) (comp : Bool), SameArch (s.strm k comp) (t.strm k comp)
/-- Device and host memory, its poison, and every scratchpad are alike. -/
def SameMemory (s t : State) : Prop :=
  t.mem = s.mem ∧ t.poison = s.poison ∧ ∀ k : CoreId, (t.core k).sp = (s.core k).sp ∧ (t.core k).spBad = (s.core k).spBad
/-- Nothing of the stream in focus is in flight, pending or stopped. -/
def State.calm (s : State) : Prop := s.me.pend = [] ∧ s.me.waits = [] ∧ s.me.trap.pend = false

/-- The instruction that a machine step of the agenda is; the errors that cells and read paths come by (R221, R353, R473) and the
passing on of a near-memory command (R350) are no row of the opcode table. -/
noncomputable def Event.instr : Event → Option Instr
  | .untimedResultLand id => some (.untimedResultLand id)
  | .homeAccess id => some (.homeAccess id)
  | .writeAck id => some (.writeAck id)
  | .localStreamFill k q => some (.localStreamFill k q)
  | .streamRequest k q => some (.streamRequest k q)
  | .ringLanding id => some (.ringLanding id)
  | .ringStageFill k q => some (.ringStageFill k q)
  | .transposerRead k => some (.transposerRead k)
  | .peerReadServe k => some (.peerReadServe k)
  | .freezeAnnounce k src inst => some (.freezeAnnounce k src inst)
  | .freezeTakeEffect k => some (.freezeTakeEffect k)
  | .freezeResume k => some (.freezeResume k)
  | .freezeTimeout k => some (.freezeTimeout k)
  | .groupStop k => some (.groupStop k)
  | .bodyLengthExceeded k => some (.bodyLengthExceeded k)
  | .weirFreezeRequest k => some (.weirFreezeRequest k)
  | .clockStretch r => some (.clockStretch r)
  | .stretchFreeze r => some (.stretchFreeze r)
  | .criticalMargin r => some (.criticalMargin r)
  | .opctlGoSync => some (.opctlGoSync)
  | .opctlGoRunning => some (.opctlGoRunning)
  | .opSwitch => some (.opSwitch)
  | .runningRampStep => some (.runningRampStep)
  | .powerLoop watts temp => some (.powerLoop watts temp)
  | .pfWindowEnd => some (.pfWindowEnd)
  | .trapactContinue k comp => some (.trapactContinue k comp)
  | .trapactAbort k comp => some (.trapactAbort k comp)
  | .groupResume k => some (.groupResume k)
  | .uiDeliver k => some (.uiDeliver k)
  | .slotStart => some (.slotStart)
  | .preemptStop k => some (.preemptStop k)
  | .preemptSave k => some (.preemptSave k)
  | .preemptResume k => some (.preemptResume k)
  | .phldLoadDone bank => some (.phldLoadDone bank)
  | .phaseLatch => some (.phaseLatch)
  | .pageRequestAnswer va => some (.pageRequestAnswer va)
  | .refreshDebtRepaid => some (.refreshDebtRepaid)
  | .sluiceLastArrival => some (.sluiceLastArrival)
  | .slackOverrun => some (.slackOverrun)
  | .phaseStart k => some (.phaseStart k)
  | .seqctlGo => some (.seqctlGo)
  | .seqctlAbort => some (.seqctlAbort)
  | .partitionPeriod => some (.partitionPeriod)
  | .jcopy cl serial => some (.jcopy cl serial)
  | .jcopyt cl serial => some (.jcopyt cl serial)
  | .jgather cl serial => some (.jgather cl serial)
  | .jscatter cl serial => some (.jscatter cl serial)
  | .jred cl serial => some (.jred cl serial)
  | .jsnap cl serial => some (.jsnap cl serial)
  | .jobComplete cl serial => some (.jobComplete cl serial)
  | .snapshotBlockCopy stack => some (.snapshotBlockCopy stack)
  | .nadd u => some (.nadd u)
  | .naxpy u => some (.naxpy u)
  | .nscal u => some (.nscal u)
  | .nsgdw u => some (.nsgdw u)
  | .nadamw u => some (.nadamw u)
  | .nfill u => some (.nfill u)
  | .nred u => some (.nred u)
  | .ncopy u => some (.ncopy u)
  | .ncvt u => some (.ncvt u)
  | .nchk u => some (.nchk u)
  | .nmStep u => some (.nmStep u)
  | .nmPass _ _ _ => none
  | .nmReadError _ _ => none
  | .rowError _ _ _ => none
  | .snapshotError _ => none
  | .sectorError _ _ => none
  | .nmCommandComplete u => some (.nmCommandComplete u)
  | .samplerFetch cl => some (.samplerFetch cl)
  | .samplerExecute cl => some (.samplerExecute cl)
  | .samplerCommit cl => some (.samplerCommit cl)
  | .samplerComplete cl => some (.samplerComplete cl)
  | .kvLost pa => some (.kvLost pa)
  | .flitReceive port flit => some (.flitReceive port flit)
  | .nakRepeat port => some (.nakRepeat port)
  | .replayWindowEnd port => some (.replayWindowEnd port)
  | .trainingComplete port ok => some (.trainingComplete port ok)
  | .pctlRetrain port => some (.pctlRetrain port)
  | .tqrow msg => some (.tqrow msg)
  | .rd msg => some (.rd msg)
  | .wr msg => some (.wr msg)
  | .rsp msg => some (.rsp msg)
  | .atom msg => some (.atom msg)
  | .sluiceArrival msg => some (.sluiceArrival msg)
  | .sluiceStart msg => some (.sluiceStart msg)
  | .timeRequest msg => some (.timeRequest msg)
  | .timeReply msg => some (.timeReply msg)
  | .timeStep msg => some (.timeStep msg)
  | .timeReport msg => some (.timeReport msg)
  | .tqclose msg => some (.tqclose msg)
  | .tqack msg => some (.tqack msg)
  | .freezeMessage k resume inst => some (.freezeMessage k resume inst)
  | .freezeMessageLate k => some (.freezeMessageLate k)
  | .realignBegin => some (.realignBegin)
  | .jobTree _ _ => none
  | .timeExchangeSend => some (.timeExchangeSend)
  | .cycStep => some (.cycStep)
  | .realignTimeout => some (.realignTimeout)
  | .replayEnd k => some (.replayEnd k)
  | .auditLogCopy k => some (.auditLogCopy k)
  | .auditReplay blk => some (.auditReplay blk)
  | .auditCompare blk => some (.auditCompare blk)
  | .rcvmarkWrite v => some (.rcvmarkWrite v)
  | .recoveryRecordWrite => some (.recoveryRecordWrite)
  | .registerWrite k comp n v => some (.registerWrite k comp n v)
  | .firmwareWrite _ _ _ _ => none
  | .hw0Read _ _ => none
  | .hw0Write _ _ _ => none
  | .hw2Read _ _ => none
  | .hw2Write _ _ => none
  | .hostCas128 _ => none
  | .hostRead off len => some (.hostRead off len)
  | .hostWrite off data => some (.hostWrite off data)
  | .hostFetchadd off wide v => some (.hostFetchadd off wide v)
  | .hostSwap off wide v => some (.hostSwap off wide v)
  | .hostCas off wide cmp v => some (.hostCas off wide cmp v)
  | .load slot => some (.load slot)
  | .attest slot => some (.attest slot)
  | .seed slot => some (.seed slot)
  | .abort slot => some (.abort slot)
  | .tlbinvWrite v => some (.tlbinvWrite v)
  | .tlbinvDone => some (.tlbinvDone)
  | .startGo => some (.startGo)
  | .startClr => some (.startClr)
  | .fundamentalReset => some (.fundamentalReset)
  | .powerOn => some (.powerOn)
  | .powerLoss => some (.powerLoss)
  | .startTimeout => some (.startTimeout)
  | .entropyHealthFail => some (.entropyHealthFail)
  | .entropyPass => some (.entropyPass)
  | .inFlightResultLanding k => some (.inFlightResultLanding k)
  | .preTranslationArrival => some (.preTranslationArrival)
  | .realignComplete => some (.realignComplete)
  | .stbaseWrite v => some (.stbaseWrite v)

end Sys2Proof.Machine
end

