-- ==== Sys2Proof/Certificates/Slice0/Obligations.lean ====
section
/-!
DEFINITION. Certificates/Slice0/Obligations.lean: the statements for the provers. Each comes from the numbered rules of the spec
or, where its docstring says so, from a choice of the model. Results in flight are stated as the entry that the slot adds
(`State.later`: due n instants after the issue) and, for what happens when it is due, by the statements on landing.
-/
namespace Sys2Proof.Machine

/-! ### What the statements are written with -/

/-- A form of an instruction with what it is stated to bring: the value, usable how many instants on, by which slot. -/
structure Claim (α : Type) where
  instr : Instr
  slot  : Nat
  lat   : Nat
  val   : α

/-- Causes raised are recorded in AXFLAG (R113). -/
def State.flagged (s : State) (fl : Causes) : State :=
  if fl = 0 then s else s.modMe fun t => { t with axflag := t.axflag ||| fl }
/-- a · 2^n mod 2^64 and the two right shifts, for an amount taken from the low 6 bits of b (R142). -/
def low6 (b : Word) : Nat := b.toNat % 64

/-- The integer instructions of R142 and R143 and the select and move of R146 that write one scalar register and raise nothing. -/
def scalarClaims (s : State) (h : CHdr) (g : PReg) (d a b : XReg) (i12 : BitVec 12) (i16 : BitVec 16) (p : PReg) : List (Claim Word) :=
  let x := s.x a
  let y := s.x b
  [ ⟨.addC h d a b, 0, 1, x + y⟩, ⟨.addS g d a b, 1, 1, x + y⟩, ⟨.subC h d a b, 0, 1, x - y⟩, ⟨.subS g d a b, 1, 1, x - y⟩
  , ⟨.andC h d a b, 0, 1, x &&& y⟩, ⟨.andS g d a b, 1, 1, x &&& y⟩, ⟨.orC h d a b, 0, 1, x ||| y⟩, ⟨.orS g d a b, 1, 1, x ||| y⟩
  , ⟨.xorC h d a b, 0, 1, x ^^^ y⟩, ⟨.xorS g d a b, 1, 1, x ^^^ y⟩
  , ⟨.andnC h d a b, 0, 1, x &&& ~~~y⟩, ⟨.andnS g d a b, 1, 1, x &&& ~~~y⟩
  , ⟨.shlC h d a b, 0, 1, BitVec.ofNat 64 (x.toNat * 2 ^ low6 y)⟩, ⟨.shlS g d a b, 1, 1, BitVec.ofNat 64 (x.toNat * 2 ^ low6 y)⟩
  , ⟨.shrC h d a b, 0, 1, BitVec.ofNat 64 (x.toNat / 2 ^ low6 y)⟩, ⟨.shrS g d a b, 1, 1, BitVec.ofNat 64 (x.toNat / 2 ^ low6 y)⟩
  , ⟨.sraC h d a b, 0, 1, BitVec.ofInt 64 (x.toInt / (2 ^ low6 y : Nat))⟩, ⟨.sraS g d a b, 1, 1, BitVec.ofInt 64 (x.toInt / (2 ^ low6 y : Nat))⟩
  , ⟨.minC h d a b, 0, 1, BitVec.ofInt 64 (min x.toInt y.toInt)⟩, ⟨.maxC h d a b, 0, 1, BitVec.ofInt 64 (max x.toInt y.toInt)⟩
  , ⟨.minuC h d a b, 0, 1, BitVec.ofNat 64 (min x.toNat y.toNat)⟩, ⟨.maxuC h d a b, 0, 1, BitVec.ofNat 64 (max x.toNat y.toNat)⟩
  , ⟨.rol g d a b, 1, 1, (x <<< low6 y) ||| (x >>> (64 - low6 y))⟩
  , ⟨.clz g d a, 1, 1, BitVec.ofNat 64 (leadZeros 64 x)⟩, ⟨.ctz g d a, 1, 1, BitVec.ofNat 64 (trailZeros 64 x)⟩
  , ⟨.popc g d a, 1, 1, BitVec.ofNat 64 (popCount 64 x)⟩
  , ⟨.liC h d i12, 0, 1, i12.signExtend 64⟩, ⟨.liS g d i16, 1, 1, i16.signExtend 64⟩
  , ⟨.addiC h d i12, 0, 1, s.x d + i12.signExtend 64⟩, ⟨.addiS g d i16, 1, 1, s.x d + i16.signExtend 64⟩
  , ⟨.lihC h d i12, 0, 1, BitVec.ofNat 64 ((s.x d).toNat * 2 ^ 12 + i12.toNat)⟩
  , ⟨.lihS g d i16, 1, 1, BitVec.ofNat 64 ((s.x d).toNat * 2 ^ 16 + i16.toNat)⟩
  , ⟨.sel g d a b p, 1, 1, if s.p p then x else y⟩, ⟨.movp g d p, 1, 1, if s.p p then 1 else 0⟩ ]
/-- The products of R144. -/
def mulClaims (s : State) (g : PReg) (d a b : XReg) : List (Claim Word) :=
  let x := s.x a
  let y := s.x b
  [ ⟨.mul g d a b, 1, 3, x * y⟩, ⟨.mulh g d a b, 1, 3, BitVec.ofInt 64 (x.toInt * y.toInt / 2 ^ 64)⟩
  , ⟨.mulhu g d a b, 1, 3, BitVec.ofNat 64 (x.toNat * y.toNat / 2 ^ 64)⟩ ]
/-- The divisions of R144, with the value for a divisor that is not 0 and for one that is. -/
def divClaims (s : State) (g : PReg) (d a b : XReg) : List (Claim (Word × Word)) :=
  let x := s.x a
  let y := s.x b
  [ ⟨.div g d a b, 1, 18, (BitVec.ofInt 64 (x.toInt.tdiv y.toInt), BitVec.allOnes 64)⟩
  , ⟨.divu g d a b, 1, 18, (BitVec.ofNat 64 (x.toNat / y.toNat), BitVec.allOnes 64)⟩
  , ⟨.rem g d a b, 1, 18, (BitVec.ofInt 64 (x.toInt - y.toInt * x.toInt.tdiv y.toInt), x)⟩
  , ⟨.remu g d a b, 1, 18, (BitVec.ofNat 64 (x.toNat - y.toNat * (x.toNat / y.toNat)), x)⟩ ]
/-- The compares of R145: the condition r. -/
def compareClaims (s : State) (h : CHdr) (g : PReg) (pd : PReg) (a b : XReg) (i8 : BitVec 8) : List (Claim Bool) :=
  let x := s.x a
  let y := s.x b
  [ ⟨.cmpeqC h pd a b, 0, 1, decide (x = y)⟩, ⟨.cmpeqS g pd a b, 1, 1, decide (x = y)⟩
  , ⟨.cmpltC h pd a b, 0, 1, decide (x.toInt < y.toInt)⟩, ⟨.cmpltS g pd a b, 1, 1, decide (x.toInt < y.toInt)⟩
  , ⟨.cmpltuC h pd a b, 0, 1, decide (x.toNat < y.toNat)⟩, ⟨.cmpltuS g pd a b, 1, 1, decide (x.toNat < y.toNat)⟩
  , ⟨.cmpleC h pd a b, 0, 1, decide (x.toInt ≤ y.toInt)⟩, ⟨.cmpleS g pd a b, 1, 1, decide (x.toInt ≤ y.toInt)⟩
  , ⟨.cmpleuC h pd a b, 0, 1, decide (x.toNat ≤ y.toNat)⟩, ⟨.cmpleuS g pd a b, 1, 1, decide (x.toNat ≤ y.toNat)⟩
  , ⟨.cmpeqi h pd a i8, 0, 1, decide (x = i8.signExtend 64)⟩, ⟨.cmplti h pd a i8, 0, 1, decide (x.toInt < i8.toInt)⟩ ]
/-- The predicate instructions of R146 that write one predicate. -/
def predicateClaims (s : State) (h : CHdr) (g : PReg) (pd pa pb : PReg) (a : XReg) : List (Claim Bool) :=
  [ ⟨.pand h pd pa pb, 0, 1, s.p pa && s.p pb⟩, ⟨.por h pd pa pb, 0, 1, s.p pa || s.p pb⟩
  , ⟨.pxor h pd pa pb, 0, 1, s.p pa != s.p pb⟩, ⟨.pandn h pd pa pb, 0, 1, s.p pa && !s.p pb⟩
  , ⟨.pmov g pd a, 1, 1, (s.x a).getLsbD 0⟩ ]
/-- A floating operand: the low bits of a scalar register (R147). -/
def State.fp (s : State) (f : FFmt) (r : XReg) : FVal := f.decode ((s.x r).toNat % 2 ^ f.bits)
/-- The floating instructions of R147 that write a scalar register: the rounded value of the exact result, with its causes. -/
def floatClaims (s : State) (g : PReg) (f : FFmt) (rm : Rm) (fr ty : CvtTy) (d a b : XReg) : List (Claim FRes) :=
  [ ⟨.fadd g f rm d a b, 1, 4, Sys2Proof.fadd f rm (s.fp f a) (s.fp f b)⟩
  , ⟨.fsub g f rm d a b, 1, 4, Sys2Proof.fadd f rm (s.fp f a) (s.fp f b).negate⟩
  , ⟨.fmul g f rm d a b, 1, 4, Sys2Proof.fmul f rm (s.fp f a) (s.fp f b)⟩
  , ⟨.ffma g f rm d a b, 1, 4, Sys2Proof.ffma f rm (s.fp f a) (s.fp f b) (s.fp f d)⟩
  , ⟨.fcvt g fr ty rm d a, 1, 4, scalarCvt fr ty rm (s.x a)⟩ ]

end Sys2Proof.Machine

open Sys2Proof Sys2Proof.Machine

/-! ### Encoding (R57, R63, R72 to R83) -/

/-- Words that the spec prints decode to the instructions they stand beside, of every slot. -/
def Obligations.PrintedWordsDecode : Prop :=
  decodeSlot 0 0x023C5100 = .ok (.liC ⟨0, 2⟩ 5 0x100) ∧ decodeSlot 0 0x01000000 = .ok (.hold 1) ∧
  decodeSlot 0 0x00A40000 = .ok (.tend ⟨0, 0⟩) ∧ decodeSlot 0 0x008C0002 = .ok (.pbr ⟨0, 0⟩ 0 2) ∧
  decodeSlot 0 0x00946002 = .ok (.loop ⟨0, 0⟩ 6 2) ∧ decodeSlot 0 0x80070C47 = .ok (.addC ⟨8, 0⟩ 48 49 7) ∧
  decodeSlot 0 0x00980000 = .ok (.brl ⟨0, 0⟩ 0) ∧ decodeSlot 0 0x00988000 = .ok (.brl ⟨0, 0⟩ 1) ∧
  decodeSlot 1 0x05C60007 = .ok (.liS 0 6 7) ∧ decodeSlot 1 0x20C71460 = .ok (.mul 2 7 5 6) ∧
  decodeSlot 1 0xA04517A0 = .ok (.addS 10 5 5 58) ∧ decodeSlot 1 0x80F8C300 = .ok (.mul 8 56 48 48) ∧
  decodeSlot 2 0x00C81083 = .ok (.vaddV0 ⟨0, .w1024, .i32⟩ 1 2 3) ∧ decodeSlot 2 0x09842289 = .ok (.vcmpeqV0 ⟨0, .w256, .i16⟩ 2 10 9) ∧
  decodeSlot 3 0x31103042 = .ok (.vsubV1 ⟨3, .w256, .f16⟩ 3 1 2) ∧ decodeSlot 3 0x38905100 = .ok (.vraddV1 ⟨3, .w256, .f16⟩ 5 4) ∧
  decodeSlot 4 0x35104C80 = .ok (.vexp2 ⟨3, .w256, .f16⟩ 4 0x32) ∧ decodeSlot 4 0x36106C80 = .ok (.vrcp ⟨3, .w256, .f16⟩ 6 0x32) ∧
  decodeSlot 5 0x07000000 = .ok (.xzero 0 true .none false) ∧ decodeSlot 5 0x06000000 = .ok (.xzero 0 false .none false) ∧
  decodeSlot 5 0x02601000 = .ok (.xacc 0 false .f16u4 (.q 0) (.q 2) 0 0 .none false) ∧
  decodeSlot 5 0x08000400 = .ok (.xdrn 0 .clear false) ∧
  decodeSlot 6 0x00441402 = .ok (.ld 0 4 5 2) ∧ decodeSlot 6 0x01820450 = .ok (.rmrg 0 2 1 5) ∧
  decodeSlot 6 0x024724A0 = .ok (.aopAdd 0 7 9 10) ∧ decodeSlot 6 0x02D20000 = .ok (.fenceRel 0 .package) ∧
  decodeSlot 7 0x01CA8000 = .ok (.xcfg 0 false 21) ∧ decodeSlot 7 0x01841C70 = .ok (.eld 0 2 7 7) ∧
  decodeSlot 7 0x01423400 = .ok (.zld 0 1 13) ∧ decodeSlot 7 0x010138F0 = .ok (.gls 0 0 true 14 15) ∧
  decodeSlot 7 0x04870000 = .ok (.tqbind 0 7) ∧ decodeSlot 7 0x04D00000 = .ok (.tqfl 0 2) ∧
  decodeSlot 7 0x024D0800 = .ok (.jsub 0 13 2) ∧ decodeSlot 7 0x024E3000 = .ok (.jsub 0 14 12) ∧
  decodeSlot 7 0x02C10E80 = .ok (.barmSet 0 2 7 true) ∧ decodeSlot 7 0x03401800 = .ok (.uien 0 6) ∧
  decodeSlot 6 0x029A2590 = .ok (.rwlWracq 0 26 9 6) ∧ decodeSlot 6 0x024028B0 = .ok (.aopAdd 0 0 10 11) ∧
  decodeSlot 7 0x25C70240 = .ok (.phld 2 false 14 9) ∧ decodeSlot 7 0x35E68100 = .ok (.phld 3 true 13 4) ∧
  decodeSlot 7 0x058C0000 = .ok (.phsel 0 3) ∧ decodeSlot 7 0x06061400 = .ok (.lnch 0 6 5) ∧ decodeSlot 7 0x00414000 = .ok (.sbind 0 0 10) ∧
  decodeSlot 0 0x07980000 = .ok (.brl ⟨0, 7⟩ 0) ∧ decodeSlot 0 0x00608B08 = .ok (.cmplti ⟨0, 0⟩ 2 11 8) ∧
  decodeSlot 0 0x00A80000 = .ok (.realign ⟨0, 0⟩) ∧ decodeSlot 7 0x05C70040 = .ok (.phld 0 false 14 1) ∧
  decodeSlot 7 0x01C18000 = .ok (.xcfg 0 false 3) ∧ decodeSlot 5 0x04000800 = .ok (.xaccz 0 false .i8i8 (.q 0) (.q 1) 0 0 .none false) ∧
  decodeSlot 5 0x08000200 = .ok (.xdrn 0 .shift false) ∧ decodeSlot 5 0x04281000 = .ok (.xaccz 0 false .f16f16 (.tq 0) (.q 2) 0 0 .none false) ∧
  decodeSlot 5 0x02281000 = .ok (.xacc 0 false .f16f16 (.tq 0) (.q 2) 0 0 .none false) ∧
  decodeSlot 2 0x0D054080 = .ok (.vbcl ⟨0, .w256, .i16⟩ 20 2 0) ∧ decodeSlot 3 0x05055C06 = .ok (.vandV1 ⟨0, .w256, .i16⟩ 21 0x30 6) ∧
  decodeSlot 4 0x0C044C86 = .ok (.vcmpeqV2 ⟨0, .w256, .i16⟩ 4 0x32 6) ∧ decodeSlot 2 0x0C04A081 = .ok (.vshuf ⟨0, .w256, .i16⟩ 10 2 1) ∧
  decodeSlot 1 0x05890001 = .ok (.addiS 0 9 1) ∧ decodeSlot 7 0x02100000 = .ok (.xmaskFill 0) ∧
  decodeSlot 7 0x02042400 = .ok (.xmaskRow 0 4 9) ∧ decodeSlot 7 0x068D3800 = .ok (.smpsub 0 13 14)
/-- Decoding the encoded word of a well-formed slot instruction gives it back, with every operand at every value. -/
def Obligations.EncodeThenDecode : Prop :=
  ∀ (i : Instr) (k : Nat), i.slot = some k → i.wf = true → decodeSlot k (encode i) = .ok i
/-- A word that decodes is the encoding of what it decodes to, which is well formed: no two words of a slot stand for one
instruction, and no reserved word is accepted. -/
def Obligations.DecodeThenEncode : Prop :=
  ∀ (k : Nat) (w : Word32) (i : Instr), k < 8 → decodeSlot k w = .ok i →
    encode i = w ∧ i.wf = true ∧ (i = .nop ∨ i.slot = some k)
/-- In every slot 0x0000_0000 is NOP, which has no effect; a C slot with nothing but a hold count is hold-only; any other word
that holds the NOP code stands for no instruction, and a bundle with such a word traps with ILLEGAL at issue (R63). Neither NOP
nor hold-only weighs anything. -/
def Obligations.NopCode : Prop :=
  (∀ k, k < 8 → decodeSlot k 0 = .ok .nop) ∧ (∀ s, exec .nop s = .next s) ∧
  (∀ n : BitVec 4, n ≠ 0 → decodeSlot 0 (n.setWidth 32 <<< 24) = .ok (.hold n)) ∧
  (∀ w : Word32, w ≠ 0 → w.extractLsb' 18 6 = 0 → (∀ n : BitVec 4, w ≠ n.setWidth 32 <<< 24) → ∃ r, decodeSlot 0 w = .error r) ∧
  (∀ w : Word32, w ≠ 0 → w.extractLsb' 22 6 = 0 → ∃ r, decodeSlot 1 w = .error r) ∧
  (∀ w : Word32, w ≠ 0 → w.extractLsb' 23 5 = 0 → ∀ k, k = 2 ∨ k = 3 ∨ k = 4 → ∃ r, decodeSlot k w = .error r) ∧
  (∀ w : Word32, w ≠ 0 → w.extractLsb' 25 3 = 0 → ∃ r, decodeSlot 5 w = .error r) ∧
  (∀ w : Word32, w ≠ 0 → w.extractLsb' 22 6 = 0 → ∀ k, k = 6 ∨ k = 7 → ∃ r, decodeSlot k w = .error r) ∧
  (∀ n : BitVec 4, (Instr.hold n).shape.occ = true ∧ (Instr.hold n).shape.weight = 0 ∧ Instr.nop.shape.weight = 0) ∧
  (∀ (s : State) (b : BitVec 256) (k : Nat) (r : Reject), k < 8 → slotWord b k ≠ 0 → decodeSlot k (slotWord b k) = .error r →
    s.me.trap.pend = false → s.me.run ≠ .trapped → ∃ t, s.runBundle b = .next t ∧ t.me.run = .trapped ∧ t.me.trap.pend = true ∧ t.me.trap.cls = 0 ∧
      t.me.trap.cause = 0x01 ∧ t.me.trap.pc = s.me.pc ∧ SameRegisters s t ∧ SameMemory s t)

/-! ### Issue (R58, R62, R64, R84 to R86) -/

/-- A slot whose guard is 0 only takes its place in the bundle: its weight counts, its hold cycles run, and nothing else
changes. -/
def Obligations.GuardZeroOnlyPlaces : Prop :=
  ∀ (i : Instr) (s : State), i.slot.isSome → s.slotWaits i = false → s.slotFault i [i] (s.cascadeLag i.shape) = none →
    s.guardOn i.shape = false → exec i s = .next (s.placed i)
/-- An issue-class cause is the whole effect of a slot: the stream takes the trap at its bundle with the cause, the slot and the
information, and every register, predicate, mask, vector and matrix register and every byte of memory stays as it was. -/
def Obligations.IssueClassCauseCommitsNothing : Prop :=
  ∀ (i : Instr) (s : State) (c : Nat) (w : Word), i.slot.isSome → s.slotWaits i = false →
    s.slotFault i [i] (s.cascadeLag i.shape) = some (c, w) → c < 128 → s.me.trap.pend = false → s.me.run ≠ .trapped →
    ∃ t, exec i s = .next t ∧ t.me.run = .trapped ∧ t.me.trap.pend = true ∧ t.me.trap.cls = 0 ∧ t.me.trap.cause = BitVec.ofNat 7 c ∧
      t.me.trap.slot = BitVec.ofNat 3 i.shape.slot ∧ t.me.trap.info = w ∧ t.me.trap.pc = s.me.pc ∧ t.me.trap.cyc = s.cyc ∧
      t.me.trap.npc = (if c = 0x07 then s.me.npc else s.me.pc) ∧
      SameRegisters s t ∧ SameMemory s t ∧ t.accs = s.accs ∧ (∀ k, (t.core k).mx = (s.core k).mx)

/-- The rule behind every result: when a slot issues, no scalar register, predicate, vector register, mask or byte of memory
changes, of any core. What the slot brings lands later; device memory changes only where an access performs. A slot of one
core changes no other core but the instant at which its group stops. -/
def Obligations.IssueWritesNoRegisterOrMemory : Prop :=
  (∀ (i : Instr) (s t : State), i.slot.isSome → exec i s = .next t → SameRegisters s t ∧ SameMemory s t) ∧
  (∀ (i : Instr) (s t : State) (k : CoreId), i.slot.isSome → exec i s = .next t → k ≠ s.focus.1 →
      ∃ a b, t.core k = { s.core k with stopAt := a, faultCy := b })

/-! ### Scalar instructions (R69, R142 to R148) -/

/-- The integer, immediate, select and move instructions: the value of R142, R143 and R146 is on its way to xd, usable at c+1.
CLZ, CTZ and POPC count what R142 says. -/
def Obligations.ScalarResults : Prop :=
  (∀ (s : State) (h : CHdr) (g : PReg) (d a b : XReg) (i12 : BitVec 12) (i16 : BitVec 16) (p : PReg),
      ∀ f ∈ scalarClaims s h g d a b i12 i16 p, s.goes f.instr → exec f.instr s = .next ((s.placed f.instr).putX f.slot f.lat d f.val)) ∧
  (∀ w : Word,
      (leadZeros 64 w ≤ 64 ∧ (∀ i, 64 - leadZeros 64 w ≤ i → w.getLsbD i = false) ∧
        (leadZeros 64 w < 64 → w.getLsbD (63 - leadZeros 64 w) = true)) ∧
      (trailZeros 64 w ≤ 64 ∧ (∀ i, i < trailZeros 64 w → w.getLsbD i = false) ∧
        (trailZeros 64 w < 64 → w.getLsbD (trailZeros 64 w) = true)) ∧
      popCount 64 w = ((List.range 64).filter w.getLsbD).length ∧ leadZeros 64 0 = 64 ∧ trailZeros 64 0 = 64)
/-- Products are usable at c+3 and divisions at c+18, and each weighs 3; a divisor of 0 sets AXFLAG bit 5 and gives the values of
R144, unless AXEN bit 5 makes it an execution-class trap with cause 0x15. The S-slot words carry the codes 0x03 to 0x09, with 0
in the field mod. -/
def Obligations.ProductsAndDivisions : Prop :=
  (∀ (s : State) (g : PReg) (d a b : XReg),
    (∀ f ∈ mulClaims s g d a b, f.instr.shape.weight = 3 ∧
      (s.goes f.instr → exec f.instr s = .next ((s.placed f.instr).putX 1 3 d f.val))) ∧
    (∀ f ∈ divClaims s g d a b, f.instr.shape.weight = 3 ∧ (s.goes f.instr →
      (s.x b ≠ 0 → exec f.instr s = .next ((s.placed f.instr).putX 1 18 d f.val.1)) ∧
      (s.x b = 0 → s.me.axen.getLsbD 5 = false →
        exec f.instr s = .next (((s.placed f.instr).flagged 0x20).putX 1 18 d f.val.2)) ∧
      (s.x b = 0 → s.me.axen.getLsbD 5 = true →
        exec f.instr s = .next (((s.placed f.instr).flagged 0x20).execTrap 0x15 1 0))))) ∧
  (∀ (g : PReg) (d a b : XReg),
    let ws := ([.mul g d a b, .mulh g d a b, .mulhu g d a b, .div g d a b, .divu g d a b, .rem g d a b, .remu g d a b] : List Instr).map encode
    ws.map (fun w => (w.extractLsb' 22 6).toNat) = [3, 4, 5, 6, 7, 8, 9] ∧ ∀ w ∈ ws, w.extractLsb' 0 4 = 0)
/-- The floating instructions: the causes of the rounded result set AXFLAG; with none of them enabled the result is usable at
c+4, zero-extended; with one enabled the slot is suppressed and the stream traps with the lowest enabled cause. -/
def Obligations.FloatResults : Prop :=
  ∀ (s : State) (g : PReg) (f : FFmt) (rm : Rm) (fr ty : CvtTy) (d a b : XReg), ∀ c ∈ floatClaims s g f rm fr ty d a b, s.goes c.instr →
    (c.val.fl &&& s.me.axen = 0 →
      exec c.instr s = .next (((s.placed c.instr).flagged c.val.fl).putX 1 4 d (BitVec.ofNat 64 c.val.bits))) ∧
    (c.val.fl &&& s.me.axen ≠ 0 →
      exec c.instr s = .next (((s.placed c.instr).flagged c.val.fl).execTrap (0x10 + lowestCause (c.val.fl &&& s.me.axen)) 1 0))
/-- The compares: p[pd] and p[pd+1] are the condition and its complement, usable at c+1. The predicate instructions: p[pd] is
usable at c+1. FCMP: the condition and its complement are usable at c+4; causes as for the other floating instructions. -/
def Obligations.PredicateResults : Prop :=
  (∀ (s : State) (h : CHdr) (g : PReg) (pd : PReg) (a b : XReg) (i8 : BitVec 8), ∀ f ∈ compareClaims s h g pd a b i8, s.goes f.instr →
      exec f.instr s = .next (((s.placed f.instr).putP f.slot f.lat pd f.val).putP f.slot f.lat (pd + 1) (!f.val))) ∧
  (∀ (s : State) (h : CHdr) (g : PReg) (pd pa pb : PReg) (a : XReg), ∀ f ∈ predicateClaims s h g pd pa pb a, s.goes f.instr →
      exec f.instr s = .next ((s.placed f.instr).putP f.slot f.lat pd f.val)) ∧
  (∀ (s : State) (g : PReg) (f : FFmt) (c : FCond) (pd : PReg) (a b : XReg),
      let i := Instr.fcmp g f c pd a b
      let r := fcompare c (s.fp f a) (s.fp f b)
      s.goes i →
      (r.2 &&& s.me.axen = 0 → exec i s = .next ((((s.placed i).flagged r.2).putP 1 4 pd r.1).putP 1 4 (pd + 1) (!r.1))) ∧
      (r.2 &&& s.me.axen ≠ 0 → exec i s = .next (((s.placed i).flagged r.2).execTrap (0x10 + lowestCause (r.2 &&& s.me.axen)) 1 0)))
/-- XV brings one lane, sign-extended for the integer types, to xd at c+1; VX brings one lane of vd from xa, and only that lane's
bytes are written. -/
def Obligations.LaneMoves : Prop :=
  ∀ (s : State) (g : PReg) (t : VType) (l : BitVec 7) (d : XReg) (v : VSel),
    (s.goes (.xv g t l d v) → exec (.xv g t l d v) s = .next ((s.placed (.xv g t l d v)).putX 1 1 d
      (if t.isInt then BitVec.ofInt 64 (sextNat t.bits (lane t.bits (s.v v) l.toNat)) else BitVec.ofNat 64 (lane t.bits (s.v v) l.toNat)))) ∧
    (s.goes (.vx g t l v d) → exec (.vx g t l v d) s = .next ((s.placed (.vx g t l v d)).later 1 1
      (.vec (s.vDst v) (BitVec.ofNat 1024 ((s.x d).toNat % 2 ^ t.bits * 2 ^ (t.bits * l.toNat)))
        (BitVec.ofNat 128 ((2 ^ (t.bits / 8) - 1) * 2 ^ (t.bits / 8 * l.toNat))) none)))
/-- A scalar result of a primary stream without a rotated name goes on its way to its register; one for x0 goes nowhere (R69).
A scalar result that is due lands in its register and changes nothing else: the primary stream, with nothing else in flight
and no segment open. A result that is not yet due does not land (R65). -/
def Obligations.ScalarResultsLand : Prop :=
  ((∀ (s : State) (sl n : Nat) (v : Word), s.putX sl n 0 v = s) ∧ (∀ s : State, s.x 0 = 0) ∧ (∀ s : State, s.p 0 = true) ∧
    (∀ s : State, s.m 0 = BitVec.allOnes 128) ∧
    (∀ (s : State) (sl n : Nat) (d : XReg) (v : Word), s.focus.2 = false → d ≠ 0 → d.toNat < 48 →
      s.putX sl n d v = s.later sl n (.x false d.toNat v))) ∧
  (∀ (s : State) (k : CoreId) (e : Pend) (n : Nat) (v : Word),
      (s.core k).prim.pend = [e] → (s.core k).comp.pend = [] → e.eff = .x false n v → e.due ≤ (s.core k).prim.inst → n ≠ 0 →
      (s.core k).seg.snap = none →
      exec (.inFlightResultLanding k) s =
        .next (s.modCore k fun c => { c with prim := { c.prim with pend := [], x := wr c.prim.x n v } })) ∧
  (∀ (s : State) (k : CoreId), (∀ e ∈ (s.core k).prim.pend, (s.core k).prim.inst < e.due) →
      (∀ e ∈ (s.core k).comp.pend, (s.core k).comp.inst < e.due) → exec (.inFlightResultLanding k) s = .next s)
/-- From issue to register: ADD xd, xa, xb issued by a calm primary stream at instant c leaves the old value readable through c,
and once the stream stands at c+1 the landing makes xd the sum. -/
def Obligations.AddReachesItsRegister : Prop :=
  ∀ (s : State) (g : PReg) (d a b : XReg), s.focus.2 = false → d ≠ 0 → d.toNat < 48 → s.calm → s.cur.comp.pend = [] →
    s.cur.seg.snap = none → s.goes (.addS g d a b) →
    ∃ t, exec (.addS g d a b) s = .next t ∧ t.x d = s.x d ∧
      ∃ u, exec (.inFlightResultLanding s.focus.1) (t.modMe fun r => { r with inst := r.inst + 1 }) = .next u ∧
        u.x d = s.x a + s.x b ∧ (∀ r : XReg, r ≠ d → u.x r = s.x r) ∧ u.mem = s.mem

/-! ### Control (R23, R64, R149 to R166) -/

/-- HOLD n: the stream issues nothing of its own in the next n cycles. PBR and PBRX prepare a target register at the present
instant. BR, CALL and RET: where the stream goes on and when. The hold cycles of the bundle come first; a target prepared less
than three instants ago costs three bubbles more. CALL pushes the next bundle's address and RET pops the newest. -/
def Obligations.Branches : Prop :=
  (∀ (s : State) (n : BitVec 4), s.goes (.hold n) →
      exec (.hold n) s = .next (s.placed (.hold n)) ∧ (s.placed (.hold n)).me.ready = s.me.inst + 1 + n.toNat) ∧
  (∀ (s : State) (h : CHdr) (t : TReg) (off : BitVec 15) (a : XReg),
      (s.goes (.pbr h t off) → ∃ u, exec (.pbr h t off) s = .next u ∧
        u.me.t = wr s.me.t t.toNat { addr := s.me.pc.setWidth 64 + 32 * off.signExtend 64, valid := true, prep := s.me.inst } ∧ u.me.npc = s.me.npc) ∧
      (s.goes (.pbrx h t a) → ∃ u, exec (.pbrx h t a) s = .next u ∧
        u.me.t = wr s.me.t t.toNat { addr := s.x a, valid := true, prep := s.me.inst } ∧ u.me.npc = s.me.npc)) ∧
  (∀ (s : State) (h : CHdr) (t : TReg),
      let g := rd s.me.t t.toNat { addr := 0, valid := false, prep := 0 }
      let bubble := if g.prep + 3 ≤ s.me.inst then 0 else 3
      (s.goes (.br h t) → ∃ u, exec (.br h t) s = .next u ∧ u.me.npc = g.addr.setWidth 52 ∧
        u.me.ready = s.me.inst + 1 + h.hold.toNat + bubble ∧ u.me.ras = s.me.ras ∧ g.valid = true ∧ g.addr.extractLsb' 0 5 = 0) ∧
      (s.goes (.call h t) → ∃ u, exec (.call h t) s = .next u ∧ u.me.npc = g.addr.setWidth 52 ∧
        u.me.ready = s.me.inst + 1 + h.hold.toNat + bubble ∧ u.me.ras = (s.me.pc.setWidth 64 + 32) :: s.me.ras ∧ s.me.ras.length < 16) ∧
      (s.goes (.ret h) → ∃ u r, exec (.ret h) s = .next u ∧ s.me.ras = r :: u.me.ras ∧ u.me.npc = r.setWidth 52 ∧
        u.me.ready = s.me.inst + 1 + h.hold.toNat))
/-- LOOP: LC, EC, RBASE 0 and p8 to p15 are usable at c+1. BRL: RBASE steps, LC counts down to 0, then EC; the new p8 says
whether LC is above 0. The branch is taken until EC is 0 too, and then the loop is no longer active. A count of 2^32 or more, a
LOOP in a loop, and a BRL outside one raise LOOP_STATE (0x09); a BRL that would branch through a bad target raises BR_TARGET.
The words of both are those of forms LP and T. -/
def Obligations.Loops : Prop :=
  (∀ (s : State) (h : CHdr) (a : XReg) (ec : BitVec 6), s.goes (.loop h a ec) →
      exec (.loop h a ec) s = .next ((s.placed (.loop h a ec)).later 0 1
        (.loop { lc := (s.x a).setWidth 32, ec := ec, base := 0, act := true }
          [(8, s.x a != 0), (9, false), (10, false), (11, false), (12, false), (13, false), (14, false), (15, false)]))) ∧
  (∀ (s : State) (h : CHdr) (t : TReg), s.goes (.brl h t) →
      let l := s.cur.loop
      let base := l.base + 1
      let lc := if l.lc = 0 then 0 else l.lc - 1
      let p8 := (8 + (16 - base.toNat) % 8, lc != 0)
      let s' := s.placed (.brl h t)
      l.act = true ∧
      (lc ≠ 0 → exec (.brl h t) s = .next ((s'.later 0 1 (.loop { lc := lc, ec := l.ec, base := base, act := true } [p8])).branch t)) ∧
      (lc = 0 → l.ec ≠ 0 →
        exec (.brl h t) s = .next ((s'.later 0 1 (.loop { lc := 0, ec := l.ec - 1, base := base, act := true } [p8])).branch t)) ∧
      (lc = 0 → l.ec = 0 →
        exec (.brl h t) s = .next (s'.later 0 1 (.loop { lc := 0, ec := 0, base := base, act := false } [p8])))) ∧
  (∀ (s : State) (t : TReg), (s.branch t).me.npc = (rd s.me.t t.toNat { addr := 0, valid := false, prep := 0 }).addr.setWidth 52) ∧
  (∀ (s : State) (n : BitVec 4) (a : XReg) (ec : BitVec 6) (t : TReg), s.focus.2 = false → s.calm →
      let l := s.cur.loop
      let g := rd s.me.t t.toNat { addr := 0, valid := false, prep := 0 }
      let lp := Instr.loop ⟨0, n⟩ a ec
      let br := Instr.brl ⟨0, n⟩ t
      (l.act = true ∨ 2 ^ 32 ≤ (s.x a).toNat → ∃ w, s.slotFault lp [lp] 0 = some (0x09, w)) ∧
      (l.act = false → ∃ w, s.slotFault br [br] 0 = some (0x09, w)) ∧
      (l.act = true → (1 < l.lc.toNat ∨ l.ec ≠ 0) → (g.valid = false ∨ g.addr.extractLsb' 0 5 ≠ 0 ∨ g.addr.extractLsb' 52 12 ≠ 0) →
        ∃ w, s.slotFault br [br] 0 = some (0x08, w))) ∧
  (∀ (g : PReg) (n : BitVec 4) (a : XReg) (ec : BitVec 6) (t : TReg),
      let head := (g.setWidth 32 <<< 28) ||| (n.setWidth 32 <<< 24)
      encode (.loop ⟨g, n⟩ a ec) = head ||| ((0x25 : Word32) <<< 18) ||| (a.setWidth 32 <<< 12) ||| ec.setWidth 32 ∧
      encode (.brl ⟨g, n⟩ t) = head ||| ((0x26 : Word32) <<< 18) ||| (t.setWidth 32 <<< 15))
/-- What other entries bring when they are due, and nothing else: a predicate, the loop registers with their predicates, a scale
register, the configuration word of a bank with every half bit 0, rows of the mask block, and a control register. -/
def Obligations.ConfigurationLands : Prop :=
  ∀ (s : State) (k : CoreId) (e : Pend), (s.core k).prim.pend = [e] → (s.core k).comp.pend = [] → e.due ≤ (s.core k).prim.inst →
    (s.core k).seg.snap = none →
    let brings := fun (f : Core → Core) => exec (.inFlightResultLanding k) s =
      .next (s.modCore k fun c => f { c with prim := { c.prim with pend := [] } })
    (∀ n b, e.eff = .p false n b → n ≠ 0 → brings fun c => { c with prim := { c.prim with p := wr c.prim.p n b } }) ∧
    (∀ l ps, e.eff = .loop l ps → (∀ q ∈ ps, q.1 ≠ 0) →
      brings fun c => { c with loop := l, prim := { c.prim with p := ps.foldl (fun v q => wr v q.1 q.2) c.prim.p } }) ∧
    (∀ n vs tag, e.eff = .greg n vs tag →
      brings fun c => { c with mx := { c.mx with g := wr c.mx.g n { vals := Vector.ofFn fun i => vs.getD i.val 0, tag := tag } } }) ∧
    (∀ b w, e.eff = .xcfg b w → brings fun c =>
      let latch := c.mx.latch.map fun l => { l with half := false }
      { c with mx := if b then { c.mx with bcfg1 := w, latch := latch } else { c.mx with bcfg0 := w, latch := latch } }) ∧
    (∀ i v, e.eff = .xmaskRow i v → brings fun c => { c with mx := { c.mx with mask := wr c.mx.mask i v } }) ∧
    (e.eff = .xmaskFill →
      brings fun c => { c with mx := { c.mx with mask := Vector.replicate 128 (BitVec.allOnes 128), mvalid := true } }) ∧
    (e.eff = .xmaskInv → brings fun c => { c with mx := { c.mx with mvalid := false } }) ∧
    (∀ n v, e.eff = .wrc n v → exec (.inFlightResultLanding k) s =
      .next ((s.modCore k fun c => { c with prim := { c.prim with pend := [] } }).cwrite k false n.toNat v))
/-- TRAP code: the stream stops in the issue class with cause 0x07; TRAPINFO is the code, TRAPPC the bundle, TRAPNPC its
successor, TRAPCYC the wall cycle; no register and no byte of memory changes. TRAP reaches that cause for every code: a
primary stream, its guard p0, nothing in flight. No slot of its bundle commits: with this cause the bundle's lowest, the stream
stops so, with the address after the bundle as TRAPNPC. -/
def Obligations.TrapInstruction : Prop :=
  (∀ (s : State) (h : CHdr) (code : BitVec 12), s.slotWaits (.trap h code) = false →
      s.slotFault (.trap h code) [.trap h code] 0 = some (0x07, code.setWidth 64) → s.me.trap.pend = false → s.me.run ≠ .trapped →
      ∃ t, exec (.trap h code) s = .next t ∧ t.me.run = .trapped ∧
        t.me.trap = { pend := true, cls := 0, cause := 0x07, pc := s.me.pc, npc := s.me.npc, slot := 0, info := code.setWidth 64, cyc := s.cyc } ∧
        SameRegisters s t ∧ SameMemory s t) ∧
  (∀ (s : State) (n : BitVec 4) (code : BitVec 12), s.focus.2 = false → s.calm →
      s.slotWaits (.trap ⟨0, n⟩ code) = false ∧
      s.slotFault (.trap ⟨0, n⟩ code) [.trap ⟨0, n⟩ code] 0 = some (0x07, code.setWidth 64)) ∧
  (∀ (s : State) (b : BitVec 256) (code : BitVec 12), leastFault (s.bundleFaults b) = some (0x07, 0, code.setWidth 64) →
      s.me.trap.pend = false → s.me.run ≠ .trapped → ∃ t, s.runBundle b = .next t ∧ t.me.run = .trapped ∧
        t.me.trap = { pend := true, cls := 0, cause := 0x07, pc := s.me.pc, npc := s.me.pc + 32, slot := 0, info := code.setWidth 64, cyc := s.cyc } ∧
        SameRegisters s t ∧ SameMemory s t ∧ t.accs = s.accs) ∧
  (∀ (n : BitVec 4) (g : PReg) (code : BitVec 12), encode (.trap ⟨g, n⟩ code) =
      (g.setWidth 32 <<< 28) ||| (n.setWidth 32 <<< 24) ||| ((0x2B : Word32) <<< 18) ||| code.setWidth 32)
/-- When a primary stream in a group traps, every member of the group is to stop at f + H, f the wall cycle of the trap; a
companion's trap stops no other stream. GROUP_STOP: once f + H has come, a member that issues its body stops with cause 0x00,
TRAPCYC f, and the bundle it last issued. GROUP_RESUME: in its wall cycle a member of the resumed group goes on at TRAPNPC
from its next instant, its kept hold and bubble cycles counting on, and TRAPC.PEND is 0. -/
def Obligations.GroupsStopAndResume : Prop :=
  (∀ (s : State) (k : CoreId) (cls cause slot : Nat) (pc npc : BitVec 52) (w : Word),
      (s.strm k false).trap.pend = false → (s.strm k false).run ≠ .trapped →
      (∀ j ∈ s.stopMembers k, (s.core k).group.isSome → (s.core j).stopAt = none →
        ((s.takeTrap k false cls cause slot pc npc w).core j).stopAt = some (s.cyc.toNat + s.horizon k)) ∧
      (∀ j : CoreId, ((s.takeTrap k true cls cause slot pc npc w).core j).stopAt = (s.core j).stopAt)) ∧
  (∀ (s : State) (k : CoreId) (w f : Nat), (s.core k).stopAt = some w → (s.core k).faultCy = some f → w ≤ s.cyc.toNat →
      (s.core k).prim.trap.pend = false → (s.core k).prim.run ≠ .trapped → (s.core k).group.isSome →
      ∃ t, exec (.groupStop k) s = .next t ∧ (t.strm k false).run = .trapped ∧ (t.core k).stopAt = none ∧
        (t.strm k false).trap = { pend := true, cls := 4, cause := 0, pc := (s.strm k false).last, npc := (s.strm k false).pc
                                  slot := 0, info := 0, cyc := BitVec.ofNat 64 f } ∧
        (∀ j, j ≠ k → t.core j = s.core j) ∧ SameRegisters s t ∧ SameMemory s t) ∧
  (∀ (s : State) (k : CoreId) (w : Nat), (s.core k).goAt = some w → w ≤ s.cyc.toNat → (s.core k).prim.run = .trapped →
      (s.core k).place = .body → (s.core k).startAt = none →
      ∃ t, exec (.groupResume k) s = .next t ∧ (t.strm k false).run = .running ∧ (t.strm k false).pc = (s.strm k false).trap.npc ∧
        (t.strm k false).trap.pend = false ∧ (t.strm k false).ready = (s.strm k false).inst + 1 + (s.strm k false).left.2 ∧
        (t.core k).stopAt = none ∧ (t.core k).goAt = none ∧ (∀ j, j ≠ k → t.core j = s.core j) ∧ SameRegisters s t)
/-- RDC: the control register's value at issue is usable in xd at c+1; HCVAL's is read at c+1. WRC: the write is made at c+1. -/
def Obligations.ControlRegisterAccess : Prop :=
  ∀ (s : State) (h : CHdr) (d : XReg) (n : BitVec 12),
    (s.goes (.rdc h d n) → n ≠ 0x141 → exec (.rdc h d n) s = .next ((s.placed (.rdc h d n)).putX 0 1 d
      ((s.placed (.rdc h d n)).cread s.focus.1 s.focus.2 n.toNat))) ∧
    (s.goes (.rdc h d 0x141) → s.focus.2 = false → d ≠ 0 → d.toNat < 48 →
      exec (.rdc h d 0x141) s = .next ((s.placed (.rdc h d 0x141)).later 0 1 (.hcval false d.toNat))) ∧
    (s.goes (.wrc h d n) → exec (.wrc h d n) s = .next ((s.placed (.wrc h d n)).later 0 1 (.wrc n (s.x d))))
/-- IFENCE: the bundles fetched ahead are discarded and three bubbles follow the hold cycles. UIRET: on to UIEPC after three
bubbles, with the main bank selected from c+1. WAITI: the companion issues nothing, and UIEPC is the bundle after it.
UI_DELIVER: the oldest queued record is delivered: UIEPC keeps the companion's next bundle, the shadow bank is selected with
the record's first word and its ring address in the shadow of x24 and x25, the handler's address comes from UIVEC, and the
handler issues three cycles later at the earliest (what is beyond three is a free value, log 3). -/
def Obligations.FetchAndInterrupts : Prop :=
  (∀ (s : State) (h : CHdr),
      (s.goes (.ifence h) → ∃ t, exec (.ifence h) s = .next t ∧ t.me.ibuf = [] ∧ t.me.ready = s.me.inst + 1 + h.hold.toNat + 3 ∧ t.me.npc = s.me.npc) ∧
      (s.goes (.uiret h) → ∃ t, exec (.uiret h) s = .next t ∧ t.me.npc = s.cur.uiepc ∧ t.me.ready = s.me.inst + 1 + h.hold.toNat + 3 ∧
        ∃ e ∈ t.me.pend, e.due = s.me.inst + 1 ∧ e.eff = .unshade) ∧
      (s.goes (.waiti h) → s.focus.2 = true → ∃ t, exec (.waiti h) s = .next t ∧ t.me.run = .waiti ∧ t.cur.uiepc = s.me.npc)) ∧
  (∀ (s : State) (k : CoreId) (ws : List Word) (a : Nat) (r : List (List Word × Nat)), s.delivers k = true →
      (s.core k).uiq = (ws, a) :: r →
      ∃ t n, exec (.uiDeliver k) s = .next t ∧ (t.core k).uiepc = (s.core k).comp.pc ∧ (t.core k).inh = true ∧ (t.core k).uiq = r ∧
        (t.strm k true).run = .running ∧ (t.strm k true).pc = (s.core k).uivAddr.setWidth 52 <<< 5 ∧
        rd (t.strm k true).sx 0 0 = ws.headD 0 ∧ rd (t.strm k true).sx 1 0 = BitVec.ofNat 64 a ∧
        (t.strm k true).ready = (s.core k).comp.inst + 3 + n ∧ (t.strm k true).x = (s.strm k true).x ∧
        (∀ j, j ≠ k → t.core j = s.core j) ∧ SameMemory s t)
/-- SEGB opens a segment with the registers of the next bundle as its snapshot, and the rows of the one before go out at c+1.
PHEND ends the body: the core leaves its group, its stream waits in slack and its segment is closed; a stream that another slot
of the bundle has stopped stays stopped and in its group. Where another slot of the bundle has met poison and the segment will
rewind, neither acts yet (the model's choice, log 69). TEND: the next tile of the slice starts at the task; after the last
tile, or when the launch has been cut, the stream goes on at CONT, out of any loop; three bubbles follow the hold cycles. REALIGN: the stream issues nothing further
until alignment completes. -/
def Obligations.BodyAndTileControl : Prop :=
  (∀ (s : State) (h : CHdr), s.focus.2 = false →
      (s.goes (.segb h) → (s.placed (.segb h)).rewindsFirst = true → exec (.segb h) s = .next (s.placed (.segb h))) ∧
      (s.goes (.phend h) → (s.placed (.phend h)).rewindsFirst = true → exec (.phend h) s = .next (s.placed (.phend h))) ∧
      (s.goes (.segb h) → (s.placed (.segb h)).rewindsFirst = false → ∃ t, exec (.segb h) s = .next t ∧ t.cur.seg.isOpen = true ∧ t.cur.seg.valid = true ∧ t.cur.seg.fix = false ∧
        t.cur.segpc = s.me.pc + 32 ∧
        (∃ sn, t.cur.seg.snap = some sn ∧ sn.x = s.me.x ∧ sn.p = s.me.p ∧ sn.v = s.me.v ∧ sn.o = s.me.o ∧ sn.j = s.me.j ∧ sn.m = s.me.m ∧
          sn.s0pc = s.me.pc + 32 ∧ sn.inst = s.me.inst + 1) ∧
        (s.cur.seg.held ≠ [] → ∃ e ∈ t.me.pend, e.due = s.me.inst + 1 ∧ e.eff = .commit s.cur.seg.held.length)) ∧
      (s.goes (.phend h) → (s.placed (.phend h)).rewindsFirst = false → ∃ t, exec (.phend h) s = .next t ∧ t.cur.place = .window ∧
        (s.me.run ≠ .trapped → t.cur.group = none ∧ t.me.run = .slack) ∧
        (s.me.run = .trapped → t.cur.group = s.cur.group ∧ t.me.run = .trapped) ∧ t.cur.seg.isOpen = false ∧ t.cur.slice = none ∧
        (s.selects s.focus.1 = true → ∃ e ∈ t.me.pend, e.due = s.me.inst + 2 ∧ e.eff = .fix))) ∧
  (∀ (s : State) (h : CHdr), s.focus.2 = false →
      (∀ sl, s.goes (.tend h) → s.cur.slice = some sl → sl.cur + 1 < sl.first + sl.len →
        (s.ctxView s.cur.ctx).launchCut sl.handle s.cur.pre = false → ∃ t, exec (.tend h) s = .next t ∧ t.me.npc = sl.task ∧ t.me.ready = s.me.inst + 1 + h.hold.toNat + 3 ∧
          ∃ e ∈ t.me.pend, e.due = s.me.inst + 1 ∧ e.eff = .tile (sl.cur + 1)) ∧
      (∀ sl, s.goes (.tend h) → s.cur.slice = some sl →
        (¬ sl.cur + 1 < sl.first + sl.len ∨ (s.ctxView s.cur.ctx).launchCut sl.handle s.cur.pre = true) →
        ∃ t, exec (.tend h) s = .next t ∧ t.me.npc = sl.cont ∧ t.cur.slice = none ∧ t.cur.loop.act = false ∧ t.me.ready = s.me.inst + 1 + h.hold.toNat + 3) ∧
      (s.goes (.realign h) → ∃ t, exec (.realign h) s = .next t ∧ t.me.run = .realign ∧ t.cur.realigned = true))

/-! ### Vector slots (R183 to R217) -/

namespace Sys2Proof.Machine

/-- The vector instructions, each with its stage (0 to 2 for V0 to V2) and its operation; the compares name a mask pair. -/
def vectorForms (h : VHdr) (d a b : VSel) (md : MReg) (rm : VRm) (rmi : Rm) (fr : VType) (k : BitVec 6) (hi zx : Bool) (op : ScanOp) :
    List (Instr × Nat × VKind) :=
  [ (.vaddV0 h d a b, 0, .add) , (.vaddV1 h d a b, 1, .add) , (.vaddV2 h d a b, 2, .add) , (.vsubV0 h d a b, 0, .sub)
  , (.vsubV1 h d a b, 1, .sub) , (.vsubV2 h d a b, 2, .sub) , (.vmulV0 h d a b, 0, .mul) , (.vmulV1 h d a b, 1, .mul)
  , (.vmulV2 h d a b, 2, .mul) , (.vfmaV0 h d a b, 0, .fma) , (.vfmaV1 h d a b, 1, .fma) , (.vfmaV2 h d a b, 2, .fma)
  , (.vfmsV0 h d a b, 0, .fms) , (.vfmsV1 h d a b, 1, .fms) , (.vminV0 h d a b, 0, .min) , (.vminV1 h d a b, 1, .min)
  , (.vminV2 h d a b, 2, .min) , (.vmaxV0 h d a b, 0, .max) , (.vmaxV1 h d a b, 1, .max) , (.vmaxV2 h d a b, 2, .max)
  , (.vminuV0 h d a b, 0, .minu) , (.vminuV1 h d a b, 1, .minu) , (.vmaxuV0 h d a b, 0, .maxu)
  , (.vmaxuV1 h d a b, 1, .maxu) , (.vandV0 h d a b, 0, .and) , (.vandV1 h d a b, 1, .and) , (.vorV0 h d a b, 0, .or)
  , (.vorV1 h d a b, 1, .or) , (.vxorV0 h d a b, 0, .xor) , (.vxorV1 h d a b, 1, .xor) , (.vandn h d a b, 0, .andn)
  , (.vshl h d a b, 0, .shl) , (.vshr h d a b, 0, .shr) , (.vsra h d a b, 0, .sra) , (.vabsV0 h d a, 0, .abs)
  , (.vabsV1 h d a, 1, .abs) , (.vnegV0 h d a, 0, .neg) , (.vnegV1 h d a, 1, .neg) , (.vmovV0 h d a, 0, .mov)
  , (.vmovV1 h d a, 1, .mov) , (.vmovV2 h d a, 2, .mov) , (.vcmpeqV0 h md a b, 0, (.cmp .eq))
  , (.vcmpeqV1 h md a b, 1, (.cmp .eq)) , (.vcmpeqV2 h md a b, 2, (.cmp .eq)) , (.vcmpltV0 h md a b, 0, (.cmp .lt))
  , (.vcmpltV1 h md a b, 1, (.cmp .lt)) , (.vcmpltV2 h md a b, 2, (.cmp .lt)) , (.vcmpleV0 h md a b, 0, (.cmp .le))
  , (.vcmpleV1 h md a b, 1, (.cmp .le)) , (.vselV0 h d a b, 0, .sel) , (.vselV1 h d a b, 1, .sel)
  , (.vselV2 h d a b, 2, .sel) , (.vclamp h d a b, 1, .clamp) , (.vcvtV0 h d a rm fr, 0, (.cvt rm fr))
  , (.vcvtV1 h d a rm fr, 1, (.cvt rm fr)) , (.vcvtV2 h d a rm fr, 2, (.cvt rm fr)) , (.vrnd h d a rmi, 1, (.rnd rmi))
  , (.vldexp h d a b, 2, .ldexp) , (.vexpo h d a, 0, .expo) , (.vmaxexp h d a, 1, .maxexp) , (.vshuf h d a b, 0, .shuf)
  , (.vrotl h d a k, 0, (.rotl k.toNat)) , (.vbcl h d a k, 0, (.bcl k.toNat)) , (.vpack h d a b, 0, .pack)
  , (.vunpk h d a hi zx, 0, (.unpk hi zx)) , (.vraddV1 h d a, 1, .radd) , (.vraddV2 h d a, 2, .radd)
  , (.vrmaxV1 h d a, 1, .rmax) , (.vrmaxV2 h d a, 2, .rmax) , (.vrmin h d a, 1, .rmin) , (.vscan h d a op, 1, (.scan op))
  , (.vexp2 h d a, 2, (.sp .exp2)) , (.vlog2 h d a, 2, (.sp .log2)) , (.vrcp h d a, 2, (.sp .rcp))
  , (.vrsq h d a, 2, (.sp .rsq)) , (.vsqrt h d a, 2, (.sp .sqrt)) , (.vtanh h d a, 2, (.sp .tanh))
  , (.vsigm h d a, 2, (.sp .sigm)) , (.vsin h d a, 2, (.sp .sin)) , (.vcos h d a, 2, (.sp .cos))
  , (.verf h d a, 2, (.sp .erf)) ]
/-- The row a V slot reads: the row of a stream register's position, or a register. -/
def State.vin (s : State) (r : VSel) : Row := if r.isQ then s.readRow (r.toNat - 0x38) else s.v r

end Sys2Proof.Machine
namespace Sys2Proof

/-- The source selectors of an operation. -/
def VKind.srcs (k : VKind) (a b : VSel) : List VSel := if k.readsB then [a, b] else [a]
/-- The stream registers among them. -/
def VKind.streams (k : VKind) (a b : VSel) : List Nat := ((k.srcs a b).filter VSel.isQ).map fun r => r.toNat - 0x38

end Sys2Proof
namespace Sys2Proof.Machine

/-- Lane i of an integer result by R104 and R195: modulo 2^w. -/
def intSpec (k : VKind) (w x y z : Nat) : Option Nat :=
  match k with
  | .add => some ((x + y) % 2 ^ w)
  | .sub => some ((x + 2 ^ w - y) % 2 ^ w)
  | .mul => some (x * y % 2 ^ w)
  | .fma => some ((x * y + z) % 2 ^ w)
  | .minu => some (min x y)
  | .maxu => some (max x y)
  | .and => some (x &&& y)
  | .or => some (x ||| y)
  | .xor => some (x ^^^ y)
  | .mov => some x
  | .shl => some (x * 2 ^ (y % w) % 2 ^ w)
  | .shr => some (x / 2 ^ (y % w))
  | .neg => some ((2 ^ w - x) % 2 ^ w)
  | .sel => some (if z ≠ 0 then x else y)
  | _ => none

end Sys2Proof.Machine

/-- A V slot whose operands stand ready and that no earlier stage feeds: it reads its operands at issue, its stream registers
advance, its causes set AXFLAG, and with none of them enabled its row (or its mask pair, for a compare) goes on its way with the
latency of its class, to its register or to the next position of its write stream, where the stream takes it; with one enabled it traps in the execution class with the lowest, and delivers nothing. -/
def Obligations.VectorSlots : Prop :=
  ∀ (s : State) (h : VHdr) (d a b : VSel) (md : MReg) (rm : VRm) (rmi : Rm) (fr : VType) (kk : BitVec 6) (hi zx : Bool) (op : ScanOp),
    ∀ f ∈ vectorForms h d a b md rm rmi fr kk hi zx op, s.goes f.1 →
    let k := f.2.2
    let slot := 2 + f.2.1
    let lat := vLatency f.2.1 k h.t
    let p := s.placed f.1
    let n := k.srBlocks h.w h.t
    let draws := p.srBlocks s.focus.1 s.focus.2 n
    let r := vEval k h.w h.t (s.m h.m) (p.vin a) (if k.readsB then p.vin b else 0)
      (if k.readsDest then s.v d else 0) (srLane draws)
    let q := (k.streams a b).foldl State.consumeQ p
    (∀ i ∈ k.streams a b, p.readCause i = none) →
    (s.upstream slot = none ∨ ∀ x ∈ k.srcs a b, cascadeSel slot ≠ some x) →
    (r.fl &&& s.me.axen = 0 → k.isCmp = true →
      exec f.1 s = .next (((q.flagged r.fl).srUse s.focus.1 s.focus.2 n).later slot lat
        (.mask md.toNat (BitVec.ofNat 128 r.data.toNat) r.en))) ∧
    (r.fl &&& s.me.axen = 0 → k.isCmp = false → d.isQ = false →
      exec f.1 s = .next (((q.flagged r.fl).srUse s.focus.1 s.focus.2 n).later slot lat
        (.vec ((q.flagged r.fl).vDst d) r.data r.en (some f.2.1)))) ∧
    (r.fl &&& s.me.axen = 0 → k.isCmp = false → d.isQ = true →
      let v := q.flagged r.fl
      let nq := d.toNat - 0x38
      let u := v.cur.unit nq
      let c := if u.kind = 1 then v.claimRow slot (u.addr u.next) lat else (v, true)
      v.writeCause nq 1 = none → c.2 = true →
      exec f.1 s = .next (((c.1.allotQ nq 1).1.srUse s.focus.1 s.focus.2 n).later slot lat
        (.vec (.q nq (c.1.allotQ nq 1).2) r.data r.en (some f.2.1)))) ∧
    (r.fl &&& s.me.axen = 0 → k.isCmp = false → ∀ u x, (q.flagged r.fl).claimDst slot lat d = (u, some x) →
      exec f.1 s = .next ((u.srUse s.focus.1 s.focus.2 n).later slot lat (.vec x r.data r.en (some f.2.1)))) ∧
    (r.fl &&& s.me.axen ≠ 0 → s.me.trap.pend = false → ∃ t, exec f.1 s = .next t ∧ t.me.run = .trapped ∧ t.me.trap.cls = 1 ∧
      t.me.trap.cause = BitVec.ofNat 7 (0x10 + lowestCause (r.fl &&& s.me.axen)) ∧ t.me.axflag = s.me.axflag ||| r.fl ∧ SameRegisters s t)
/-- A V slot that the earlier stage of its bundle feeds waits for it: it executes when that result lands, on it. -/
def Obligations.VectorCascade : Prop :=
  ∀ (s : State) (h : VHdr) (d a b : VSel) (md : MReg) (rm : VRm) (rmi : Rm) (fr : VType) (kk : BitVec 6) (hi zx : Bool) (op : ScanOp),
    ∀ f ∈ vectorForms h d a b md rm rmi fr kk hi zx op, s.goes f.1 → ∀ e, s.upstream (2 + f.2.1) = some e →
    let k := f.2.2
    k.streams a b = [] → (∃ x ∈ k.srcs a b, cascadeSel (2 + f.2.1) = some x) → (k.isCmp = true ∨ d.isQ = false) →
    ∃ w : VOp, exec f.1 s = .next ((s.placed f.1).later (2 + f.2.1) (e.lands.2 - s.me.inst) (.vop w (1 + f.2.1) none)) ∧
      w.kind = k ∧ w.w = h.w ∧ w.t = h.t ∧ w.m = s.m h.m ∧ w.stage = f.2.1 ∧
      (w.casA = true ↔ cascadeSel (2 + f.2.1) = some a) ∧ (w.casB = true ↔ k.readsB = true ∧ cascadeSel (2 + f.2.1) = some b) ∧
      w.dst = if k.isCmp then .mask md.toNat else s.vDst d
/-- Integer lanes: each processed lane that the mask enables holds the result modulo 2^w, and the bytes written are exactly
those of the processed lanes that the mask enables. Compare lanes: bit i of the mask written is the condition of lane i, and
exactly the processed lanes that the guard mask enables are written. -/
def Obligations.VectorLanes : Prop :=
  (∀ (k : VKind) (W : VWidth) (t : VType) (m : Mask) (a b d : Row) (rb : Nat → Nat) (i v : Nat), t.isInt = true →
      i < W.bits / t.bits → m.getLsbD i = true → intSpec k t.bits (lane t.bits a i) (lane t.bits b i) (lane t.bits d i) = some v →
      lane t.bits (vEval k W t m a b d rb).data i = v ∧
      ∀ j, j < 128 → (vEval k W t m a b d rb).en.getLsbD j = (decide (j / (t.bits / 8) < W.bits / t.bits) && m.getLsbD (j / (t.bits / 8)))) ∧
  (∀ (c : FCond) (W : VWidth) (t : VType) (m : Mask) (a b d : Row) (rb : Nat → Nat) (i : Nat), i < 128 →
      let r := vEval (.cmp c) W t m a b d rb
      (i < W.bits / t.bits → r.data.getLsbD i = (cmpLane c t (lane t.bits a i) (lane t.bits b i)).1) ∧
      r.en.getLsbD i = (decide (i < W.bits / t.bits) && m.getLsbD i))
/-- Landing of vector results: a row is merged into its register byte by byte under the enables and enters the last-result file of
its stage in the primary; a mask pair receives the outcome and its complement in the enabled lanes only. No other register
and no byte of memory changes. -/
def Obligations.VectorResultLands : Prop :=
  ∀ (s : State) (k : CoreId) (e : Pend) (n : Nat), (s.core k).prim.pend = [e] → (s.core k).comp.pend = [] →
    e.due ≤ (s.core k).prim.inst → (s.core k).seg.snap = none →
    (∀ r en st, e.eff = .vec (.v n) r en (some st) → n < 32 → st < 4 → ∃ t, exec (.inFlightResultLanding k) s = .next t ∧
      (∀ i, i < 128 → lane 8 (rd (t.strm k false).v n 0) i = if en.getLsbD i then lane 8 r i else lane 8 (rd (s.strm k false).v n 0) i) ∧
      (∀ i, i ≠ n → rd (t.strm k false).v i 0 = rd (s.strm k false).v i 0) ∧
      rd (t.strm k false).j (2 * st) 0 = rd (t.strm k false).v n 0 ∧ rd (t.strm k false).j (2 * st + 1) 0 = rd (s.strm k false).j (2 * st) 0 ∧
      (t.strm k false).x = (s.strm k false).x ∧ (t.strm k false).p = (s.strm k false).p ∧ (t.strm k false).o = (s.strm k false).o ∧
      (t.strm k false).m = (s.strm k false).m ∧ (∀ j, j ≠ k → t.core j = s.core j) ∧ SameMemory s t) ∧
    (∀ r en, e.eff = .mask n r en → 0 < n → n < 15 → ∃ t, exec (.inFlightResultLanding k) s = .next t ∧
      (∀ i, (rd (t.strm k false).m n 0).getLsbD i = if en.getLsbD i then r.getLsbD i else (rd (s.strm k false).m n 0).getLsbD i) ∧
      (∀ i, i < 128 → (rd (t.strm k false).m (n + 1) 0).getLsbD i =
        if en.getLsbD i then !r.getLsbD i else (rd (s.strm k false).m (n + 1) 0).getLsbD i) ∧
      (∀ i, i ≠ n → i ≠ n + 1 → rd (t.strm k false).m i 0 = rd (s.strm k false).m i 0) ∧
      (t.strm k false).x = (s.strm k false).x ∧ (t.strm k false).v = (s.strm k false).v ∧ (∀ j, j ≠ k → t.core j = s.core j) ∧ SameMemory s t)

/-! ### Matrix array (R115 to R129, R268 to R298) -/

namespace Sys2Proof.Machine

/-- The drain part of an X slot, when nothing forbids it. -/
def State.drained (s : State) (dr : XDrain) (db : Bool) : State :=
  match dr with
  | .none => s
  | .shift => s.doDrain db false
  | .clear => s.doDrain db true
/-- The drain part raises nothing. -/
def State.drainFree (s : State) (dr : XDrain) (db : Bool) : Prop :=
  match dr with
  | .none => True
  | .shift => s.drainCauses db false = []
  | .clear => s.drainCauses db true = []

end Sys2Proof.Machine

/-- The residue channels are exact: a cell that holds the residues of a value within the range meter's bound decodes to it with no
correction, and one product added to it gives the residues of the sum. -/
def Obligations.ResiduesExact : Prop :=
  (∀ v : Int, v.natAbs ≤ hact none → rrnsCheck (residues v) none = .ok v) ∧
  (∀ v a b : Int, cellAdd (residues v) a b = residues (v + a * b))
/-- The seven channels of a cell, with the moduli and the half-range of R124. A decoded value lies in the half-range; one wrong
channel is found and corrected, whichever it is and whatever residue it holds; with two wrong the cell is not taken as right. -/
def Obligations.ChannelErrorsDetected : Prop :=
  (List.range 7).map modulus = [241, 239, 233, 229, 227, 251, 256] ∧ 241 * 239 * 233 * 229 * 227 = 697641334361 ∧
  hact none = 348820667180 ∧ (∀ cell : BitVec 56, (crtDecode cell [0, 1, 2, 3, 4]).natAbs ≤ 348820667180) ∧
  (∀ (v : Int) (k r : Nat), v.natAbs ≤ hact none → k < 7 → r < modulus k → r ≠ (v % modulus k).toNat →
    rrnsCheck (packRes ((List.range 7).map fun j => if j = k then r else (v % modulus j).toNat)) none = .corrected v k) ∧
  (∀ (v : Int) (k l r q : Nat), v.natAbs ≤ hact none → k < 7 → l < 7 → k ≠ l → r < modulus k → q < modulus l →
    r ≠ (v % modulus k).toNat → q ≠ (v % modulus l).toNat → ∀ u,
    rrnsCheck (packRes ((List.range 7).map fun j => if j = k then r else if j = l then q else (v % modulus j).toNat)) none ≠ .ok u)
/-- The X slot, with nothing that forbids its parts: the drain samples its bank, the beat takes its feeds, and the sources
advance; XZERO marks its bank empty and clears it at c+4; with the array disabled every form traps with X_DISABLED. The
configuration of the array: XCFG is in force at c+2, or traps with X_FORMAT when a reserved field is set; ELD and ZLD fill a
register usable at c+6; GLS decodes one group's scales or names the first bad column; XMASK.ROW, FILL and INV act at c+2. -/
def Obligations.MatrixSlots : Prop :=
  (∀ (s : State) (g : PReg) (bank : Bool) (f : XFmt) (a b : MSrc) (si sj : BitVec 3) (dr : XDrain) (db : Bool),
      (∀ i cl, (i = .xacc g bank f a b si sj dr db ∧ cl = false ∨ i = .xaccz g bank f a b si sj dr db ∧ cl = true) → s.goes i →
        s.cur.mx.off = false → (s.placed i).beatCauses cl bank f a b si.toNat sj.toNat = [] → (s.placed i).drainFree dr db →
        exec i s = .next ((beatSources s.cur.mx f a b).foldl State.consumeSrc
          (((s.placed i).drained dr db).doBeat cl bank f a b si.toNat sj.toNat))) ∧
      (s.goes (.xzero g bank dr db) → s.cur.mx.off = false → (s.placed (.xzero g bank dr db)).drainFree dr db →
        exec (.xzero g bank dr db) s = .next (((((s.placed (.xzero g bank dr db)).drained dr db).modCur fun c =>
          { c with mx := (c.mx.modBank bank fun z => { z with mtr := 0, slev := 7, chunk := false, drow := 0, clrrun := 0 }).activate bank }).later
            5 4 (.xclear bank)))) ∧
      (s.goes (.xdrn g dr db) → s.cur.mx.off = false → (s.placed (.xdrn g dr db)).drainFree dr db →
        exec (.xdrn g dr db) s = .next ((s.placed (.xdrn g dr db)).drained dr db)) ∧
      (∀ i, i ∈ [Instr.xacc g bank f a b si sj dr db, .xaccz g bank f a b si sj dr db] → s.goes i → s.cur.mx.off = true →
        exec i s = .next (((beatSources s.cur.mx f a b).foldl State.consumeSrc (s.placed i)).execTrapFree 0x32 5)) ∧
      (∀ i, i ∈ [Instr.xzero g bank dr db, .xdrn g dr db] → s.goes i → s.cur.mx.off = true →
        exec i s = .next ((s.placed i).execTrapFree 0x32 5))) ∧
  (∀ (s : State) (g : PReg) (bank first : Bool) (gd : GReg) (va vb : VSel) (a : XReg) (ma : MReg),
      (s.goes (.xcfg g bank a) → exec (.xcfg g bank a) s =
        .next (if bcBad (s.x a) then (s.placed (.xcfg g bank a)).execTrap 0x34 7 (s.x a)
          else (s.placed (.xcfg g bank a)).later 7 2 (.xcfg bank (s.x a)))) ∧
      (s.goes (.eld g gd va vb) → exec (.eld g gd va vb) s = .next ((s.placed (.eld g gd va vb)).later 7 6
        (.greg gd.toNat ((List.range 128).map fun n => BitVec.ofNat 16 (if n < 64 then lane 16 (s.v va) n else lane 16 (s.v vb) (n - 64))) 3))) ∧
      (s.goes (.zld g gd va) → exec (.zld g gd va) s = .next ((s.placed (.zld g gd va)).later 7 6
        (.greg gd.toNat ((List.range 128).map fun n => BitVec.ofNat 16 (lane 8 (s.v va) n)) 2))) ∧
      (∀ vs, s.goes (.gls g gd first va vb) → (first = true ∨ (s.cur.mx.greg gd.toNat).tag = 1) →
        glsDecode (s.cur.mx.greg gd.toNat) first (s.v va) (s.v vb) = .ok vs →
        exec (.gls g gd first va vb) s = .next ((s.placed (.gls g gd first va vb)).later 7 6 (.greg gd.toNat (vs.map (BitVec.ofNat 16)) 1))) ∧
      (∀ n, s.goes (.gls g gd first va vb) → (first = true ∨ (s.cur.mx.greg gd.toNat).tag = 1) →
        glsDecode (s.cur.mx.greg gd.toNat) first (s.v va) (s.v vb) = .error n →
        exec (.gls g gd first va vb) s = .next ((s.placed (.gls g gd first va vb)).execTrap 0x34 7 (BitVec.ofNat 64 n))) ∧
      (s.goes (.xmaskRow g ma a) → s.cur.mx.mvalid = true →
        exec (.xmaskRow g ma a) s = .next ((s.placed (.xmaskRow g ma a)).later 7 2 (.xmaskRow ((s.x a).toNat % 128) (s.m ma)))) ∧
      (s.goes (.xmaskRow g ma a) → s.cur.mx.mvalid = false →
        exec (.xmaskRow g ma a) s = .next ((s.placed (.xmaskRow g ma a)).execTrapFree 0x35 7)) ∧
      (s.goes (.xmaskFill g) → exec (.xmaskFill g) s = .next ((s.placed (.xmaskFill g)).later 7 2 .xmaskFill)) ∧
      (s.goes (.xmaskInv g) → exec (.xmaskInv g) s = .next ((s.placed (.xmaskInv g)).later 7 2 .xmaskInv)))

/-! ### The scratchpad (R218 to R229) -/

namespace Sys2Proof.Machine

/-- The loads, each with the address that it forms and what it makes of its row (R228). -/
def State.loadForms (s : State) (g : PReg) (v : VSel) (a b : XReg) (off : BitVec 10) : List (Instr × Nat × LdXf) :=
  let r := (s.x a + 128 * off.signExtend 64).toNat
  [ (.ld g v a off, r, .row), (.ldt g v a off, r, .transpose), (.ldb g v a off, r, .bcast (r / 16 % 8))
  , (.ldx g v a b, (s.x a + s.x b).toNat, .row) ]
/-- The stores, each with its address, the bytes that it writes, and whether it writes a whole row (R228). -/
def State.storeForms (s : State) (g : PReg) (v : VSel) (a b : XReg) (off : BitVec 10) : List (Instr × Nat × Mask × Bool) :=
  let r := (s.x a + 128 * off.signExtend 64).toNat
  [ (.st g v a off, r, BitVec.allOnes 128, true), (.stm g v a off, r, s.m 7, false)
  , (.stx g v a b, (s.x a + s.x b).toNat, BitVec.allOnes 128, true) ]

end Sys2Proof.Machine

/-- Loads and stores: a load reads its row at c+1 and a store writes it at c+2, when the address lies in the scratchpad, its
buffer allows the access and no stream reserves the row; else the slot is suppressed with the lowest cause: 0x20 for an
address past the end, 0x21 for the buffer, 0x23 for a reserved row (for a store, one that the transposer holds too). Of two
writes of one row in one cycle the later one of a stream is suppressed with 0x29; of the two streams the companion's is, and the
primary's store performs. RMRG: from byte k of va on, then vd; usable at c+2. -/
def Obligations.ScratchpadAccess : Prop :=
  (∀ (s : State) (g : PReg) (v : VSel) (a b : XReg) (off : BitVec 10),
      (∀ f ∈ s.loadForms g v a b off, s.goes f.1 →
        (f.2.1 < 0x40_0000 → s.homeReads s.focus.1 (f.2.1 / 128) = true → s.cur.ringHolds (f.2.1 / 128) none = false →
          exec f.1 s = .next ((s.placed f.1).later 6 1 (.rowRead (f.2.1 / 128) f.2.2 (s.vDst v)))) ∧
        (0x40_0000 ≤ f.2.1 → exec f.1 s = .next ((s.placed f.1).execTrap 0x20 6 (BitVec.ofNat 64 f.2.1))) ∧
        (f.2.1 < 0x40_0000 → s.homeReads s.focus.1 (f.2.1 / 128) = false →
          exec f.1 s = .next ((s.placed f.1).execTrap 0x21 6 (BitVec.ofNat 64 (f.2.1 / 128 * 128)))) ∧
        (f.2.1 < 0x40_0000 → s.homeReads s.focus.1 (f.2.1 / 128) = true → s.cur.ringHolds (f.2.1 / 128) none = true →
          exec f.1 s = .next ((s.placed f.1).execTrap 0x23 6 (BitVec.ofNat 64 f.2.1)))) ∧
      (∀ f ∈ s.storeForms g v a b off, s.goes f.1 →
        let row := f.2.1 / 128
        let held := s.cur.ringHolds row none || s.cur.transposerHolds row
        let mine := s.cur.writesRow s.cyc.toNat s.focus.2 row 2
        let others := s.cur.writesRow s.cyc.toNat (!s.focus.2) row 2
        let entry : Effect := .rowWrite f.2.1 (s.v v) f.2.2.1 f.2.2.2
        (0x40_0000 ≤ f.2.1 → exec f.1 s = .next ((s.placed f.1).execTrap 0x20 6 (BitVec.ofNat 64 f.2.1))) ∧
        (f.2.1 < 0x40_0000 → s.homeWrites s.focus.1 row = false →
          exec f.1 s = .next ((s.placed f.1).execTrap 0x21 6 (BitVec.ofNat 64 (row * 128)))) ∧
        (f.2.1 < 0x40_0000 → s.homeWrites s.focus.1 row = true → held = true →
          exec f.1 s = .next ((s.placed f.1).execTrap 0x23 6 (BitVec.ofNat 64 f.2.1))) ∧
        (f.2.1 < 0x40_0000 → s.homeWrites s.focus.1 row = true → held = false →
          (mine = false → others = false → exec f.1 s = .next ((s.placed f.1).later 6 2 entry)) ∧
          (mine = true ∨ (s.focus.2 = true ∧ others = true) →
            exec f.1 s = .next ((s.placed f.1).execTrap 0x29 6 (BitVec.ofNat 64 f.2.1))) ∧
          (mine = false → others = true → s.focus.2 = false →
            exec f.1 s = .next (((s.placed f.1).dropCompStore s.focus.1 row 2).later 6 2 entry))))) ∧
  (∀ (s : State) (g : PReg) (vd va : VSel) (a : XReg), s.goes (.rmrg g vd va a) →
      ∃ r : Row, exec (.rmrg g vd va a) s = .next ((s.placed (.rmrg g vd va a)).later 6 2 (.vec (s.vDst vd) r (BitVec.allOnes 128) none)) ∧
        ∀ i, i < 128 → lane 8 r i =
          if i + (s.x a).toNat % 128 < 128 then lane 8 (s.v va) (i + (s.x a).toNat % 128)
          else lane 8 (s.v vd) (i + (s.x a).toNat % 128 - 128))
/-- The row accesses in their cycles. A row that a load reads is on its way to its register, four instants on: as it is, as the
transpose of its 8 by 8 elements of two bytes, or with one 16-byte part in all eight places. A store changes the bytes that it
names of its row and no other byte, and a whole row is no longer poisoned. -/
def Obligations.ScratchpadRowsLand : Prop :=
  ∀ (s : State) (k : CoreId) (e : Pend) (row : Nat), (s.core k).prim.pend = [e] → (s.core k).comp.pend = [] →
    e.due = (s.core k).prim.inst → (s.core k).seg.snap = none → (s.core k).audit = none → Memory.wf (s.core k).sp = true →
    (∀ xf d, e.eff = .rowRead row xf d → (s.core k).spBad.contains row = false →
      exec (.inFlightResultLanding k) s = .next (s.modCore k fun c => { c with prim := { c.prim with pend :=
        [{ e with due := e.due + 4, eff := .vec d (xf.apply (c.spRow row)) (BitVec.allOnes 128) (some 3) }] } })) ∧
    (∀ a d en whole, e.eff = .rowWrite a d en whole → a / 128 = row → ∃ t, exec (.inFlightResultLanding k) s = .next t ∧
      (∀ a, Memory.get (t.core k).sp a =
        if a / 128 = row ∧ en.getLsbD (a % 128) = true then BitVec.ofNat 8 (lane 8 d (a % 128)) else Memory.get (s.core k).sp a) ∧
      (whole = true → (t.core k).spBad.contains row = false) ∧
      SameRegisters s t ∧ t.mem = s.mem ∧ (∀ j, j ≠ k → t.core j = s.core j)) ∧
    (∀ r : Row, LdXf.row.apply r = r ∧
      (∀ i j, i < 8 → j < 8 → lane 16 (LdXf.transpose.apply r) (8 * i + j) = lane 16 r (8 * j + i)) ∧
      (∀ p i, i < 8 → lane 128 ((LdXf.bcast p).apply r) i = lane 128 r p))

/-! ### Untimed access (R245 to R254) -/

namespace Sys2Proof.Machine

/-- An untimed access: the address, the permissions it needs, what it asks of the home, the registers its reply writes, and
whether it acts on a word, which must lie in device memory. -/
structure UClaim where
  instr : Instr
  va    : Nat
  need  : Nat
  op    : AccOp
  dst   : List PRef
  word  : Bool
/-- The accesses of R245, R248 and R249. -/
def State.untimedClaims (s : State) (g : PReg) (v : VSel) (d a b : XReg) (off : BitVec 10) (pd : PReg) : List UClaim :=
  let row := (s.x a + 128 * off.signExtend 64).toNat / 128 * 128
  let w8 := (s.x a).toNat / 8 * 8
  let x := (s.cur.phys s.focus.2 (.x d)).toList
  let xp := x ++ (s.cur.phys s.focus.2 (.p pd)).toList
  let aop := fun (i : Instr) (n : Nat) => (⟨i, w8, 3, .aop n (s.x b) (s.x d) (!x.isEmpty), x, true⟩ : UClaim)
  let rwl := fun (i : Instr) (n : Nat) => (⟨i, w8, 3, .rwl n ((s.x d).getLsbD 0), xp, true⟩ : UClaim)
  [ ⟨.gld g v a off, row, 1, .read 128, (s.cur.phys s.focus.2 (.v v)).toList, false⟩
  , ⟨.gst g v a off, row, 2, .write (s.v v) (BitVec.allOnes 128), [], false⟩
  , aop (.aopAdd g d a b) 0x0, ⟨.aopFadd32 g d a b, (s.x a).toNat / 4 * 4, 3, .aop 0x1 (s.x b) (s.x d) (!x.isEmpty), x, true⟩
  , aop (.aopMin g d a b) 0x2, aop (.aopMax g d a b) 0x3, aop (.aopMinu g d a b) 0x4, aop (.aopMaxu g d a b) 0x5
  , aop (.aopAnd g d a b) 0x6, aop (.aopOr g d a b) 0x7, aop (.aopXor g d a b) 0x8, aop (.aopXchg g d a b) 0x9
  , aop (.aopCas g d a b) 0xA
  , rwl (.rwlRdacq g d a pd) 0, rwl (.rwlRdrel g d a pd) 1, rwl (.rwlWracq g d a pd) 2, rwl (.rwlWrrel g d a pd) 3
  , rwl (.rwlSetpref g d a pd) 4 ]

end Sys2Proof.Machine

/-- An untimed access: its address is translated as the bundle issues; one that translates goes to its home, and the registers
that its reply writes are pending until then; a fault suppresses the slot, with the cause of the translation, and with 0x26 for
a word of host memory. What goes to the home is one access more, at the physical address, in the stream's name. -/
def Obligations.UntimedAccess : Prop :=
  (∀ (s : State) (g : PReg) (v : VSel) (d a b : XReg) (off : BitVec 10) (pd : PReg),
    ∀ f ∈ s.untimedClaims g v d a b off pd, s.goes f.instr →
      (∀ pa t, s.translate s.focus.1 f.va f.need = .ok (pa, t) → (f.word && isHostAddr pa) = false →
        exec f.instr s = .next (((s.placed f.instr).cacheTlb s.focus.1 t).sendUntimed f.op pa f.dst)) ∧
      (∀ c, s.translate s.focus.1 f.va f.need = .error c →
        exec f.instr s = .next ((s.placed f.instr).execTrap c 6 (BitVec.ofNat 64 f.va))) ∧
      (∀ pa t, s.translate s.focus.1 f.va f.need = .ok (pa, t) → (f.word && isHostAddr pa) = true →
        exec f.instr s = .next (((s.placed f.instr).cacheTlb s.focus.1 t).execTrap 0x26 6 (BitVec.ofNat 64 f.va)))) ∧
  (∀ (s : State) (op : AccOp) (pa : Nat) (dst : List PRef), ∃ a : Access,
    (s.sendUntimed op pa dst).accs = s.accs ++ [a] ∧ a.id = s.nextId ∧ a.who = .strm s.focus.1 s.focus.2 ∧ a.op = op ∧ a.pa = pa ∧
      a.dst = dst ∧ a.done = false ∧ (s.sendUntimed op pa dst).nextId = s.nextId + 1 ∧
      (s.sendUntimed op pa dst).me.waits = s.me.waits ++ dst.map (fun r => (s.nextId, r)) ∧
      (s.sendUntimed op pa dst).mem = s.mem)
/-- The fences: outside a phase body the fence stands before every later bundle of its stream, which issues nothing while an
access before the fence and in its scope is still to return its value (ACQ) or to complete (REL, FULL); inside a body it has
no effect. -/
def Obligations.Fences : Prop :=
  (∀ (s : State) (g : PReg) (sc : FScope) (i : Instr) (kind : Nat),
    (i, kind) ∈ [(Instr.fenceAcq g sc, 0), (.fenceRel g sc, 1), (.fenceFull g sc, 2)] → s.goes i →
    (s.inBody = false → exec i s = .next ((s.placed i).modMe fun t => { t with fence := some { kind := kind, scope := sc, upto := s.nextId } })) ∧
    (s.inBody = true → exec i s = .next (s.placed i))) ∧
  (∀ (s : State) (k : CoreId) (comp : Bool) (f : FenceWait), (s.strm k comp).fence = some f →
    (∃ a ∈ s.accs, a.who = .strm k comp ∧ a.id < f.upto ∧ s.inScope f.scope a.pa = true ∧ (f.kind ≠ 0 ∨ a.dst ≠ [])) →
    s.issue k comp = .next s)
/-- At its home an access performs as one step, of this package's own streams: a read brings the bytes that stand there and
changes none; a write changes exactly the bytes that it names; an atomic replaces its word by what its operation makes of it, a
lock operation too, and brings the old word, in bit 64 with the outcome; a word in a poisoned sector is left alone. No register
changes. -/
def Obligations.HomeAccessPerforms : Prop :=
  ∀ (s : State) (id : Nat) (a : Access) (k : CoreId) (comp : Bool), s.accs.find? (fun b => b.id = id) = some a → a.who = .strm k comp →
    s.homeReady a = true → s.memOk →
    (∀ n, a.op = .read n → exec (.homeAccess id) s = .next (s.putAcc
      { a with done := true, result := BitVec.ofNat 1024 (Memory.getN s.mem a.pa n), poison := s.poisoned a.pa n })) ∧
    (∀ d en, a.op = .write d en → ∃ t, exec (.homeAccess id) s = .next t ∧
      (∀ x, Memory.get t.mem x = if a.pa ≤ x ∧ x < a.pa + 128 ∧ en.getLsbD (x - a.pa) = true then BitVec.ofNat 8 (lane 8 d (x - a.pa))
        else Memory.get s.mem x) ∧ SameRegisters s t) ∧
    (∀ op b x ret, a.op = .aop op b x ret → op ≠ 1 → s.poisoned (a.pa / 8 * 8) 8 = false → ∃ t, exec (.homeAccess id) s = .next t ∧
      Memory.getN t.mem (a.pa / 8 * 8) 8 = (aopNew op (s.getWord (a.pa / 8 * 8)) b x).toNat ∧
      (∀ y, y < a.pa / 8 * 8 ∨ a.pa / 8 * 8 + 8 ≤ y → Memory.get t.mem y = Memory.get s.mem y) ∧
      t.accs.find? (fun b => b.id = id) =
        some { a with done := true, result := BitVec.ofNat 1024 (s.getWord (a.pa / 8 * 8)).toNat, poison := false } ∧ SameRegisters s t) ∧
    (∀ op x, a.op = .rwl op x → s.poisoned (a.pa / 8 * 8) 8 = false → ∃ t, exec (.homeAccess id) s = .next t ∧
      Memory.getN t.mem (a.pa / 8 * 8) 8 = (rwlNew op (s.getWord (a.pa / 8 * 8)) x).1.toNat ∧
      (∀ y, y < a.pa / 8 * 8 ∨ a.pa / 8 * 8 + 8 ≤ y → Memory.get t.mem y = Memory.get s.mem y) ∧
      t.accs.find? (fun b => b.id = id) = some { a with
        done := true, poison := false
        result := BitVec.ofNat 1024 ((s.getWord (a.pa / 8 * 8)).toNat + (rwlNew op (s.getWord (a.pa / 8 * 8)) x).2.toNat * 2 ^ 64) } ∧ SameRegisters s t) ∧
    (∀ op b x, a.op = .aop op b x true → op ≠ 1 → s.poisoned (a.pa / 8 * 8) 8 = true →
      exec (.homeAccess id) s = .next (s.putAcc { a with done := true, result := 0, poison := true }))
/-- Replies: the value lands in the register that was pending, which is pending no longer, and no other register changes; the
home's acknowledgement frees the ring row of a stream's write; a poisoned reply writes nothing and stops the stream (deferred,
0x27). -/
def Obligations.RepliesLand : Prop :=
  ∀ (s : State) (id : Nat) (a : Access), s.accs.find? (fun b => b.id = id) = some a → a.done = true →
    (∀ k comp n, a.replies = true → a.who = .strm k comp → (s.strm k comp).run ≠ .ended → a.poison = false → a.dst = [.x n] → n ≠ 0 → n < 64 →
      ∃ t, exec (.untimedResultLand id) s = .next t ∧ t.accs = s.accs.filter (fun b => b.id ≠ id) ∧
        rd (t.strm k comp).x n 0 = a.result.setWidth 64 ∧ (∀ i, i ≠ n → rd (t.strm k comp).x i 0 = rd (s.strm k comp).x i 0) ∧
        (t.strm k comp).waits = (s.strm k comp).waits.filter (fun w => w.1 ≠ id) ∧ (t.strm k comp).p = (s.strm k comp).p ∧
        (t.strm k comp).v = (s.strm k comp).v ∧ (∀ j, j ≠ k → t.core j = s.core j) ∧ SameMemory s t) ∧
    (∀ k comp, a.replies = true → a.who = .strm k comp → (s.strm k comp).run ≠ .ended → (s.strm k comp).run ≠ .trapped →
      (s.strm k comp).trap.pend = false → a.poison = true → ∃ t, exec (.untimedResultLand id) s = .next t ∧ (t.strm k comp).trap.pend = true ∧ (t.strm k comp).late = true ∧
        (t.strm k comp).trap.cls = 2 ∧ (t.strm k comp).trap.cause = 0x27 ∧ (t.strm k comp).trap.info = a.pc.setWidth 64 ∧
        SameRegisters s t ∧ SameMemory s t) ∧
    (∀ k q gen, a.replies = false → a.who = .unit k q gen → q < 8 → ((s.core k).unit q).bound = true → ((s.core k).unit q).gen = gen →
      ∃ t, exec (.writeAck id) s = .next t ∧ t.accs = s.accs.filter (fun b => b.id ≠ id) ∧
        ((t.core k).unit q).unack = ((s.core k).unit q).unack.erase a.pos ∧ SameRegisters s t ∧ SameMemory s t)

/-! ### Streams and buffers (R222 to R226, R230 to R243) -/

/-- Buffers change hands at c+2 and only from the states of R226: BTAKE from in transit to this core, BGIVE and BPUB from
owned by it with no stream of the home on it, BRET from published by it with no peer stream on it and no request of one for its rows in flight; any other state, and such a
stream, is BUF_STATE (0x22) with the handle. SBIND reads its descriptor at c+1 and binds the unit as it says, counting instants
from its bundle's; SFREE frees its unit at c+2; SADV moves the position on at once. An SBIND of a bound unit or of a descriptor
past the scratchpad, an SFREE or SADV of an unbound unit, and an SADV past the end or of positions not due are STREAM (0x23);
one that meets a failed position has its cause, and one that meets poison is answered as poison is. -/
def Obligations.StreamInstructions : Prop :=
  (∀ (s : State) (g : PReg) (a b : XReg),
      let me := s.focus.1.val % 8
      let h := (s.x a).toNat % 512
      let now := s.buf s.focus.1 h
      let calm := s.bufBusy s.focus.1 h = false
      (s.goes (.btake g a) → now = .transit me → exec (.btake g a) s = .next ((s.placed (.btake g a)).later 7 2 (.bufState h (.owned me)))) ∧
      (s.goes (.btake g a) → now ≠ .transit me → exec (.btake g a) s = .next ((s.placed (.btake g a)).execTrap 0x22 7 (s.x a))) ∧
      (s.goes (.bgive g a b) → now = .owned me → calm →
        exec (.bgive g a b) s = .next ((s.placed (.bgive g a b)).later 7 2 (.bufState h (.transit ((s.x b).toNat % 8))))) ∧
      (s.goes (.bgive g a b) → (now ≠ .owned me ∨ ¬ calm) →
        exec (.bgive g a b) s = .next ((s.placed (.bgive g a b)).execTrap 0x22 7 (s.x a))) ∧
      (s.goes (.bpub g a) → now = .owned me → calm → exec (.bpub g a) s = .next ((s.placed (.bpub g a)).later 7 2 (.bufState h (.published me)))) ∧
      (s.goes (.bpub g a) → (now ≠ .owned me ∨ ¬ calm) →
        exec (.bpub g a) s = .next ((s.placed (.bpub g a)).execTrap 0x22 7 (s.x a))) ∧
      (s.goes (.bret g a) → now = .published me → s.peerBound (clusterOf s.focus.1) h = false →
        s.peerAsks (clusterOf s.focus.1) h = false →
        exec (.bret g a) s = .next ((s.placed (.bret g a)).later 7 2 (.bufState h (.owned me)))) ∧
      (s.goes (.bret g a) → (now ≠ .published me ∨ s.peerBound (clusterOf s.focus.1) h = true ∨
        s.peerAsks (clusterOf s.focus.1) h = true) → exec (.bret g a) s = .next ((s.placed (.bret g a)).execTrap 0x22 7 (s.x a)))) ∧
  (∀ (s : State) (g : PReg) (q : QReg) (a : XReg) (n : BitVec 8),
      let u := s.cur.unit q.toNat
      let da := (s.x a).toNat / 64 * 64
      (s.goes (.sbind g q a) → u.bound = false → da < 0x40_0000 →
        exec (.sbind g q a) s = .next ((s.placed (.sbind g q a)).later 7 1 (.sbind q.toNat da))) ∧
      (s.goes (.sbind g q a) → (u.bound = true ∨ 0x40_0000 ≤ da) → exec (.sbind g q a) s = .next ((s.placed (.sbind g q a)).execTrap 0x23 7 (BitVec.ofNat 64 da))) ∧
      (s.goes (.sfree g q) → u.bound = true → exec (.sfree g q) s = .next ((s.placed (.sfree g q)).later 7 2 (.sfree q.toNat))) ∧
      (s.goes (.sfree g q) → u.bound = false →
        exec (.sfree g q) s = .next ((s.placed (.sfree g q)).execTrap 0x23 7 (BitVec.ofNat 64 u.baseAddr))) ∧
      (s.goes (.sadv g q n) → u.bound = true → u.advCause s.me.inst n.toNat = none →
        exec (.sadv g q n) s = .next ((s.placed (.sadv g q n)).modCur fun c => c.modUnit q.toNat fun u => { u with next := u.next + n.toNat })) ∧
      (s.goes (.sadv g q n) → u.bound = false →
        exec (.sadv g q n) s = .next ((s.placed (.sadv g q n)).execTrap 0x23 7 (BitVec.ofNat 64 u.baseAddr))) ∧
      (∀ c, s.goes (.sadv g q n) → u.bound = true → u.advCause s.me.inst n.toNat = some c → c.1 ≠ 0x27 →
        exec (.sadv g q n) s = .next ((s.placed (.sadv g q n)).execTrap c.1 7 c.2)) ∧
      (∀ c, s.goes (.sadv g q n) → u.bound = true → u.advCause s.me.inst n.toNat = some c → c.1 = 0x27 →
        exec (.sadv g q n) s = .next ((s.placed (.sadv g q n)).poisonAt s.focus.1 s.focus.2 7 s.me.inst c.2.toNat s.me.pc))) ∧
  (∀ (s : State) (k : CoreId) (e : Pend) (q : Nat), (s.core k).prim.pend = [e] → (s.core k).comp.pend = [] →
      e.due ≤ (s.core k).prim.inst → (s.core k).seg.snap = none → q < 8 →
      (∀ a, let d := BitVec.ofNat 512 (((s.core k).spRow (a / 128)).toNat / 2 ^ (if a / 64 % 2 = 1 then 512 else 0))
        e.eff = .sbind q a → (s.core k).spBad.contains (a / 128) = false → s.dscBad k d = false →
        ∃ t, exec (.inFlightResultLanding k) s = .next t ∧ ((t.core k).unit q).bound = true ∧ ((t.core k).unit q).desc = d ∧
          ((t.core k).unit q).start = e.iss ∧ ((t.core k).unit q).next = 0 ∧
          (∀ r, r ≠ q → (t.core k).unit r = (s.core k).unit r) ∧ SameRegisters s t ∧ SameMemory s t) ∧
      (e.eff = .sfree q → ∃ t, exec (.inFlightResultLanding k) s = .next t ∧ ((t.core k).unit q).bound = false ∧
        (∀ r, r ≠ q → (t.core k).unit r = (s.core k).unit r) ∧ SameRegisters s t ∧ SameMemory s t))
/-- The rows of read streams. A local one stages the row of its scratchpad address at the instant of its fill; a peer or global
one sends its request; a reply lands in the ring row of its position, if its home owns the buffer and no earlier stream has the
row, and else fails its position; what has landed is staged from there; the peer port serves every request for the row; the
transposer takes the next four rows of its group after those that it holds, and more where it is late. No register and no byte of device memory changes. -/
def Obligations.StreamSteps : Prop :=
  ∀ (s : State) (k : CoreId) (q : QReg), let u := (s.core k).unit q.toNat
    (∀ p, u.bound = true → u.kind = 0 → u.transpose = false → u.fillPositions u.lead (s.core k).prim.inst = [p] → u.filled ≤ p →
      0 < (s.core k).portsFree q.toNat → s.loadCause k (u.addr p) = none →
      ∃ t, exec (.localStreamFill k q) s = .next t ∧ ((t.core k).unit q.toNat).filled = p + 1 ∧
        ((t.core k).unit q.toNat).stage = u.stage ++ [{ pos := p, row := (s.core k).spRow (u.addr p / 128)
                                                        bad := if (s.core k).spBad.contains (u.addr p / 128) then 0x27 else 0 }] ∧
        SameRegisters s t ∧ SameMemory s t) ∧
    (∀ p, u.bound = true → 2 ≤ u.kind → u.kind ≤ 3 → u.fillPositions u.lead (s.core k).prim.inst = [p] → u.req ≤ p →
      (∀ pa, u.kind = 3 → s.timedXlate k (u.addr p / 128 * 128) 1 = .ok pa →
        ∃ t x, exec (.streamRequest k q) s = .next t ∧ t.accs = s.accs ++ [x] ∧ x.op = .read 128 ∧ x.pa = pa ∧ x.pos = p ∧
          x.who = .unit k q.toNat u.gen ∧ ((t.core k).unit q.toNat).req = p + 1 ∧ SameRegisters s t ∧ SameMemory s t) ∧
      (u.kind = 2 → ∃ t x, exec (.streamRequest k q) s = .next t ∧ t.accs = s.accs ++ [x] ∧
          x.op = .peer (coreIn (clusterOf k) u.home) (u.addr p / 128) ∧ x.pos = p ∧ x.who = .unit k q.toNat u.gen ∧
          ((t.core k).unit q.toNat).req = p + 1 ∧ SameRegisters s t ∧ SameMemory s t)) ∧
    (∀ id a, s.accs.find? (fun b => b.id = id) = some a → a.who = .unit k q.toNat u.gen → a.done = true → a.op.writes = false → u.bound = true →
      Memory.wf (s.core k).sp = true →
      ∃ t, exec (.ringLanding id) s = .next t ∧ t.accs = s.accs.filter (fun b => b.id ≠ id) ∧
        (s.landCause k q.toNat (u.ringRow a.pos) = none →
          (t.core k).spRow (u.ringRow a.pos) = a.result ∧ (a.poison = false → (t.core k).spBad.contains (u.ringRow a.pos) = false) ∧
          (a.pos, a.poison, s.cyc.toNat) ∈ ((t.core k).unit q.toNat).landed) ∧
        (s.landCause k q.toNat (u.ringRow a.pos) ≠ none →
          (t.core k).sp = (s.core k).sp ∧ ((t.core k).unit q.toNat).lost.any (fun l => l.1 = a.pos) = true) ∧
        SameRegisters s t ∧ t.mem = s.mem) ∧
    (∀ p, u.bound = true → (u.kind = 3 ∨ (u.kind = 2 ∧ s.peerReads k u.home (u.addr p / 128) = true)) → u.toStage (s.core k).prim.inst = [p] → 0 < (s.core k).portsFree q.toNat →
      ∃ t, exec (.ringStageFill k q) s = .next t ∧
        ((t.core k).unit q.toNat).stage = u.stage ++ [{ pos := p, row := (s.core k).spRow (u.ringRow p)
                                                        bad := if (s.core k).spBad.contains (u.ringRow p) then 0x27 else 0 }] ∧
        SameRegisters s t ∧ SameMemory s t) ∧
    (∀ (a : Access) r, a ∈ s.accs → a.op = .peer k r → a.done = false → (∀ b ∈ s.accs, ∀ r', b.op = .peer k r' → b.done = false → r' = r) →
      ∃ t, exec (.peerReadServe k) s = .next t ∧ { a with done := true, result := (s.core k).spRow r, poison := (s.core k).spBad.contains r } ∈ t.accs ∧
        SameRegisters s t ∧ SameMemory s t) ∧
    ((List.range 8).find? (fun n => ((s.core k).unit n).tposNow (s.core k).prim.inst) = some q.toNat →
      ∃ t g rs, exec (.transposerRead k) s = .next t ∧ ((t.core k).unit q.toNat).group = some (g, rs) ∧ u.tpos.1 ≤ g ∧
        (g = u.tpos.1 → (u.tpos.2 ++ (List.range 4).map fun i =>
          (s.core k).spRow (u.addr (u.tpos.1 * u.groupSize + u.tpos.2.length + i) / 128)) <+: rs) ∧ SameRegisters s t ∧ SameMemory s t)

/-! ### Submissions and the other Q-slot instructions (R318 to R327, R348 to R352, R363, R364, R371, R375, R410, R421, R445) -/

namespace Sys2Proof.Machine

/-- The instructions that take effect at c+2 whatever the state, with the change that they bring. -/
def State.plainQ (s : State) (g : PReg) (d a : XReg) (bar : BitVec 7) (ui : Bool) (pk : PReg) : List (Instr × Effect) :=
  let x := s.x a
  [ (.jcan g a, .jcan (x.toNat % 2 ^ 32)), (.barmSet g bar a ui, .barm bar.toNat false ui x), (.barmAdd g bar a ui, .barm bar.toNat true ui x)
  , (.barq g d bar, .barq bar.toNat (s.qDst d)), (.uien g a, .uien (BitVec.ofNat 8 (x.toNat % 16))), (.phsel g pk, .phsel (s.p pk))
  , (.cancLaunch g a, .canc 1 x), (.cancGraph g a, .canc 2 x), (.cancPhase g a, .canc 3 x), (.cancJob g a, .canc 4 x) ]
/-- The instructions that read a row of the scratchpad at c+1; a submission carries the cycle of its bundle. -/
def State.rowQ (s : State) (g : PReg) (d a : XReg) : List (Instr × Effect) :=
  let x := (s.x a).toNat
  let cy := s.cyc.toNat
  [ (.jsub g d a, .jsub x (s.qDst d) cy), (.nmsub g d a, .nmsub x (s.qDst d) cy), (.smpsub g d a, .smpsub x (s.qDst d) cy)
  , (.lnch g d a, .lnch true (match s.cur.xRef false d with | .x n => n | _ => 0) x) ]

end Sys2Proof.Machine

/-- The Q slot's submissions: what each sends on its way, when it may, and the trap that answers it when it may not: a row that
the core may not load, an endpoint that is taken or a malformed binding word (0x73 with the word), a flush of an endpoint that is
not bound or is the second of its pair (0x73), a table bank of the core's context that still loads (0x62, 2). An NMFN outside a phase body leaves its register pending; SEEDQ takes the next seed, or waits while the entropy
source is stopped. -/
def Obligations.Submissions : Prop :=
  ∀ (s : State) (g : PReg) (d a : XReg) (bar : BitVec 7) (ui : Bool) (pk : PReg) (q : QReg) (bank : Bool) (n1 : BitVec 9),
    (∀ f ∈ s.plainQ g d a bar ui pk, s.goes f.1 → exec f.1 s = .next ((s.placed f.1).later 7 2 f.2)) ∧
    (∀ f ∈ s.rowQ g d a, s.goes f.1 →
      (s.loadCause s.focus.1 (s.x a).toNat = none → exec f.1 s = .next ((s.placed f.1).later 7 1 f.2)) ∧
      (∀ c, s.loadCause s.focus.1 (s.x a).toNat = some c → exec f.1 s = .next ((s.placed f.1).execTrap c 7
        (BitVec.ofNat 64 (if c = 0x21 then (s.x a).toNat / 128 * 128 else (s.x a).toNat))))) ∧
    (s.goes (.tqbind g a) → s.bindMalformed s.focus.1 (s.x a) = false → s.bindBusy s.focus.1 (s.x a) = false →
      exec (.tqbind g a) s = .next ((s.placed (.tqbind g a)).later 7 2 (.tqbind (s.x a)))) ∧
    (s.goes (.tqbind g a) → (s.bindMalformed s.focus.1 (s.x a) || s.bindBusy s.focus.1 (s.x a)) = true →
      exec (.tqbind g a) s = .next ((s.placed (.tqbind g a)).execTrap 0x73 7 (s.x a))) ∧
    (let e := s.cur.tqAt q.toNat
     let second := bwPair e.bind && decide (bwTq e.bind ≠ q.toNat)
     (s.goes (.tqfl g q) → e.bound = true → second = false →
        exec (.tqfl g q) s = .next ((s.placed (.tqfl g q)).later 7 2 (.tqflush q.toNat))) ∧
     (s.goes (.tqfl g q) → (e.bound = false ∨ second = true) →
        exec (.tqfl g q) s = .next ((s.placed (.tqfl g q)).execTrapFree 0x73 7))) ∧
    (s.goes (.phld g bank a n1) → ((s.ctxView s.cur.ctx).bank bank).st ≠ .loading → exec (.phld g bank a n1) s =
      .next ((s.placed (.phld g bank a n1)).later 7 2 (.phld bank ((s.x a).toNat / 64 * 64) (n1.toNat + 1)))) ∧
    (s.goes (.phld g bank a n1) → ((s.ctxView s.cur.ctx).bank bank).st = .loading →
      exec (.phld g bank a n1) s = .next ((s.placed (.phld g bank a n1)).execTrap 0x62 7 0x02)) ∧
    (s.goes (.nmfn g d a) → s.inBody = true →
      exec (.nmfn g d a) s = .next ((s.placed (.nmfn g d a)).later 7 2 (.nmfn ((s.x a).toNat % 2 ^ 32) (s.qDst d)))) ∧
    (s.goes (.nmfn g d a) → s.inBody = false → ∃ t w, exec (.nmfn g d a) s = .next t ∧ t.nmWaits = s.nmWaits ++ [w] ∧
      w.ticket = (s.x a).toNat % 2 ^ 32 ∧ w.reg = false ∧ w.xd = s.qDst d ∧
      t.me.waits = s.me.waits ++ (s.qDst d).toList.map (fun r => (s.nextId, r)) ∧ SameRegisters s t ∧ SameMemory s t) ∧
    (s.goes (.seedq g d) → s.seedOn = false → ∃ t w, exec (.seedq g d) s = .next t ∧ t.seedWaits = s.seedWaits ++ [w] ∧ w.xd = s.qDst d ∧
      t.seedcnt = s.seedcnt ∧ t.me.waits = s.me.waits ++ (s.qDst d).toList.map (fun r => (s.nextId, r)) ∧ SameRegisters s t ∧ SameMemory s t) ∧
    (s.goes (.seedq g d) → s.seedOn = true → ∃ t, exec (.seedq g d) s = .next t ∧ t.seedcnt = s.seedcnt + 1 ∧ SameRegisters s t ∧ SameMemory s t)
/-- What lands at c+1 and c+2: a card enters the scheduler of the cluster with the next serial, a command takes the next ticket of
its stream, a barrier is armed with its count or added to, the buffer changes, and so does the selection of the running context. No register changes but by the
results that follow a cycle later; no memory changes. -/
def Obligations.SubmissionsLand : Prop :=
  ∀ (s : State) (k : CoreId) (e : Pend), (s.core k).prim.pend = [e] → (s.core k).comp.pend = [] →
    e.due = (s.core k).prim.inst → (s.core k).seg.snap = none →
    let cl := clusterOf k
    (∀ a r cy, e.eff = .jsub a (some (.x r)) cy → (s.core k).spBad.contains (a / 128) = false → ∃ t j, exec (.inFlightResultLanding k) s = .next t ∧
      (t.cluster cl).jobs = (s.cluster cl).jobs ++ [j] ∧ j.card = (s.core k).spRow (a / 128) ∧ j.stamp.serial = (s.cluster cl).serial ∧
      j.stamp.core = k ∧ j.stamp.cyc = cy ∧ (cardOk j.card = false → j.fault = 0x40) ∧ (t.cluster cl).serial = ((s.cluster cl).serial + 1) % 2 ^ 32 ∧
      (t.core k).prim.pend = [{ e with due := e.due + 1, slot := 7, eff := .x false r (BitVec.ofNat 64 (s.cluster cl).serial) }] ∧
      SameRegisters s t ∧ SameMemory s t) ∧
    (∀ a r cy, e.eff = .nmsub a (some (.x r)) cy → (s.core k).spBad.contains (a / 128) = false → ∃ t c, exec (.inFlightResultLanding k) s = .next t ∧
      t.nm = s.nm ++ [c] ∧ c.cmd = BitVec.ofNat 256 (((s.core k).spRow (a / 128)).toNat / 2 ^ (256 * (a / 32 % 4))) ∧
      c.stamp.serial = (s.core k).prim.nmnext.toNat ∧ (t.core k).prim.nmnext = (s.core k).prim.nmnext + 1 ∧
      (t.core k).prim.pend = [{ e with due := e.due + 1, slot := 7, eff := .x false r ((s.core k).prim.nmnext.setWidth 64) }] ∧
      SameRegisters s t ∧ SameMemory s t) ∧
    (∀ b ui v, e.eff = .barm b false ui v → b < 128 → ∃ t, exec (.inFlightResultLanding k) s = .next t ∧
      Bar.ofWord (rd (t.core k).bars b 0) = { arm := true, fired := false, fault := false, canc := false, uie := ui, count := v.toNat % 2 ^ 36 } ∧
      (∀ i, i ≠ b → rd (t.core k).bars i 0 = rd (s.core k).bars i 0) ∧ SameRegisters s t ∧ SameMemory s t) ∧
    (∀ b ui v, e.eff = .barm b true ui v → b < 128 → ∃ t, exec (.inFlightResultLanding k) s = .next t ∧
      (let o := Bar.ofWord (rd (s.core k).bars b 0)
       let n := o.count + v.toNat % 2 ^ 36
       Bar.ofWord (rd (t.core k).bars b 0) =
         { arm := true, fired := false, fault := o.fault || decide (2 ^ 36 ≤ n), canc := o.canc, uie := ui, count := min n (2 ^ 36 - 1) }) ∧
      (∀ i, i ≠ b → rd (t.core k).bars i 0 = rd (s.core k).bars i 0) ∧ SameRegisters s t ∧ SameMemory s t) ∧
    (∀ i b, e.eff = .bufState i b → i < 512 → ∃ t, exec (.inFlightResultLanding k) s = .next t ∧ t.buf k i = b ∧
      (∀ j, j ≠ i → j < 512 → t.buf k j = s.buf k j) ∧ SameRegisters s t ∧ SameMemory s t) ∧
    (∀ b, e.eff = .phsel b → (s.core k).ctx = s.curCtx → s.selOpen = true →
      ∃ t, exec (.inFlightResultLanding k) s = .next t ∧ t.selValid = true ∧ t.selB = b ∧
      SameRegisters s t ∧ SameMemory s t)

/-! ### Stops, freezes and the answers to them (R36 to R45, R170, R369, R398, R484) -/

/-- TRAPACT and SEQCTL: CONTINUE lets a companion, or a primary outside a phase body, go on at TRAPNPC from its next instant, as
what it was (running, awaiting alignment or awaiting a record), or in slack when its body has ended; for the causes that R466 names, and with ABORT, the job falls
back: its streams end and its counter is cancelled unless done. GO ends a slack
hold, and ABORT of a held boundary falls the job back. -/
def Obligations.FirmwareAnswers : Prop :=
  (∀ (s : State) (k : CoreId) (comp : Bool), (s.strm k comp).trap.pend = true →
    (onlyAbort (s.strm k comp).trap.cause.toNat = false → (comp = true ∨ ((s.core k).group = none ∧ (s.core k).startAt = none)) →
      ∃ t, exec (.trapactContinue k comp) s = .next t ∧
        (t.strm k comp).run = (if comp = false ∧ (s.core k).place = .window then .slack else (s.strm k comp).back) ∧ (t.strm k comp).pc = (s.strm k comp).trap.npc ∧
        (t.strm k comp).trap.pend = false ∧ (t.strm k comp).ready = (s.strm k comp).inst + 1 + (s.strm k comp).left.2 ∧
        (∀ j, j ≠ k → t.core j = s.core j) ∧ SameRegisters s t ∧ SameMemory s t) ∧
    (∀ i, (i = .trapactAbort k comp ∨ (i = .trapactContinue k comp ∧ onlyAbort (s.strm k comp).trap.cause.toNat = true)) →
      (∀ f ∈ s.falls, f.ctx ≠ (s.core k).ctx) →
      ∃ t, exec i s = .next t ∧ (∃ f ∈ t.falls, f.ctx = (s.core k).ctx) ∧
        (∀ j, (s.core j).ctx = (s.core k).ctx → (t.core j).prim.run = .ended ∧ (t.core j).comp.run = .ended ∧ (t.core j).seg.held = []) ∧
        ∀ h ∈ (t.ctxView (s.core k).ctx).hcounts, h.level = 4 → h.done = true ∨ h.canc = true)) ∧
  (∀ (s : State) (b : Boundary), s.bound = some b → b.hold = 0x60 →
    exec .seqctlGo s = .next { s with bound := some { b with
      hold := 0, went := some s.cyc.toNat, copied := if s.latched.isSome then b.copied else none } }) ∧
  (∀ (s : State) (b : Boundary), s.bound = some b → b.hold ≠ 0 → (∀ f ∈ s.falls, f.ctx ≠ s.curCtx) →
    ∃ t, exec .seqctlAbort s = .next t ∧ (∃ f ∈ t.falls, f.ctx = s.curCtx) ∧ t.bound = none)
/-- Freezes. An announcement is set for every member of the group at the group's instant; at that instant the freeze takes effect
and the core, unless stopped, is frozen; it ends once no freeze applies. The Weir limiter asks for one cycle at t + H. A freeze
whose run reaches its limit, and a body of 65,536 instants, stop the core with cause 0x61 and 0x62; a bridge message not heard 4
cycles before the effect, or before the resumption, with 0x7F. -/
def Obligations.Freezes : Prop :=
  ∀ (s : State) (k : CoreId),
    (∀ src inst, src ≠ .replay → src ≠ .weir → (s.core k).replaying = false → ∃ t, exec (.freezeAnnounce k src inst) s = .next t ∧
      (∀ j ∈ s.members k, ∃ f ∈ (t.core j).freezes, f.src = src ∧ f.owner = k ∧
        f.key = if src = .stretch ∨ src = .preempt then inst else inst + (s.core j).groupInst - (s.core k).groupInst) ∧
      SameRegisters s t ∧ SameMemory s t) ∧
    (∀ f, f ∈ (s.core k).freezes → f.eff = none → f.clr = none → f.byWall = false → f.key ≤ (s.core k).nextInst →
      (s.core k).seg.replayTo = none → (s.core k).prim.run ≠ .trapped →
      ∃ t, exec (.freezeTakeEffect k) s = .next t ∧ (t.core k).frozen = true ∧ { f with eff := some s.cyc.toNat } ∈ (t.core k).freezes ∧
        (∀ j, j ≠ k → t.core j = s.core j) ∧ SameRegisters s t ∧ SameMemory s t) ∧
    ((s.core k).frozen = true → s.freezesNow k s.cyc.toNat = false → ∃ t, exec (.freezeResume k) s = .next t ∧ (t.core k).frozen = false ∧
      (∀ j, j ≠ k → t.core j = s.core j) ∧ SameRegisters s t ∧ SameMemory s t) ∧
    ((s.core k).weirFails s.cyc.toNat = true → (s.core k).replaying = false → ∃ t, exec (.weirFreezeRequest k) s = .next t ∧
      (∀ j ∈ s.members k, ∃ f ∈ (t.core j).freezes, f.src = .weir ∧ f.owner = k ∧
        f.key = (s.core k).prim.inst + s.horizon k + (s.core j).groupInst - (s.core k).groupInst) ∧ SameRegisters s t ∧ SameMemory s t) ∧
    ((s.core k).frozen = true → (s.core k).frlim ≤ (s.core k).frun → (s.frzLimit (s.members k)).map (fun m => m.2) = some k → k ∈ s.members k →
      (s.core k).prim.trap.pend = false → (s.core k).prim.run ≠ .trapped →
      ∃ t, exec (.freezeTimeout k) s = .next t ∧ (t.core k).frozen = false ∧ (t.strm k false).run = .trapped ∧ (t.strm k false).trap.cls = 3 ∧
        (t.strm k false).trap.cause = 0x61 ∧ (t.strm k false).trap.info = BitVec.ofNat 64 (k.val + (s.core k).frun * 2 ^ 32) ∧
        (∀ j, j ∉ s.members k → t.core j = s.core j) ∧ SameRegisters s t ∧ SameMemory s t) ∧
    ((s.core k).place = .body → (s.core k).b0 + 65536 ≤ (s.core k).prim.inst → (s.core k).prim.trap.pend = false →
      (s.core k).prim.run ≠ .trapped →
      ∃ t, exec (.bodyLengthExceeded k) s = .next t ∧ (t.strm k false).run = .trapped ∧ (t.strm k false).trap.cls = 3 ∧
        (t.strm k false).trap.cause = 0x62 ∧ (t.strm k false).trap.info = 1 ∧ SameRegisters s t ∧ SameMemory s t) ∧
    ((∃ f ∈ (s.core k).freezes, f.heard = false ∧ ((f.clr = none ∧ f.key ≤ (s.core k).nextInst + 4) ∨
        (∃ e, f.clr = some e ∧ e + s.horizon k ≤ s.cyc.toNat + 4))) → (s.core k).prim.trap.pend = false → (s.core k).prim.run ≠ .trapped →
      ∃ t, exec (.freezeMessageLate k) s = .next t ∧ (t.strm k false).run = .trapped ∧ (t.strm k false).trap.cause = 0x7F ∧
        SameRegisters s t ∧ SameMemory s t) ∧
    (∀ inst f, f ∈ (s.core k).freezes → f.key = inst → ∃ t, exec (.freezeMessage k f.clr.isSome inst) s = .next t ∧
      { f with heard := true } ∈ (t.core k).freezes ∧ (∀ j, j ≠ k → t.core j = s.core j) ∧ SameRegisters s t ∧ SameMemory s t) ∧
    ((s.core k).seg.replayTo = some (s.core k).nextInst → ∃ t, exec (.replayEnd k) s = .next t ∧ (t.core k).seg.replayTo = none ∧
      (∀ f ∈ (t.core k).freezes, f.src = .replay → f.owner = k → f.clr ≠ none) ∧ SameRegisters s t ∧ SameMemory s t)

/-! ### Clocks, power and the operating point (R475 to R490) -/

/-- The clock regions and the operating point: a margin event stretches the next cycle or, within 31 cycles of the last stretch,
asks for a freeze; the stop of a synchronised change serves an event of the cycle before it; the cycles of good margin that a freeze
waits for count afresh, and the die has no offset after this window; GO is refused while a change is under way (3), for a point that does not exist (4), too near an instant (1) or
in an aligned job (2), else it is armed; at its cycle the point changes; a running change moves the period by at most 1/256. A
change that leaves point 4 makes an entry of the error log, and no other change of the point writes memory. -/
def Obligations.ClocksAndPoints : Prop :=
  ∀ (s : State), let h := s.health
    (∀ r, s.stopsNext = false → s.mayStretch r = true →
      exec (.clockStretch r) s = .next { s.marginLow r with
        health := { (s.marginLow r).health with stretch := wr h.stretch r.val (s.cyc.toNat + 1) } }) ∧
    (∀ r, (s.stopsNext = true → exec (.clockStretch r) s = .next (s.marginLow r)) ∧
      (s.stopsNext = true ∨ s.mayStretch r = true → exec (.stretchFreeze r) s = .next (s.marginLow r))) ∧
    (∀ r, (s.marginLow r).cores = s.cores ∧ (s.marginLow r).mem = s.mem ∧ (s.marginLow r).health.stretch = h.stretch ∧
      rd (s.marginLow r).health.uvBad (r.val / 36) false = true ∧ ∀ x ∈ (s.marginLow r).health.low, x.1 = r.val → x.2 = 0) ∧
    (∀ r i, i = .stretchFreeze r ∨ i = .clockStretch r → s.stopsNext = false → s.mayStretch r = false → ∃ t, exec i s = .next t ∧ (r.val, 0) ∈ t.health.low ∧
      (∀ k ∈ regionCores r, ∃ f ∈ (t.core k).freezes, f.src = .stretch ∧ f.owner = k ∧ f.key = s.cyc.toNat + s.horizon k) ∧
      SameRegisters s t ∧ SameMemory s t) ∧
    (∀ r k, k ∈ regionCores r → (s.core k).group.isSome → (s.core k).prim.trap.pend = false → (s.core k).prim.run ≠ .trapped →
      ∃ t, exec (.criticalMargin r) s = .next t ∧
      (t.strm k false).run = .trapped ∧ (t.strm k false).trap.cause = 0x7F ∧ SameRegisters s t) ∧
    (h.busy = true → exec .opctlGoSync s = .next { s with health := { h with err := 3 } } ∧
      exec .opctlGoRunning s = .next { s with health := { h with err := 3 } }) ∧
    (h.busy = false → 5 ≤ h.tgt.toNat → exec .opctlGoSync s = .next { s with health := { h with err := 4 } } ∧
      exec .opctlGoRunning s = .next { s with health := { h with err := 4 } }) ∧
    (h.busy = false → h.tgt.toNat < 5 → h.opat.toNat < s.cyc.toNat + 262144 → exec .opctlGoSync s = .next { s with health := { h with err := 1 } }) ∧
    (h.busy = false → h.tgt.toNat < 5 → s.cyc.toNat + 262144 ≤ h.opat.toNat →
      exec .opctlGoSync s = .next { s with health := { h with busy := true, goTgt := h.tgt, goMode := false, goAt := h.opat } }) ∧
    (h.busy = false → h.tgt.toNat < 5 → s.alignedMany = true → exec .opctlGoRunning s = .next { s with health := { h with err := 2 } }) ∧
    (h.busy = false → h.tgt.toNat < 5 → s.alignedMany = false →
      exec .opctlGoRunning s = .next { s with health := { h with busy := true, goTgt := h.tgt, goMode := true, goAt := 0 } }) ∧
    (h.busy = true → h.goMode = false → s.cyc = h.goAt → ∃ t, exec .opSwitch s = .next t ∧ t.health.cur = h.goTgt ∧ t.health.busy = false ∧
      t.health.ramp = pointPeriod h.goTgt.toNat ∧ t.health.chg = h.chg + 1 ∧ t.cores = s.cores ∧
      (h.goTgt = 4 → t.health.slowAt = some (h.slowAt.getD s.cyc.toNat) ∧ t.errhead = s.errhead ∧ t.mem = s.mem) ∧
      (h.goTgt ≠ 4 → t.health.slowAt = none ∧ (h.slowAt.isSome → t.errhead = s.errhead + 1) ∧
        (h.slowAt = none → t.errhead = s.errhead ∧ t.mem = s.mem))) ∧
    (h.busy = true → h.goMode = true → ∃ t, exec .runningRampStep s = .next t ∧
      t.health.ramp ≤ h.ramp + h.ramp / 256 ∧ h.ramp - h.ramp / 256 ≤ t.health.ramp ∧
      (t.health.ramp = pointPeriod h.goTgt.toNat → t.health.cur = h.goTgt ∧ t.health.busy = false) ∧ t.cores = s.cores ∧
      (h.slowAt = none ∨ h.goTgt = 4 ∨ t.health.busy = true → t.errhead = s.errhead ∧ t.mem = s.mem) ∧
      (h.slowAt.isSome → h.goTgt ≠ 4 → t.health.busy = false → t.errhead = s.errhead + 1 ∧ t.health.slowAt = none))
/-- The power loop and the window of predictive failure: power above the limit, or a die too hot, lowers every Weir limit by a
sixteenth of itself down to its floor; a critical temperature opens the rails and stops the running groups with MACHINE. A core
whose count of corrected residues reached PFTH is declared to the host, and the counts start afresh. -/
def Obligations.PowerAndWear : Prop :=
  ∀ (s : State),
    (∀ watts temp, temp < s.health.tcrit.toNat → s.health.plim.toNat < watts ∨ s.health.thot.toNat ≤ temp →
      s.health.hotFor < 99 → ∃ t, exec (.powerLoop watts temp) s = .next t ∧
      (∀ k : CoreId, (t.core k).weirLim.toNat =
        max (s.core k).weirFlr.toNat ((s.core k).weirLim.toNat - ((s.core k).weirLim.toNat + 15) / 16)) ∧
      SameRegisters s t ∧ SameMemory s t) ∧
    (∀ watts temp k, s.health.tcrit.toNat ≤ temp → (s.core k).group.isSome → (s.core k).prim.trap.pend = false →
      (s.core k).prim.run ≠ .trapped → ∃ t, exec (.powerLoop watts temp) s = .next t ∧ (t.strm k false).run = .trapped ∧ (t.strm k false).trap.cause = 0x7F ∧
        t.health.rails = false ∧ SameRegisters s t) ∧
    (∀ (k : CoreId), (∀ j : CoreId, (s.health.uvctl.toNat / 2 ^ 32 % 2 ^ 16 ≤ rd s.health.rmis j.val 0) ↔ j = k) → rd s.health.uvWin (k.val / 64) false = false →
      ∃ t, exec .pfWindowEnd s = .next t ∧ t.d2h.length = s.d2h.length + 1 ∧
        (if k.val < 64 then t.health.pfstat0 else t.health.pfstat1).getLsbD (k.val % 64) = true ∧
        (∀ j : CoreId, rd t.health.rmis j.val 0 = 0) ∧ t.cores = s.cores ∧ t.mem = s.mem)

/-! ### Slots, pre-emption and the sequencer (R46 to R49, R173 to R178, R355 to R382) -/

/-- The slot table: a slot begins with its class and its length, counted from the present cycle; a malformed entry extends the
one before and is reported (0x64); a write of STBASE starts a table that nothing followed. Pre-emption of a core: stopped, it
is noted for saving; once nothing untimed is outstanding, but for NMFNs that are registered, its record is written and the core is
free; a context that was saved comes back with the registers, the addresses and the scratchpad that its record holds in memory and
with the barriers that memory holds for it, and one that was not takes the core as it stands. -/
def Obligations.SlotsAndPreemption : Prop :=
  (∀ (s : State),
      let i := (s.slotIx + 1) % (s.stbase.toNat % 256 + 1)
      let at' := (s.stbase.toNat / 2 ^ 12 % 2 ^ 40) * 2 ^ 12 + 16 * i
      let e := Memory.getN s.mem at' 16
      (s.poisoned at' 16 = false → bitsOf e 15 12 = 0 → bitsOf e 31 16 ≠ 0 → e < 2 ^ 32 → bitsOf e 11 11 = 1 →
        exec .slotStart s = .next { s with slotIx := i, slotAt := s.cyc.toNat, slotEnd := s.cyc.toNat + bitsOf e 31 16 * s.perUs
                                           slotClass := bitsOf e 9 8, slotAudit := decide (bitsOf e 10 10 = 1), slotHeld := false }) ∧
      (s.poisoned at' 16 = true ∨ bitsOf e 15 12 ≠ 0 ∨ bitsOf e 31 16 = 0 ∨ 2 ^ 32 ≤ e →
        ∃ t m, exec .slotStart s = .next t ∧ t.slotHeld = true ∧ t.slotEnd = s.slotEnd ∧ t.fwbox = s.fwbox ++ [m] ∧ m.cause = 0x64 ∧
          t.cores = s.cores ∧ t.mem = s.mem) ∧
      (∀ v, s.slotHeld = false → s.slotOn = false → ∃ t, exec (.stbaseWrite v) s = .next t ∧ t.slotOn = true ∧ t.slotEnd = s.cyc.toNat ∧
        t.slotIx = v.toNat % 256 ∧ t.cores = s.cores ∧ t.mem = s.mem)) ∧
  (∀ (s : State) (k : CoreId),
      (∀ f n x, (s.core k).preempted = some f → (s.core k).ctx = some n → x ∈ s.ctxs → x.num = n → s.savingOf k = none →
        (∀ j ∈ s.members k, (s.core j).prim.trap.pend = false ∧ (s.core j).replaying = false ∧ (s.core j).preempted.isSome = true) →
        ∃ t y, exec (.preemptStop k) s = .next t ∧ y ∈ t.ctxs ∧ y.num = n ∧ k ∈ y.saving ∧ t.cores = s.cores ∧ t.mem = s.mem) ∧
      (∀ x, s.savingOf k = some x → s.savable k = true → (∀ w ∈ s.nmWaits, w.core = k → w.reg = true) →
        let at' := x.recb + 0x48_0000 * k.val
        let bb := (s.core k).barbase.toNat / 2 ^ 10 % 2 ^ 42 * 2 ^ 10
        let ur := (s.core k).uiRing.toNat / 2 ^ 12 % 2 ^ 40 * 2 ^ 12 + 2048
        ∃ t y, exec (.preemptSave k) s = .next t ∧ t.core k = (s.core k).vacant ∧
        y ∈ t.ctxs ∧ y.num = x.num ∧ (k, (s.core k).forRecord) ∈ y.saved ∧ (∀ j, j ≠ k → t.core j = s.core j) ∧
        (s.memOk → Memory.wf (s.core k).sp = true → (bb + 1024 ≤ at' ∨ at' + 0x48_0000 ≤ bb) → (ur + 8 ≤ at' ∨ at' + 0x48_0000 ≤ ur) →
          ∀ a, a < 0x48_0000 → Memory.get t.mem (at' + a) = Memory.get (s.recordImage k) a)) ∧
      (∀ x c, s.comingOf k = some x → s.coreFree x = true → (x.coming ≠ [k] ∨ x.started = true) → x.saved.find? (fun p => p.1 = k) = some (k, c) →
        let num := fun off n => Memory.getN s.mem (x.recb + 0x48_0000 * k.val + off) n
        ∃ t, exec (.preemptResume k) s = .next t ∧
          (∀ i, i < 64 → rd (t.strm k false).x i 0 = BitVec.ofNat 64 (num (0x1000 + 8 * i) 8)) ∧
          (∀ i, i < 32 → rd (t.strm k true).x i 0 = BitVec.ofNat 64 (num (0x1200 + 8 * i) 8)) ∧
          (∀ i, 0 < i → i < 16 → rd (t.strm k false).p i false = (num 0x1340 8).testBit i) ∧
          (∀ i, i < 32 → rd (t.strm k false).v i 0 = BitVec.ofNat 1024 (num (0x2000 + 128 * i) 128)) ∧
          (t.strm k false).pc = BitVec.ofNat 52 (num 32 8) ∧ (t.strm k true).pc = BitVec.ofNat 52 (num 56 8) ∧
          (s.memOk → ∀ a, a < 0x40_0000 → Memory.get (t.core k).sp a = Memory.get s.mem (x.recb + 0x48_0000 * k.val + 0x8_0000 + a)) ∧
          (∀ i, i < 128 → rd (t.core k).bars i 0 = s.getWord ((s.getWord (s.descAt x.num + 16)).toNat + 1024 * k.val + 8 * i)) ∧
          (t.core k).ctx = c.ctx ∧ (t.core k).frozen = true ∧ (t.core k).frzcnt = (s.core k).frzcnt) ∧
      (∀ x, s.comingOf k = some x → s.coreFree x = true → x.coming ≠ [k] → x.saved.find? (fun p => p.1 = k) = none →
        ∃ t, exec (.preemptResume k) s = .next t ∧ (t.core k).ctx = some x.num ∧ SameRegisters s t))
/-- L and the next start: every core of the next phase that runs the context starts at L + Dk, or its delay after firmware's GO, and
one that a pre-emption has stopped as if that had been announced at its stop; the job ends when the boundary says so. At its start a core enters its body at its entry, in its group, with an open segment, and with its registers
unchanged. -/
def Obligations.PhaseTurns : Prop :=
  (∀ (s : State) (b : Boundary) (d : PhaseDesc), s.bound = some b → s.lastReady = true → b.endJob = false → s.latched = some d →
    (d.cores.map fun c => c.core).Nodup →
    ∃ t, exec .sluiceLastArrival s = .next t ∧ t.latched = none ∧
      t.running = some { d with seq := if b.start then 0 else (b.seq + 1) % 2 ^ 32 } ∧
      (∀ c ∈ d.cores, (s.core c.core).ctx = s.curCtx → (t.core c.core).startAt =
        some (max (b.lAt.getD 0) (b.went.getD 0) + c.delay - (s.cyc.toNat - (s.core c.core).stoppedAt s.cyc.toNat))) ∧ SameRegisters s t ∧ SameMemory s t) ∧
  (∀ (s : State) (b : Boundary), s.bound = some b → s.lastReady = true → b.endJob = true →
    ∃ t, exec .sluiceLastArrival s = .next t ∧ t.bound = none ∧ t.running = none ∧
      (∀ k : CoreId, (s.core k).ctx = s.curCtx → (t.core k).prim.run = .ended ∧ (t.core k).place = .outside) ∧ SameRegisters s t ∧ SameMemory s t) ∧
  (∀ (s : State) (k : CoreId) (w : Nat) (d : PhaseDesc) (e : CoreEntry), (s.core k).startAt = some w → w ≤ s.cyc.toNat →
    (s.ctxView (s.core k).ctx).running = some d → d.cores.find? (fun c => c.core = k) = some e → e.tqlist = [] →
    ∃ t, exec (.phaseStart k) s = .next t ∧ (t.core k).place = .body ∧ (t.core k).group = some e.group ∧ (t.core k).startAt = none ∧
      (t.core k).prim.run = .running ∧ (t.core k).prim.pc = e.entry ∧ (t.core k).b0 = (s.core k).prim.inst ∧ (t.core k).prim.ras = [] ∧
      (t.core k).loop.act = false ∧ (t.core k).seg.isOpen = true ∧ (∀ j, j ≠ k → t.core j = s.core j) ∧ SameRegisters s t ∧ SameMemory s t)
/-- The boundary: an answered page and a repaid refresh debt are missing no longer; a phase is copied once it is chosen and
its bank loaded, with which its bank load arrives, its pre-translation and training begin, and in adaptive mode SPLIT takes NEXTP;
it is latched when it is well formed, even while the boundary is held, and else the boundary is held with 0x62; a loaded bank is valid with the entries read, and the streams
of its context drop the bundles that they fetched ahead from the code that it names, other cores none; pre-translation fills the
next translation caches; a boundary overrun is held with 0x60, or 0x63 when only the bank, and what waits for it, is missing. The partition controller
moves NEXTP by one at most, by the queue depths and their hysteresis, and changes nothing else. -/
def Obligations.BoundarySteps : Prop :=
  (∀ (s : State) (b : Boundary),
      (∀ va, s.bound = some b → b.pages.contains va = true → exec (.pageRequestAnswer va) s = .next { s with bound := some { b with pages := b.pages.filter (· ≠ va) } }) ∧
      (s.bound = some b → b.missing.contains .refresh = true → exec .refreshDebtRepaid s =
        .next { s with bound := some { b with missing := b.missing.filter (· ≠ .refresh), stamps := b.stamps ++ [(.refresh, s.cyc.toNat)] } }) ∧
      (∀ bk ix, s.bound = some b → b.chosen = some (bk, ix) → s.latchDue = true →
        (∀ cp, b.copied = some cp →
          (∀ d, s.latchPhase bk ix cp = .ok d → exec .phaseLatch s = .next { s with latched := some d }) ∧
          (s.latchPhase bk ix cp = .bad → ∃ t b', exec .phaseLatch s = .next t ∧ t.bound = some b' ∧ b'.hold = 0x62 ∧ b'.copied = none ∧
            t.latched = none ∧ t.cores = s.cores ∧ t.mem = s.mem)) ∧
        (b.copied = none → b.skip ≠ some (bk, ix) →
          let u := s.copyPhase bk ix
          ∃ b' cp, u.bound = some b' ∧ b'.copied = some cp ∧ cp.entries.head? = some ((s.bank bk).entry ix) ∧ cp.prompt = u.partctl.toNat / 2 ^ 16 % 16 ∧
            Arrival.pretrans ∈ b'.missing ∧ Arrival.training ∈ b'.missing ∧ Arrival.bankLoad ∉ b'.missing ∧
            u.partctl.toNat / 2 ^ 16 % 16 = (if s.partctl.toNat % 4 = 1 then s.partctl.toNat / 2 ^ 28 else s.partctl.toNat / 2 ^ 16) % 16 ∧
            u.cores = s.cores ∧ u.mem = s.mem ∧
            (∀ d, u.latchPhase bk ix cp = .ok d → exec .phaseLatch s = .next { u with latched := some d }) ∧
            (u.latchPhase bk ix cp = .bad → ∃ t b'', exec .phaseLatch s = .next t ∧ t.bound = some b'' ∧ b''.hold = 0x62 ∧
              t.latched = none ∧ t.cores = s.cores ∧ t.mem = s.mem))) ∧
      (∀ bk va n pt x, (s.bank bk).st = .loading → (s.bank bk).load = some (va, n, pt) → s.vread (BitVec.ofNat 64 pt) 2 va (64 * n) = some (x, false) →
        ∃ t, exec (.phldLoadDone bk) s = .next t ∧ (t.bank bk).st = .valid ∧
          (∀ i, i < n → i < 512 → (t.bank bk).entry i = x / 2 ^ (512 * i) % 2 ^ 512) ∧
          (∀ (j : CoreId) (comp : Bool), (s.core j).ctx = s.curCtx → ∀ e ∈ (t.strm j comp).ibuf, e ∈ (s.strm j comp).ibuf ∧
            ∀ r ∈ s.bankCode (BitVec.ofNat 64 pt) (t.bank bk), ¬ (r.1 ≤ e.1 ∧ e.1 < r.1 + r.2)) ∧
          (∀ j : CoreId, (s.core j).ctx ≠ s.curCtx → t.core j = s.core j) ∧ SameRegisters s t ∧ SameMemory s t) ∧
      (∀ d, s.latched = some d → s.bound = some b → b.missing.contains .pretrans = true → b.pages = [] →
        (∀ cl, ∃ xs, s.clusterPages d cl = .ok xs ∧ xs.length ≤ 4096) →
        ∃ t, exec .preTranslationArrival s = .next t ∧ (∀ cl xs, s.clusterPages d cl = .ok xs → (t.cluster cl).ptcNext = xs) ∧
          (∀ b', t.bound = some b' → b'.missing.contains .pretrans = false) ∧ t.cores = s.cores ∧ t.mem = s.mem) ∧
      (s.bound = some b → s.slackDue = true → ∃ t m, exec .slackOverrun s = .next t ∧ t.fwbox = s.fwbox ++ [m] ∧
        m.cause = b.overrun ∧ t.bound = some { b with hold := b.overrun } ∧ t.cores = s.cores ∧ t.mem = s.mem ∧
        (.bankLoad ∈ b.late → (∀ a ∈ b.late, a = .bankLoad ∨ a = .pretrans ∨ a = .training) → b.overrun = 0x63) ∧
        (.bankLoad ∉ b.late ∨ (∃ a ∈ b.late, a ≠ .bankLoad ∧ a ≠ .pretrans ∧ a ≠ .training) → b.overrun = 0x60))) ∧
  (∀ (s : State), s.partctl.toNat % 4 = 1 →
      let qp := (s.getWord (s.partq.toNat / 16 % 2 ^ 48 * 16)).toNat
      let qd := (s.getWord (s.partq.toNat / 16 % 2 ^ 48 * 16 + 8)).toNat
      let p := s.partctl.toNat / 2 ^ 16 % 16
      ∃ w, exec .partitionPeriod s = .next { s with partctl := w } ∧
        w.toNat / 2 ^ 28 % 16 =
          (if qd * p + s.partctl.toNat / 2 ^ 32 % 2 ^ 16 < qp * (16 - p) ∧ p < s.partctl.toNat / 2 ^ 24 % 16 then p + 1
           else if qp * (16 - p) + s.partctl.toNat / 2 ^ 48 < qd * p ∧ s.partctl.toNat / 2 ^ 20 % 16 < p then p - 1 else p) ∧
        w.toNat % 2 ^ 28 = s.partctl.toNat % 2 ^ 28 ∧ w.toNat / 2 ^ 32 = s.partctl.toNat / 2 ^ 32)

/-! ### The engines (R306 to R353, R420 to R450) -/

namespace Sys2Proof.Machine

/-- The copy operations with their OP codes (R310). -/
noncomputable def copyForms (cl : ClusterId) (n : Word32) : List (Instr × Nat) :=
  [(.jcopy cl n, 1), (.jcopyt cl n, 2), (.jgather cl n, 3), (.jscatter cl n, 4), (.jred cl n, 5)]
/-- The near-memory operations with their OP codes (R341). -/
noncomputable def nearForms (u : UnitId) : List (Instr × Nat) :=
  [(.nadd u, 1), (.naxpy u, 2), (.nscal u, 3), (.nsgdw u, 4), (.nadamw u, 5), (.nfill u, 6), (.nred u, 7), (.ncopy u, 8), (.ncvt u, 9), (.nchk u, 10)]

end Sys2Proof.Machine

/-- Copy jobs: a ready job starts; a started one asks for the bytes of its next piece at the addresses that its regions give, one
access for each of its reads; once the bytes of a piece of one source and one destination are here, a job that does not reduce
writes them with one access to that destination; a source that does not translate stops the job with 0x42. Such a step changes no
byte of memory itself. -/
def Obligations.CopyJobs : Prop :=
  ∀ (s : State) (cl : ClusterId) (n : Word32) (j : Job), s.findJob cl n.toNat = some j → ∀ f ∈ copyForms cl n, cOp j.card = f.2 →
    (s.jobStarts cl j = true → ∃ t, exec f.1 s = .next t ∧ t.findJob cl n.toNat = some { j with phase := .started } ∧
      t.cores = s.cores ∧ SameMemory s t) ∧
    (∀ p ni ns, j.phase = .started → j.asked = false → j.piece = .ok (some (p, ni, ns)) →
      (∀ r ∈ p.reads, (s.engineXlate j.stamp.ctx r.1 1).isSome = true) →
      ∃ t, exec f.1 s = .next t ∧ t.accs.length = s.accs.length + p.reads.length ∧
        (∀ x ∈ t.accs, x ∈ s.accs ∨ (x.who = .job cl j.stamp.serial ∧
          ∃ r ∈ p.reads, x.op = .read r.2.1 ∧ s.engineXlate j.stamp.ctx r.1 1 = some x.pa)) ∧ t.cores = s.cores ∧ SameMemory s t) ∧
    (∀ p ni ns r row pa dst, j.phase = .started → j.asked = true → j.piece = .ok (some (p, ni, ns)) → p.reads = [r] → p.index = false →
      j.got = [(0, row, false)] → j.ibad = false → (∀ c ∈ j.carry, c.1 ≠ p.src) → p.outs = [dst] → f.2 ≠ 5 → cRop j.card = 0 → s.engineXlate j.stamp.ctx dst 2 = some pa →
      ∃ t x, exec f.1 s = .next t ∧ t.accs = s.accs ++ [x] ∧ x.op = rowPut pa p.n (row.toNat % 2 ^ (8 * r.2.1)) false ∧
        x.pa = pa / 128 * 128 ∧ x.who = .job cl j.stamp.serial ∧ t.cores = s.cores ∧ SameMemory s t) ∧
    (∀ p ni ns r, j.phase = .started → j.asked = false → j.piece = .ok (some (p, ni, ns)) → p.reads = [r] →
      s.engineXlate j.stamp.ctx r.1 1 = none → j.fault = 0 →
      ∃ t j', exec f.1 s = .next t ∧ t.findJob cl n.toNat = some j' ∧ j'.phase = .finishing ∧ j'.fault = 0x42 ∧ j'.faultVa = r.1 ∧ t.accs = s.accs)
/-- The end of a job: with its accesses answered it leaves the scheduler, no job waits for it any longer, and its barrier is
decremented by the payload; a job that wrote to the host first reads its last byte back. Snapshots: a ready JSNAP whose blocks
all translate starts with them, and sets its marks at once when its job has no phase to come; the copy of a block goes out as
writes in the job's name, once what its source held is here, and the writes of a page-aligned, clean block carry each of its bytes, as they were at the mark, to
the byte's place in the area. -/
def Obligations.JobsEnd : Prop :=
  (∀ (s : State) (cl : ClusterId) (n : Word32) (j : Job), s.findJob cl n.toNat = some j → j.phase = .finishing → s.jobBusy cl n.toNat = false →
      (∀ pa, j.hostLast = some pa → ∃ t x, exec (.jobComplete cl n) s = .next t ∧ t.accs = s.accs ++ [x] ∧ x.op = .read 1 ∧ x.pa = pa ∧
        x.who = .job cl n.toNat) ∧
      (j.hostLast = none → ∃ t, exec (.jobComplete cl n) s = .next t ∧ t.findJob cl n.toNat = none ∧
        (∀ x ∈ (t.cluster cl).jobs, n.toNat ∉ x.edges) ∧ SameRegisters s t) ∧
      (let c := j.stamp.core
       let b := cBar j.card
       let o := Bar.ofWord (rd (s.core c).bars b 0)
       j.hostLast = none → j.fault = 0 → j.canc = false → cBen j.card = true → s.live j.stamp = true → o.arm = true → cPayload j.card ≤ o.count →
        ∃ t, exec (.jobComplete cl n) s = .next t ∧
          Bar.ofWord (rd (t.core c).bars b 0) =
            { o with count := o.count - cPayload j.card, fired := o.fired || (decide (o.count = cPayload j.card) && decide (0 < cPayload j.card)) })) ∧
  ((∀ (s : State) (cl : ClusterId) (n : Word32) (j : Job), s.findJob cl n.toNat = some j → cOp j.card = 6 → s.jobStarts cl j = true →
      let r := cRegion j.card false 0
      let w := cRegion j.card true 0
      let pages := r.len / 65536 + (if w.base % 65536 = 0 then 0 else 1)
      (∀ i, i < r.len / 65536 → (s.engineXlate j.stamp.ctx (r.base + i * 65536) 1).isSome = true) →
      (∀ i, i < pages → (s.engineXlate j.stamp.ctx (w.base / 65536 * 65536 + i * 65536) 2).isSome = true) →
      ∃ t j', exec (.jsnap cl n) s = .next t ∧ t.findJob cl n.toNat = some j' ∧ j'.blocks.length = r.len / 65536 ∧
        ((s.ctxView j.stamp.ctx).phaseToCome = true → j'.phase = .started ∧ t.marks = s.marks) ∧
        ((s.ctxView j.stamp.ctx).phaseToCome = false → s.marks = [] → r.len / 65536 ≤ 16384 →
          j'.phase = .marked ∧ t.marks.length = r.len / 65536) ∧
        t.cores = s.cores ∧ SameMemory s t) ∧
    (∀ (s : State) (m : Mark), s.ownAddr (m.block * 65536) = true → s.markData m = some m) ∧
    (∀ (s : State) (st : StackId) (m m' : Mark),
      s.marks.find? (fun m => stackOf (m.block * 65536) = st.val && !m.sent && m.began.any (fun w => w + 1024 ≤ s.cyc.toNat)) = some m →
      s.markData m = some m' →
      ∃ t, exec (.snapshotBlockCopy st) s = .next t ∧ t.accs.length = s.accs.length + m'.copies.length ∧
        (∀ w ∈ m'.copies, ∃ x ∈ t.accs, x.op = w.2 ∧ x.pa = w.1 ∧ x.who = .job m.cl m.serial ∧ x.pos = m.num + 1) ∧
        { m with sent := true } ∈ t.marks ∧ SameRegisters s t ∧ SameMemory s t) ∧
    (∀ (m : Mark) (i : Nat), m.dst % 65536 = 0 → m.bad = [] → i < 65536 → ∃ w ∈ m.copies, ∃ d en, w.2 = .write d en ∧
      w.1 ≤ m.dst + i ∧ m.dst + i < w.1 + 128 ∧ en.getLsbD (m.dst + i - w.1) = true ∧
      lane 8 d (m.dst + i - w.1) = (Memory.get m.data (m.block * 65536 + i)).toNat))
/-- Near-memory commands: one that its entry check refuses stops with 0x50, once every access of the one before has performed; a
step of one that has begun takes the elements of a row, and of an element-wise command other than NADAMW sends the row that they
make as one write; it waits while a row that it reads holds a timed write of its
core whose window is open; a command that is over leaves its unit, one that stopped once its earlier rows are written. Integer elements: NADD adds modulo 2^w, NFILL
fills, NCOPY copies. -/
def Obligations.NearMemory : Prop :=
  (∀ (s : State) (u : UnitId) (c : NmCmd), s.nmHead u = some c →
    (∀ i, ((∃ f ∈ nearForms u, i = f.1 ∧ nmOp c = f.2) ∨ i = .nmStep u) →
      (c.fault = 0 → c.begun = false → nmEntryOk c = false → (∀ a ∈ s.accs, a.who = .nm u → a.done = true) → ∃ t c', exec i s = .next t ∧ c' ∈ t.nm ∧ c'.cmd = c.cmd ∧ c'.fault = 0x50 ∧
        c'.begun = true ∧ t.cores = s.cores ∧ SameMemory s t) ∧
      (c.fault = 0 → c.begun = true → c.done < nmN c → s.poison = [] → s.nmUnseen c = false → ∃ t c', exec i s = .next t ∧ c' ∈ t.nm ∧ c'.cmd = c.cmd ∧
        c'.done = c.done + nmStepLen c ∧ c'.fault = 0 ∧ t.cores = s.cores ∧ SameMemory s t) ∧
      (let sw := nmWidth (nmFmt c)
       let read := fun base n => Memory.getN s.mem (c.pa (base + (c.done + n) * sw)) sw
       let vals := (List.range (nmStepLen c)).map fun n =>
         nmElem c (if nmOp c ≤ 5 then read (nmD c) n else 0) (if nmUsesS c then read (nmS c) n else 0)
       let pa := c.pa (nmD c + c.done * nmDw c)
       c.fault = 0 → c.begun = true → c.done < nmN c → s.poison = [] → s.nmUnseen c = false → nmWhole c = false → nmOp c ≠ 5 → 0 < nmDw c → 0 < nmStepLen c →
        ∃ t x, exec i s = .next t ∧ t.accs = s.accs ++ [x] ∧ x.who = .nm u ∧ x.pa = pa / 128 * 128 ∧
          x.op = rowPut pa (nmDw c * nmStepLen c) (packLanes (8 * nmDw c) vals) false)) ∧
    (c.over = true → s.accs.any (fun a => decide (a.who = Party.nm u) && (decide (c.fault = 0) || !a.done)) = false → ∃ t, exec (.nmCommandComplete u) s = .next t ∧ t.nm = s.nm.erase c)) ∧
  (∀ (c : NmCmd) (d x : Nat),
    (nmOp c = 1 → 3 < nmFmt c → nmElem c d x = (d + x) % 2 ^ (8 * nmWidth (nmFmt c))) ∧
    (nmOp c = 6 → nmElem c d x = nmImm c % 2 ^ (8 * nmWidth (nmFmt c))) ∧ (nmOp c = 8 → nmElem c d x = x))
/-- The sampler: the oldest request is fetched, with a member for each bit of its mask; runs for the length of R439 and the cycles for
which it waits for its reads, which SMPSTAT.STALL counts; commits once they have passed; and leaves when every write is acknowledged. A lost sector of the key-value pool is poisoned. -/
def Obligations.Sampler : Prop :=
  ∀ (s : State) (cl : ClusterId) (r : SReq) (rs : List SReq), (s.cluster cl).reqs = r :: rs →
    (r.stage = .queued → (r.inBody = false ∨ r.closed = true) → ∃ t r', exec (.samplerFetch cl) s = .next t ∧ (t.cluster cl).reqs = r' :: rs ∧
      r'.stage = .fetch ∧ r'.mems.length = (sMembers r.card).length ∧ r'.card = r.card ∧ SameRegisters s t) ∧
    (r.stage = .fetch → ∃ t r' w, exec (.samplerExecute cl) s = .next t ∧ (t.cluster cl).reqs = r' :: rs ∧ r'.stage = .execute (r.length + w) ∧
      (t.cluster cl).stall.toNat = min ((s.cluster cl).stall.toNat + w) 0xFFFF_FFFF ∧ r'.start = s.cyc.toNat ∧ t.cores = s.cores ∧ SameMemory s t) ∧
    (∀ len, r.stage = .execute len → r.start + len ≤ s.cyc.toNat → ∃ t, exec (.samplerCommit cl) s = .next t ∧
      (t.cluster cl).reqs = { r with stage := .commit 0 0 } :: rs ∧ t.cores = s.cores ∧ SameMemory s t) ∧
    (∀ i, r.stage = .commit i 0 → r.mems.length ≤ i → s.smpIdle cl = true → (s.cluster cl).lost = [] → ∃ t, exec (.samplerComplete cl) s = .next t ∧
      (t.cluster cl).reqs = rs ∧ SameRegisters s t) ∧
    (∀ pa, ∃ t, exec (.kvLost pa) s = .next t ∧ t.poison.contains (pa / 64) = true ∧ SameRegisters s t)

/-! ### Links between packages (R386 to R418) -/

/-- Flits: one whose CRC is wrong is discarded, counted and answered with a NAK that the next flit carries; the data flit that is
expected next is accepted, and the SEQ after it is expected; a NAK that brings no answer for 512 cycles is sent again; a window's
replay count starts afresh; a training that succeeds brings the port up with every held flit to go again, one that fails at the
lowest rate holds it down, and firmware may train it again. -/
def Obligations.PortsAndFlits : Prop :=
  ∀ (s : State) (p : PortId), let x := s.anyPort p
    (∀ f : RxFlit, x.held = false → x.enabled p = true → (x.up || x.train) = true → f.blockLost = false → (flitOk f.bytes).1 = false → x.nakOut = none →
      ∃ t, exec (.flitReceive p f) s = .next t ∧ (t.anyPort p).crcerr = x.crcerr + 1 ∧ (t.anyPort p).naktx = x.naktx + 1 ∧
        (t.anyPort p).nakOut = some s.cyc.toNat ∧ (t.anyPort p).nakDue = true ∧ (t.anyPort p).expSeq = x.expSeq ∧ t.agenda = s.agenda ∧ t.cores = s.cores ∧ t.mem = s.mem) ∧
    (∀ f : RxFlit, x.held = false → x.enabled p = true → (x.up || x.train) = true → f.blockLost = false → flitOk f.bytes = (true, true) →
      bitsOf (leNat (f.bytes.take 8)) 19 17 = 1 → bitsOf (leNat (f.bytes.take 8)) 16 16 = 0 → (f.bytes.headD 0) = x.expSeq →
      ∃ t, exec (.flitReceive p f) s = .next t ∧ (t.anyPort p).expSeq = x.expSeq + 1 ∧ (t.anyPort p).nakOut = none ∧
        t.cores = s.cores ∧ t.mem = s.mem) ∧
    (∀ w, x.nakOut = some w → w + 512 ≤ s.cyc.toNat → ∃ t, exec (.nakRepeat p) s = .next t ∧ (t.anyPort p).naktx = x.naktx + 1 ∧
      (t.anyPort p).nakOut = some s.cyc.toNat ∧ (t.anyPort p).nakDue = true ∧ t.cores = s.cores ∧ t.mem = s.mem) ∧
    (∃ t, exec (.replayWindowEnd p) s = .next t ∧ (t.anyPort p).winrpl = 0 ∧ (t.anyPort p).rply = x.rply ∧ t.cores = s.cores ∧ t.mem = s.mem) ∧
    (x.train = true → ∃ t, exec (.trainingComplete p true) s = .next t ∧ (t.anyPort p).up = true ∧ (t.anyPort p).train = false ∧
      (t.anyPort p).replay = x.replay ∧ (t.anyPort p).again = x.replay.map (fun f => f.1) ∧ t.cores = s.cores ∧ t.mem = s.mem) ∧
    (x.train = true → p.val < 24 → 2 ≤ x.rate.toNat → ∃ t, exec (.trainingComplete p false) s = .next t ∧ (t.anyPort p).up = false ∧
      (t.anyPort p).held = true ∧ (t.anyPort p).replay = [] ∧ SameRegisters s t) ∧
    (p.val < 24 → x.ctl.getLsbD 40 = true → ∃ t, exec (.pctlRetrain p) s = .next t ∧ (t.anyPort p).train = true ∧ (t.anyPort p).held = false ∧
      (t.anyPort p).rate = BitVec.ofNat 2 (min (x.ctl.toNat / 2 % 4) 2) ∧ (t.anyPort p).replay = x.replay ∧ t.cores = s.cores ∧ t.mem = s.mem)
/-- Requests of other packages join the queue of their home with their tag: RD as a read, WR as a write of the bytes it names,
ATOM as an atomic or a lock operation; RSP completes the access of its tag. Tile queues: the row that is next in its queue
lands in its endpoint; TQACK removes the rows that have landed, and what a peer has freed is credit, sent or kept; TQCLOSE
lets a new peer's rows in. -/
def Obligations.MessagesOfPeers : Prop :=
  (∀ (s : State) (m : Msg),
      (∃ x, exec (.rd m) s = .next { s with accs := s.accs ++ [x], nextId := s.nextId + 1 } ∧ x.op = .read (16 * (m.a.toNat / 2 ^ 16 % 16)) ∧
        x.pa = m.b.toNat ∧ x.who = .link m.src.toNat (m.a.toNat % 2 ^ 16) ∧ x.done = false) ∧
      (m.a.toNat / 2 ^ 16 % 32 = 0 → m.data.length = 8 → ∃ x, exec (.wr m) s = .next { s with accs := s.accs ++ [x], nextId := s.nextId + 1 } ∧
        x.op = .write (BitVec.ofNat 1024 (msgBits m * 2 ^ (8 * (m.b.toNat % 128)))) (BitVec.ofNat 128 ((2 ^ 128 - 1) * 2 ^ (m.b.toNat % 128))) ∧
        x.pa = m.b.toNat / 128 * 128 ∧ x.who = .link m.src.toNat (m.a.toNat % 2 ^ 16) ∧ x.done = false) ∧
      (∃ x, exec (.atom m) s = .next { s with accs := s.accs ++ [x], nextId := s.nextId + 1 } ∧ x.pa = m.b.toNat ∧
        x.who = .link m.src.toNat (m.a.toNat % 2 ^ 16) ∧ x.done = false ∧
        (m.a.toNat / 2 ^ 16 % 32 < 0xB → x.op = .aop (m.a.toNat / 2 ^ 16 % 16) (BitVec.ofNat 64 (msgBits m)) (BitVec.ofNat 64 (msgBits m / 2 ^ 64)) true) ∧
        (0xB ≤ m.a.toNat / 2 ^ 16 % 32 → m.a.toNat / 2 ^ 16 % 32 < 16 → x.op = .rwl (m.a.toNat / 2 ^ 16 % 16 - 0xB) (decide (msgBits m % 2 = 1)))) ∧
      (∀ a, s.accs.find? (fun a => !a.done && !s.ownAddr a.pa && a.id % 2 ^ 16 = m.a.toNat % 2 ^ 16) = some a → m.a.getLsbD 16 = false →
        ∃ t, exec (.rsp m) s = .next t ∧ { a with done := true, result := BitVec.ofNat 1024 (msgBits m), poison := false } ∈ t.accs ∧
          t.cores = s.cores ∧ t.mem = s.mem)) ∧
  (∀ (s : State) (m : Msg),
      let k := coreOf (m.a.toNat % 2 ^ 7)
      let q := m.a.toNat / 2 ^ 7 % 8
      let e := (s.core k).tqAt q
      (e.bound = true → e.outbound = false → bwDev e.bind = m.src.toNat → bwPair e.bind = false → e.stale = none → m.b.toNat % 2 ^ 16 = e.moved % 2 ^ 16 →
        ∃ t r, exec (.tqrow m) s = .next t ∧ ((t.core k).tqAt q).rows = e.rows ++ [(s.cyc.toNat, r)] ∧
          (∀ i, i < m.data.length → i < 8 → lane 128 r i = (m.data.getD i 0).toNat) ∧ ((t.core k).tqAt q).moved = e.moved + 1 ∧
          (∀ j, j ≠ k → t.core j = s.core j) ∧ SameRegisters s t ∧ SameMemory s t) ∧
      (∀ w, e.stale = some w → bwDev w = m.src.toNat → ∃ t, exec (.tqclose m) s = .next t ∧ ((t.core k).tqAt q).stale = none ∧
        (∀ j, j ≠ k → t.core j = s.core j) ∧ SameRegisters s t ∧ SameMemory s t) ∧
      (let landed := m.a.toNat / 2 ^ 10 % 2 ^ 10
       let freed := m.a.toNat / 2 ^ 20 % 2 ^ 10
       e.bound = true → e.outbound = true → bwDev e.bind = m.src.toNat → e.acked + landed ≤ e.moved → e.freed ≠ 0 → e.freed ≤ 128 →
        e.credit + freed ≤ e.freed →
        ∃ t, exec (.tqack m) s = .next t ∧ ((t.core k).tqAt q).rows = e.rows.drop landed ∧ ((t.core k).tqAt q).acked = e.acked + landed ∧
          ((t.core k).tqAt q).moved + ((t.core k).tqAt q).credit = e.moved + e.credit + freed ∧ (∀ j, j ≠ k → t.core j = s.core j) ∧
          SameRegisters s t ∧ SameMemory s t))
/-- REALIGN: it begins once every core of the context stands at it, and a job of one package goes on 64 cycles later; a
package below exchanges times and reports; CYC takes the offset at its step, what is on its way keeping its distance, and the
cores go on together, with SPANDLY as the step gave it; a late exchange stops them with 0x72. SLUICE: the root keeps F and L of every package that it hears; a package takes L as the root gives it,
and when that is too late to start in time its starts are counted so that the earliest comes 32 cycles after the message (R407). -/
def Obligations.RealignAndSluice : Prop :=
  (∀ (s : State), let r := s.realign
      (r.active = false → r.failed = false → r.aligned = false → s.ctxCores ≠ [] → (∀ k ∈ s.ctxCores, (s.core k).prim.run = .realign) → s.jobDevs = [] →
        ∃ t, exec .realignBegin s = .next t ∧ t.realign.active = true ∧ t.realign.ctx = s.curCtx ∧ t.realign.resume = some (s.cyc.toNat + 64) ∧ t.cores = s.cores ∧ t.mem = s.mem) ∧
      (∀ p, s.timingPort = some p → s.exchangeDue = true → ∃ t x, exec .timeExchangeSend s = .next t ∧ t.realign.sentAt = some s.cyc.toNat ∧
        (t.port p).outMsgs = (s.port p).outMsgs ++ [(7, x)] ∧ x.a = 0 ∧ x.data = [BitVec.ofNat 128 s.cyc.toNat] ∧ t.cores = s.cores ∧ t.mem = s.mem) ∧
      (∀ m p, s.portFor m.src.toNat 0 = some p → ∃ t x, exec (.timeRequest m) s = .next t ∧ (t.port p).outMsgs = (s.port p).outMsgs ++ [(7, x)] ∧
        x.a = 1 ∧ x.data = [BitVec.ofNat 128 (s.cyc.toNat + s.cyc.toNat * 2 ^ 64)] ∧ t.cores = s.cores ∧ t.mem = s.mem) ∧
      (∀ m t1 p, r.sentAt = some t1 → s.timingPort = some p → r.pairs.length < 15 →
        let t2 : Int := (msgBits m % 2 ^ 64 : Nat)
        let t3 : Int := (msgBits m / 2 ^ 64 : Nat)
        let t4 : Int := s.cyc.toNat
        exec (.timeReply m) s = .next { s with realign := { r with
          pairs := r.pairs ++ [(((t2 - t1) - (t4 - t3)) / 2, ((t2 - t1) + (t4 - t3)) / 2)], sentAt := none } }) ∧
      (∀ m, ∃ t, exec (.timeReport m) s = .next t ∧ t.realign.reports = r.reports.filter (fun x => x.1 ≠ m.src.toNat) ++ [(m.src.toNat,
          (BitVec.ofNat 64 (msgBits m)).toInt, bitsOf (msgBits m) 127 80 + bitsOf (msgBits m) 79 64 + 24)] ∧ t.cores = s.cores ∧ t.mem = s.mem) ∧
      (∀ m, r.active = true → ∃ t, exec (.timeStep m) s = .next t ∧ t.realign.stepAt = some (msgBits m % 2 ^ 64) ∧
        t.realign.dly = BitVec.ofNat 16 (msgBits m / 2 ^ 64) ∧ t.spandly = s.spandly ∧ t.cores = s.cores ∧ t.mem = s.mem) ∧
      (r.stepAt = some s.cyc.toNat → exec .cycStep s = .next { s.shiftWall r.offset with
          cyc := s.cyc + BitVec.ofInt 64 r.offset
          realign := { r with stepAt := none, resume := some ((s.cyc + BitVec.ofInt 64 r.offset).toNat + 64) } }) ∧
      (∀ w, r.resume = some w → w ≤ s.cyc.toNat → r.ctx = s.curCtx → ∃ t, exec .realignComplete s = .next t ∧ t.realign.aligned = true ∧
        t.spandly = r.dly ∧ t.realign.active = false ∧
        (∀ k ∈ s.ctxCores, (s.core k).prim.run = .realign → (t.core k).prim.run = .running) ∧ SameRegisters s t ∧ SameMemory s t) ∧
      (s.realignLate = true → r.ctx = s.curCtx → ∃ t, exec .realignTimeout s = .next t ∧ t.realign.active = false ∧
        (∀ k ∈ s.ctxCores, (s.core k).prim.run = .realign → (s.core k).prim.trap.pend = false → (t.core k).prim.run = .trapped ∧
          (t.core k).prim.trap.cause = 0x72) ∧ SameRegisters s t ∧ SameMemory s t)) ∧
  (∀ (s : State) (m : Msg) (b : Boundary), s.bound = some b → b.seq % 2 ^ 28 = m.a.toNat / 16 →
      (s.spans b = true → ∃ t b', exec (.sluiceArrival m) s = .next t ∧ t.bound = some b' ∧
        (m.src.toNat, msgBits m % 2 ^ 64, msgBits m / 2 ^ 64) ∈ b'.spanFL ∧ t.cores = s.cores ∧ t.mem = s.mem) ∧
      (s.spans b = false → ∃ t, exec (.sluiceArrival m) s = .next t ∧ t.bound = some { b with hold := 0x62 } ∧ t.cores = s.cores) ∧
      (b.lAt = none → ∃ t b', exec (.sluiceStart m) s = .next t ∧ t.bound = some b' ∧ b'.lAt = some (msgBits m % 2 ^ 64) ∧ t.cores = s.cores ∧
        ∀ d, s.latched = some d →
          let least := (leastOf (d.cores.map fun c => c.delay)).getD d.mindelay
          b'.went = if msgBits m % 2 ^ 64 + least < s.cyc.toNat + 32 then some (s.cyc.toNat + 32 - least) else b.went))

/-! ### Audit, recovery and the host (R464 to R503) -/

/-- Audit and recovery: a block whose image is copied is marked so, and once its slice has ended it is written to the ring, where
it fits (its layout is the model's, log 42); a block that is written is replayed on another core of the package; equal
signatures pass, and a third run that does not settle it is reported with 0x78 and the block's address; a recovery point is requested by RCVMARK and
takes effect as the boundary reaches its L, with which the exposed writes count afresh; and once
nothing of a job that fell back is left its record goes to the host. -/
def Obligations.AuditAndRecovery : Prop :=
  ∀ (s : State),
    (∀ k b, (s.audblks.map fun x => x.num).Nodup → b ∈ s.audblks → b.k = k → b.ended = false →
      ∃ t, exec (.auditLogCopy k) s = .next t ∧ { b with image := true } ∈ t.audblks ∧ t.cores = s.cores) ∧
    (∀ k b, (s.audblks.map fun x => x.num).Nodup → s.audblks.filter (fun x => decide (x.k = k)) = [b] → b.ended = true → b.spot = none → Memory.wf b.log.sp = true →
      let ring := s.audbase.toNat % 2 ^ 8 * 2 ^ 24
      let off := s.audHead % ring
      let base := s.audbase.toNat / 2 ^ 24 % 2 ^ 28 * 2 ^ 24
      s.audUsed + b.size ≤ ring → off + b.size ≤ ring → s.memOk →
      ∃ t, exec (.auditLogCopy k) s = .next t ∧ { b with image := true, spot := some (s.audHead, base + off) } ∈ t.audblks ∧
        t.audHead = s.audHead + b.size ∧ t.cores = s.cores ∧
        (∀ a, a < b.size → Memory.get t.mem (base + off + a) = Memory.get b.bytes a) ∧
        (∀ a, a < base + off ∨ base + off + b.size ≤ a → Memory.get t.mem a = Memory.get s.mem a)) ∧
    (∀ n b k, s.audblks.find? (fun b => b.num = n) = some b → s.slotAudit = true → b.spot.isSome = true → b.runs = [] →
      s.replayCore (b.k.val / 8) 16 (b.k.val / 8 + 1 + s.audctl.toNat / 2 ^ 8 % 16) = some k →
      ∃ t v, exec (.auditReplay n) s = .next t ∧ { b with runs := [(k, v)] } ∈ t.audblks ∧ clusterOf k ≠ clusterOf b.k ∧ t.cores = s.cores ∧ t.mem = s.mem) ∧
    (∀ n b r, s.audblks.find? (fun b => b.num = n) = some b → b.runs = [r] → r.2 = b.sig → ∃ t, exec (.auditCompare n) s = .next t ∧
      t.audpass = s.audpass + 1 ∧ t.audmis = s.audmis ∧ (∀ x ∈ t.audblks, x.num ≠ n) ∧ t.cores = s.cores) ∧
    (∀ n b r r', s.audblks.find? (fun b => b.num = n) = some b → b.runs = [r, r'] → ∃ t, exec (.auditCompare n) s = .next t ∧
      t.audmis = s.audmis + 1 ∧ t.audpass = s.audpass ∧ (∃ m ∈ t.fwbox, m.cause = 0x78 ∧ ∀ q, b.spot = some q → m.info = BitVec.ofNat 64 q.2) ∧ (∀ x ∈ t.audblks, x.num ≠ n) ∧ t.cores = s.cores) ∧
    (∀ v, exec (.rcvmarkWrite v) s = .next { s with rcvReq := v, rcvPend := true }) ∧
    (∀ b l, s.bound = some b → ∃ b', (s.reachLast l).bound = some b' ∧ b'.lAt = some l ∧ (s.reachLast l).cores = s.cores ∧
      (s.rcvPend = true → (s.reachLast l).rcvId = s.rcvReq ∧ (s.reachLast l).rcvCyc = BitVec.ofNat 64 l ∧ (s.reachLast l).rcvPend = false ∧
        (s.reachLast l).exposed = [] ∧ (s.reachLast l).hostRng = []) ∧
      (s.rcvPend = false → (s.reachLast l).rcvId = s.rcvId ∧ (s.reachLast l).rcvCyc = s.rcvCyc ∧ (s.reachLast l).exposed = s.exposed)) ∧
    (∀ f, s.falls.find? (fun f => s.quiet f.ctx) = some f → ∃ t, exec .recoveryRecordWrite s = .next t ∧ (∀ g ∈ t.falls, g.ctx ≠ f.ctx) ∧
      t.d2h.length = s.d2h.length + 1 ∧ t.exposed = s.exposed ∧ t.cores = s.cores)
/-- Host accesses of memory within one row: a read and an atomic go to their home in the host's name, a write with the bytes
that the host gives and under those byte enables; in minimal mode the window answers all ones, and an atomic beyond the
window is an Unsupported Request. Registers and translations: a
register write stores under its map's access code and sets off its actions, a number from 0x800 on reaching the companion's copy
of a banked register and no other, and a write of UVCTL lets a withdrawn offset apply again; TLBINV drops every cached translation of its context that meets its range. -/
def Obligations.HostAccesses : Prop :=
  (∀ (s : State) (off len : Nat),
      let pa := s.hw1base.toNat + off
      (s.startMin = false → off + len ≤ 2 ^ 36 → 0 < len → pa % 128 + len ≤ 128 → s.unbacked pa = false →
        (∃ t x, exec (.hostRead off len) s = .next t ∧ t.accs = s.accs ++ [x] ∧ x.op = .read len ∧ x.pa = pa ∧ x.pos = off ∧ x.who = .host ∧
          t.cores = s.cores ∧ t.mem = s.mem) ∧
        (∀ data, data.length = len → ∃ t x, exec (.hostWrite off data) s = .next t ∧ t.accs = s.accs ++ [x] ∧ x.who = .host ∧
          x.op = .write (BitVec.ofNat 1024 (leWord data * 2 ^ (8 * (pa % 128)))) (BitVec.ofNat 128 ((2 ^ len - 1) * 2 ^ (pa % 128))) ∧
          x.pa = pa - pa % 128 ∧ t.cores = s.cores ∧ t.mem = s.mem)) ∧
      (∀ i op wide v cmp, (i = .hostFetchadd off wide v ∧ op = 0 ∧ cmp = 0 ∨ i = .hostSwap off wide v ∧ op = 1 ∧ cmp = 0 ∨ i = .hostCas off wide cmp v ∧ op = 2) →
        s.startMin = false →
        (2 ^ 36 ≤ off → exec i s = .next { s with hostUr := s.hostUr ++ [off] }) ∧
        (off < 2 ^ 36 → s.unbacked pa = false → ∃ t x, exec i s = .next t ∧ t.accs = s.accs ++ [x] ∧
          x.op = .hostAtomic op wide v cmp ∧ x.pa = pa ∧ x.pos = off ∧ x.who = .host ∧ t.cores = s.cores ∧ t.mem = s.mem)) ∧
      (s.startMin = true → exec (.hostRead off len) s = .next { s with hostCpl := s.hostCpl ++ [(off, BitVec.allOnes 1024, false)] } ∧
        ∀ data, exec (.hostWrite off data) s = .next s)) ∧
  ((∀ (s : State) (k : CoreId) (comp : Bool) (n : BitVec 12) (v : Word), 0x800 ≤ n.toNat →
      (bankedReg (n.toNat - 0x800) = false → exec (.registerWrite k comp n v) s = .next s) ∧
      (bankedReg (n.toNat - 0x800) = true → exec (.registerWrite k comp n v) s = exec (.registerWrite k true (n - 0x800) v) s)) ∧
    (∀ (s : State) (k : CoreId) (comp : Bool) (n : BitVec 12) (v : Word), n.toNat < 0x800 →
      (cAccess n.toNat = none → exec (.registerWrite k comp n v) s = .next s) ∧
      ((cAccess n.toNat).isSome = true → actionOnly n.toNat = false → n ≠ 0x224 →
        exec (.registerWrite k comp n v) s = .next { s.cwrite k comp n.toNat v with agenda := (s.cwrite k comp n.toNat v).agenda ++ regActions k comp n.toNat v }) ∧
      (n = 0x224 → exec (.registerWrite k comp n v) s = .next { s.cwrite k comp 0x224 v with
        health := (s.cwrite k comp 0x224 v).health.putUvctl s.health.uvctl true
        agenda := (s.cwrite k comp 0x224 v).agenda ++ regActions k comp 0x224 v }) ∧
      ((cAccess n.toNat).isSome = true → actionOnly n.toNat = true →
        exec (.registerWrite k comp n v) s = .next { s with agenda := s.agenda ++ regActions k comp n.toNat v })) ∧
    (∀ (s : State) (v : Word), s.tlbBusy = false → exec (.tlbinvWrite v) s = .next { s with tlbinv := keep v 59 0, tlbBusy := true }) ∧
    (∀ (s : State), s.tlbBusy = true → ∃ t, exec .tlbinvDone s = .next t ∧ t.tlbBusy = false ∧ SameRegisters s t ∧ SameMemory s t ∧
      (let n := s.tlbinv.toNat % 2 ^ 16
       let lo := s.tlbinv.toNat / 2 ^ 16 % 2 ^ 36 * 2 ^ 16
       ∀ k : CoreId, (s.core k).ctx = some (s.tlbinv.toNat / 2 ^ 52 % 2 ^ 8) →
        ∀ e ∈ (t.core k).tlb, n ≠ 0 ∧ (e.va + 2 ^ e.size ≤ lo ∨ lo + n * 65536 ≤ e.va))))
/-- Mailbox commands: each is answered in its slot, with SEQ as the last word and a status. LOAD outside step 2 of a start is
refused (5); an image that passes its checks is the one that runs. SEED takes the next number; ABORT of a context that does
not exist is refused (0x10). Start-up: GO, a fundamental reset and power put the device in the state of a reset, at step 1,
with the fuses and the bytes of memory kept, which step 6 of the start makes zero but for the host's own, and FAILS kept, or cleared
by power and CLR; a fundamental reset begins a start from minimal mode too (the model's choice, log 4); a timeout is a failure with cause 9;
the third failure in a row enters minimal mode. The loss of power leaves no core's state and no device memory. -/
def Obligations.MailboxAndStartUp : Prop :=
  (∀ (s : State) (b : MailSlot),
      let done := fun (t : State) (st : Nat) => t.slotWord b 256 = s.slotWord b 0 ∧ t.slotWord b 257 = BitVec.ofNat 64 st
      (s.startMin = false → s.startStep ≠ 2 → ∃ t, exec (.load b) s = .next t ∧ done t 5 ∧ t.image = s.image ∧ t.cores = s.cores ∧ t.mem = s.mem) ∧
      (s.startMin = false → s.startStep = 2 → ∃ t, exec (.load b) s = .next t ∧
        (let pa := s.devid.toNat % 2 ^ 10 * 2 ^ 42 + 2 ^ 41 + (s.slotWord b 2).toNat
         let n := (s.slotWord b 3).toNat
         match imageCheck s.fused (Memory.getList s.mem pa n) (s.poisoned pa n || decide (2 ^ 41 < (s.slotWord b 2).toNat + n)) with
         | .ok (svn, false, dig) => done t 0 ∧ t.image = dig ∧ t.svn = svn ∧ t.fused = s.fused ∧ t.startStep = 3 ∧ t.mem = s.mem
         | .ok (svn, true, dig) => t.image = dig ∧ t.svn = svn ∧ (t.fused = s.fused ∨ t.fused = svn) ∧ t.startStep = 3 ∧ t.mem = s.mem
         | .error c => (c = 3 → done t 3 ∧ t.startStep = 2 ∧ t.cores = s.cores ∧ t.mem = s.mem) ∧
             (c ≠ 3 → t.startWhy = BitVec.ofNat 8 (c + 1) ∧ t.startFails.toNat = min (s.startFails.toNat + 1) 3))) ∧
      (∃ t, exec (.attest b) s = .next t ∧ done t 0 ∧ t.cores = s.cores ∧ t.mem = s.mem) ∧
      (s.seedOn = true → ∃ t, exec (.seed b) s = .next t ∧ done t 0 ∧ t.slotWord b 258 = s.seedcnt ∧ t.seedcnt = s.seedcnt + 1 ∧ t.cores = s.cores ∧ t.mem = s.mem) ∧
      (s.seedOn = false → exec (.seed b) s = .next { s with seedHost := s.seedHost ++ [b] }) ∧
      ((∀ x ∈ s.ctxs, x.num ≠ (s.slotWord b 2).toNat) → ∃ t, exec (.abort b) s = .next t ∧ done t 0x10 ∧ t.cores = s.cores ∧ t.mem = s.mem) ∧
      (∀ x, s.ctxs.find? (fun x => x.num = (s.slotWord b 2).toNat) = some x → x.jobRun = true → (∀ f ∈ s.falls, f.ctx ≠ some (s.slotWord b 2).toNat) →
        ∃ t, exec (.abort b) s = .next t ∧ done t 0 ∧ (∃ f ∈ t.falls, f.ctx = some (s.slotWord b 2).toNat))) ∧
  (∀ (s : State), let hostMem := s.mem.filter fun c => isHostAddr c.1
      let fresh := fun k : CoreId => { Core.reset with sp := (s.core k).sp, spBad := (s.core k).spBad }
      (∀ i, (i = .startGo ∨ i = .fundamentalReset) → s.startMin = false → ∃ t, exec i s = .next t ∧ t.startStep = 1 ∧ t.startUp = false ∧
        t.startFails = s.startFails ∧ t.startWhy = s.startWhy ∧ t.fused = s.fused ∧ (∀ k, t.core k = fresh k) ∧ t.mem = s.mem ∧ t.cyc = 0) ∧
      (s.startMin = true → ∃ t, exec .fundamentalReset s = .next t ∧ t.startStep = 1 ∧ t.startMin = false ∧ t.startFails = s.startFails) ∧
      (s.startUp = false → s.startMin = false → s.startStep = 6 → (s.startOn true).startStep = 7 ∧ (s.startOn true).mem = hostMem ∧
        ∀ k, ((s.startOn true).core k).sp = [] ∧ ((s.startOn true).core k).spBad = []) ∧
      (s.startMin = true → exec .startGo s = .next s) ∧
      (exec .startClr s = .next { s with startFails := 0, startMin := false }) ∧
      (∃ t, exec .powerOn s = .next t ∧ t.power = true ∧ t.startFails = 0 ∧ t.startStep = 1 ∧ t.fused = s.fused ∧ (∀ k, t.core k = fresh k) ∧ t.mem = s.mem) ∧
      (∃ t, exec .powerLoss s = .next t ∧ t.power = false ∧ t.fused = s.fused ∧ t.cores = State.reset.cores ∧ t.mem = hostMem) ∧
      (s.startUp = false → s.startMin = false → ∃ t, exec .startTimeout s = .next t ∧ t.startWhy = 9 ∧
        t.startFails.toNat = min (s.startFails.toNat + 1) 3 ∧ (t.startMin = true ↔ 2 ≤ s.startFails.toNat) ∧ t.mem = s.mem) ∧
      (∃ t, exec .entropyHealthFail s = .next t ∧ t.seedOn = false ∧ t.cores = s.cores) ∧
      (∃ t, exec .entropyPass s = .next t ∧ t.seedOn = true ∧ t.seedHost = [] ∧ SameRegisters s t ∧ SameMemory s t))

/-! ### Steps, reset and invariants -/

/-- A step runs the decoded instruction. With nothing on the agenda, the stream whose turn it is, if it stands ready at a bundle whose
one slot decodes to i, runs exec of i in the state in which the bundle has begun, and then stands at the next bundle. A machine
step of the agenda that is an instruction is exec of it. Without power a step takes an event from outside, which only the return
of power can be. -/
def Obligations.StepRunsBundle : Prop :=
  (∀ (s : State) (k : CoreId) (comp : Bool) (r : List (CoreId × Bool)) (b : BitVec 256) (i : Instr) (n : Nat),
    let q := State.focusOn { s with turn := r } k comp
    s.agenda = [] → s.power = true → s.turn = (k, comp) :: r → s.standing k comp = true → s.bundleNow k comp = .ok (b, none) →
    n < 8 → (∀ m, m < 8 → m ≠ n → slotWord b m = 0) → slotWord b n ≠ 0 → decodeSlot n (slotWord b n) = .ok i →
    q.slotWaits i = false → (comp = false ∨ q.yields k b = false) → q.bundleFaults b = [] →
    let launches := match i with | .lnch _ _ _ => true | _ => false
    step s = match exec i (((q.auditEnd k).auditImage launches).modMe (·.beginBundle (bundleHold [i]))) with
      | .next t => .next (t.modMe (·.pass (s.strm k comp).pc))
      | .fault f => .fault f
      | .refused x => .refused x) ∧
  (∀ (s : State) (e : Event) (i : Instr) (r : List Event), s.agenda = e :: r → e.instr = some i → step s = exec i { s with agenda := r }) ∧
  (∀ (s : State), s.agenda = [] → s.power = false →
    ∃ es : List Event, (∀ e ∈ es, e = .powerOn) ∧ step s = .next { s with agenda := es, fresh := s.fresh + 1 })
/-- What reset leaves, as the spec says: wall cycle 0, no stream running, no core frozen, every buffer owned by its home, both phase
banks empty, no translation cached, memory with nothing written to it. -/
def Obligations.ResetState : Prop :=
  State.reset.cyc = 0 ∧ State.reset.mem = [] ∧ State.reset.formOk ∧ State.reset.bankA.st = .empty ∧ State.reset.bankB.st = .empty ∧
  (∀ (k : CoreId) (comp : Bool), (State.reset.strm k comp).run = .idle ∧ (State.reset.strm k comp).trap.pend = false ∧
    (State.reset.strm k comp).pend = []) ∧
  (∀ k : CoreId, (State.reset.core k).frozen = false ∧ (State.reset.core k).tlb = [] ∧ (State.reset.core k).frzmax = 0x10_0000) ∧
  (∀ (k : CoreId) (i : Nat), i < 512 → State.reset.buf k i = .owned (i / 64))
/-- Every step keeps device memory, the scratchpad of every core and every scratchpad that waits with a switched-out context in
canonical form, so that equal memories are equal data. -/
def Obligations.StepKeepsMemoryForm : Prop :=
  ∀ (s t : State), s.formOk → step s = .next t → t.formOk
/-- Every instruction has a next state in every state, and so has every step: the machine stops in no state. -/
def Obligations.StepsComplete : Prop :=
  (∀ (i : Instr) (s : State), ∃ t, exec i s = .next t) ∧ ∀ s : State, ∃ t, step s = .next t
end

