-- ==== Sys2Proof/Laws/Decode.lean ====
section
/-!
SUPPORT. Laws/Decode.lean: what a field of an encoded word reads as, with which decoding undoes encoding.
-/
namespace Sys2Proof

/-- A field reads as the value whose bits stand there. -/
theorem fld_eq (lo n x : Nat) (v : BitVec n) (h : x % 2 ^ 32 / 2 ^ lo % 2 ^ n = v.toNat) : fld lo n (BitVec.ofNat 32 x) = v := by
  apply BitVec.eq_of_toNat_eq
  simp only [fld, BitVec.toNat_ofNat]
  exact h

end Sys2Proof
end

