-- ==== Sys2Proof/Laws/Memory.lean ====
section
/-!
SUPPORT. Laws/Memory.lean: a byte read after a write, and every memory operation keeps the canonical form.
-/
namespace Sys2Proof.Machine

theorem Memory.wfFrom_mono : ∀ (m : Memory) (lo lo' : Nat), lo' ≤ lo → Memory.wfFrom lo m = true → Memory.wfFrom lo' m = true
  | [], _, _, _, _ => rfl
  | (a, b) :: r, lo, lo', h, w => by
    simp only [Memory.wfFrom, Bool.and_eq_true, decide_eq_true_eq] at w ⊢
    exact ⟨⟨by omega, w.1.2⟩, w.2⟩
theorem Memory.get_below : ∀ (m : Memory) (lo x : Nat), Memory.wfFrom lo m = true → x < lo → Memory.get m x = 0
  | [], _, _, _, _ => rfl
  | (a, b) :: r, lo, x, w, h => by
    simp only [Memory.wfFrom, Bool.and_eq_true, decide_eq_true_eq] at w
    simp only [Memory.get]
    rw [if_neg (by omega), if_pos (by omega)]
/-- A byte reads as it was written. -/
theorem Memory.get_put_same : ∀ (m : Memory) (lo x : Nat) (v : Byte), Memory.wfFrom lo m = true →
    Memory.get (Memory.put m x v) x = v
  | [], _, x, v, _ => by
    simp only [Memory.put]
    split <;> simp_all [Memory.get]
  | (a, b) :: r, lo, x, v, w => by
    have w' := w
    simp only [Memory.wfFrom, Bool.and_eq_true, decide_eq_true_eq] at w
    simp only [Memory.put]
    split
    · next h =>
      split
      · next hv => rw [hv]; exact Memory.get_below r (a + 1) x w.2 (by omega)
      · simp [Memory.get]
    · split
      · split
        · next hv => simp only [Memory.get]; rw [if_neg (by omega), if_pos (by omega), hv]
        · simp [Memory.get]
      · simp only [Memory.get]
        rw [if_neg (by omega), if_neg (by omega)]
        exact Memory.get_put_same r (a + 1) x v w.2
/-- A write leaves every other byte alone. -/
theorem Memory.get_put_other : ∀ (m : Memory) (lo x y : Nat) (v : Byte), Memory.wfFrom lo m = true → x ≠ y →
    Memory.get (Memory.put m x v) y = Memory.get m y
  | [], _, x, y, v, _, h => by
    simp only [Memory.put]
    split
    · rfl
    · simp only [Memory.get]; rw [if_neg h]; split <;> rfl
  | (a, b) :: r, lo, x, y, v, w, h => by
    simp only [Memory.wfFrom, Bool.and_eq_true, decide_eq_true_eq] at w
    simp only [Memory.put]
    split
    · next hx =>
      split
      · simp only [Memory.get]
        rw [if_neg (by omega)]
        split
        · exact Memory.get_below r (a + 1) y w.2 (by omega)
        · rfl
      · subst hx
        simp only [Memory.get]
        rw [if_neg h, if_neg h]
    · split
      · split
        · rfl
        · simp only [Memory.get]; rw [if_neg h]
          split
          · rw [if_neg (by omega), if_pos (by omega)]
          · rfl
      · simp only [Memory.get]
        rw [Memory.get_put_other r (a + 1) x y v w.2 h]
theorem Memory.wfFrom_put : ∀ (m : Memory) (lo x : Nat) (v : Byte), Memory.wfFrom lo m = true → lo ≤ x →
    Memory.wfFrom lo (Memory.put m x v) = true
  | [], lo, x, v, _, h => by
    simp only [Memory.put]
    split
    · rfl
    · next hv => simp [Memory.wfFrom, h]; exact hv
  | (a, b) :: r, lo, x, v, w, h => by
    have w' := w
    simp only [Memory.wfFrom, Bool.and_eq_true, decide_eq_true_eq] at w
    simp only [Memory.put]
    split
    · next hx =>
      split
      · exact Memory.wfFrom_mono r (a + 1) lo (by omega) w.2
      · next hv => subst hx; simp [Memory.wfFrom, h, w.2]; exact hv
    · split
      · split
        · exact w'
        · next hv =>
          simp only [Memory.wfFrom, Bool.and_eq_true, decide_eq_true_eq]
          exact ⟨⟨h, by simpa using hv⟩, ⟨by omega, w.1.2⟩, w.2⟩
      · simp only [Memory.wfFrom, Bool.and_eq_true, decide_eq_true_eq]
        exact ⟨w.1, Memory.wfFrom_put r (a + 1) x v w.2 (by omega)⟩
/-- A byte write keeps the canonical form. -/
theorem Memory.wf_put (m : Memory) (x : Nat) (v : Byte) (w : m.wf = true) : Memory.wf (m.put x v) = true :=
  Memory.wfFrom_put m 0 x v w (Nat.zero_le x)
/-- A masked write keeps the canonical form. -/
theorem Memory.wf_putN : ∀ (n : Nat) (m : Memory) (a v en : Nat), m.wf = true → Memory.wf (m.putN a n v en) = true
  | 0, _, _, _, _, w => w
  | n + 1, m, a, v, en, w => by
    simp only [Memory.putN]
    apply Memory.wf_putN n
    split
    · exact Memory.wf_put m a _ w
    · exact w
/-- A write of a list of bytes keeps the canonical form. -/
theorem Memory.wf_putList : ∀ (bs : List Byte) (m : Memory) (a : Nat), m.wf = true → Memory.wf (m.putList a bs) = true
  | [], _, _, w => w
  | b :: r, m, a, w => Memory.wf_putList r (m.put a b) (a + 1) (Memory.wf_put m a b w)
theorem Memory.get_put (m : Memory) (x y : Nat) (v : Byte) (w : m.wf = true) :
    (m.put x v).get y = if x = y then v else m.get y := by
  split
  · next h => subst h; exact Memory.get_put_same m 0 x v w
  · next h => exact Memory.get_put_other m 0 x y v w h
/-- A masked write leaves the bytes outside it alone. -/
theorem Memory.get_putN_other : ∀ (n : Nat) (m : Memory) (a v en y : Nat), m.wf = true → (y < a ∨ a + n ≤ y) →
    (m.putN a n v en).get y = m.get y
  | 0, _, _, _, _, _, _, _ => rfl
  | n + 1, m, a, v, en, y, w, h => by
    simp only [Memory.putN]
    split
    · rw [Memory.get_putN_other n _ (a + 1) _ _ y (Memory.wf_put m a _ w) (by omega), Memory.get_put _ _ _ _ w, if_neg (by omega)]
    · exact Memory.get_putN_other n m (a + 1) _ _ y w (by omega)
/-- Byte i of a masked write reads as written where the mask has bit i, and as before elsewhere. -/
theorem Memory.get_putN : ∀ (n : Nat) (m : Memory) (a v en i : Nat), m.wf = true → i < n →
    (m.putN a n v en).get (a + i) = if en / 2 ^ i % 2 = 1 then BitVec.ofNat 8 (v / 256 ^ i) else m.get (a + i)
  | 0, _, _, _, _, _, _, h => by omega
  | n + 1, m, a, v, en, 0, w, _ => by
    simp only [Memory.putN, Nat.add_zero, Nat.pow_zero, Nat.div_one]
    split
    · rw [Memory.get_putN_other n _ (a + 1) _ _ a (Memory.wf_put m a _ w) (by omega), Memory.get_put _ _ _ _ w, if_pos rfl]
    · exact Memory.get_putN_other n m (a + 1) _ _ a w (by omega)
  | n + 1, m, a, v, en, i + 1, w, h => by
    have e1 : en / 2 ^ (i + 1) = en / 2 / 2 ^ i := by rw [Nat.div_div_eq_div_mul, Nat.pow_succ, Nat.mul_comm]
    have e2 : v / 256 ^ (i + 1) = v / 256 / 256 ^ i := by rw [Nat.div_div_eq_div_mul, Nat.pow_succ, Nat.mul_comm]
    have e3 : a + (i + 1) = a + 1 + i := by omega
    rw [e1, e2, e3]
    simp only [Memory.putN]
    split
    · rw [Memory.get_putN n _ (a + 1) _ _ i (Memory.wf_put m a _ w) (by omega), Memory.get_put _ _ _ _ w,
        if_neg (show ¬a = a + 1 + i by omega)]
    · exact Memory.get_putN n m (a + 1) _ _ i w (by omega)
/-- Two memories in canonical form that read alike are the same list: one form for one memory. -/
theorem Memory.get_ext : ∀ (m n : Memory) (lo : Nat), Memory.wfFrom lo m = true → Memory.wfFrom lo n = true →
    (∀ x, m.get x = n.get x) → m = n
  | [], [], _, _, _, _ => rfl
  | [], (a, b) :: r, lo, _, w, h => by
    simp only [Memory.wfFrom, Bool.and_eq_true] at w
    have := h a
    simp [Memory.get] at this
    simp [← this] at w
  | (a, b) :: r, [], lo, w, _, h => by
    simp only [Memory.wfFrom, Bool.and_eq_true] at w
    have := h a
    simp [Memory.get] at this
    simp [this] at w
  | (a, b) :: r, (a', b') :: r', lo, w, w', h => by
    simp only [Memory.wfFrom, Bool.and_eq_true, decide_eq_true_eq, bne_iff_ne, ne_eq] at w w'
    have ha : a = a' := by
      rcases Nat.lt_trichotomy a a' with hl | hl | hl
      · have := h a
        simp only [Memory.get] at this
        rw [if_pos trivial, if_neg (by omega), if_pos (by omega)] at this
        exact absurd this w.1.2
      · exact hl
      · have := h a'
        simp only [Memory.get] at this
        rw [if_neg (by omega), if_pos (by omega), if_pos trivial] at this
        exact absurd this.symm w'.1.2
    subst ha
    have hb : b = b' := by simpa [Memory.get] using h a
    subst hb
    have : r = r' := by
      apply Memory.get_ext r r' (a + 1) w.2 w'.2
      intro x
      by_cases hx : x < a + 1
      · rw [Memory.get_below r (a + 1) x w.2 hx, Memory.get_below r' (a + 1) x w'.2 hx]
      · have := h x
        simp only [Memory.get] at this
        rw [if_neg (by omega), if_neg (by omega), if_neg (by omega), if_neg (by omega)] at this
        exact this
    subst this
    rfl
/-- A plain write to device or host memory keeps the canonical form. -/
theorem store_wf (s : State) (pa n data en : Nat) (byHost : Bool) (h : Memory.wf s.mem = true) :
    Memory.wf (s.store pa n data en byHost).mem = true := by
  have := Memory.wf_putN n s.mem pa data en h
  simp only [State.store]
  split
  · exact this
  · split
    · split <;> exact this
    · exact this
theorem putWords_wf : ∀ (ws : List Word) (s : State) (pa : Nat), Memory.wf s.mem = true → Memory.wf (s.putWords pa ws).mem = true
  | [], _, _, h => h
  | w :: r, s, pa, h => putWords_wf r _ _ (store_wf s pa 8 w.toNat 0xFF false h)
theorem spWrite_sp (c : Core) (row : Nat) (d : Row) (en : Mask) (whole : Bool) :
    (c.spWrite row d en whole).sp = Memory.putN c.sp (row * 128) 128 d.toNat en.toNat := by
  simp only [Core.spWrite]
/-- A row write to a scratchpad keeps its canonical form. -/
theorem spWrite_wf (c : Core) (row : Nat) (d : Row) (en : Mask) (whole : Bool) (h : Memory.wf c.sp = true) :
    Memory.wf (c.spWrite row d en whole).sp = true := by
  rw [spWrite_sp]
  apply Memory.wf_putN
  exact h

/-! ### Whole memories pasted (R175) -/

theorem Memory.wfFrom_append : ∀ (m r : Memory) (lo hi : Nat), Memory.wfFrom lo m = true → (∀ c ∈ m, c.1 < hi) → lo ≤ hi →
    Memory.wfFrom hi r = true → Memory.wfFrom lo (m ++ r) = true
  | [], r, lo, hi, _, _, h, w => Memory.wfFrom_mono r hi lo h w
  | (a, b) :: m, r, lo, hi, w, hb, _, wr => by
    simp only [Memory.wfFrom, Bool.and_eq_true, decide_eq_true_eq, List.cons_append] at w ⊢
    have ha : a < hi := hb (a, b) List.mem_cons_self
    exact ⟨w.1, Memory.wfFrom_append m r (a + 1) hi w.2 (fun c hc => hb c (List.mem_cons_of_mem _ hc)) ha wr⟩
theorem Memory.wfFrom_filter (p : Nat × Byte → Bool) : ∀ (m : Memory) (lo : Nat), Memory.wfFrom lo m = true →
    Memory.wfFrom lo (m.filter p) = true
  | [], _, _ => rfl
  | (a, b) :: m, lo, w => by
    simp only [Memory.wfFrom, Bool.and_eq_true, decide_eq_true_eq] at w
    have ih := Memory.wfFrom_filter p m (a + 1) w.2
    rw [List.filter_cons]
    split
    · simp only [Memory.wfFrom, Bool.and_eq_true, decide_eq_true_eq]
      exact ⟨w.1, ih⟩
    · exact Memory.wfFrom_mono _ (a + 1) lo (by omega) ih
/-- A lower bound that every entry meets. -/
theorem Memory.wfFrom_raise : ∀ (m : Memory) (lo hi : Nat), Memory.wfFrom lo m = true → (∀ c ∈ m, hi ≤ c.1) → Memory.wfFrom hi m = true
  | [], _, _, _, _ => rfl
  | (a, b) :: m, lo, hi, w, h => by
    simp only [Memory.wfFrom, Bool.and_eq_true, decide_eq_true_eq] at w ⊢
    exact ⟨⟨h (a, b) List.mem_cons_self, w.1.2⟩, w.2⟩
theorem Memory.wfFrom_shift (n : Nat) : ∀ (m : Memory) (lo : Nat), Memory.wfFrom lo m = true →
    Memory.wfFrom (n + lo) (m.map fun c => (n + c.1, c.2)) = true
  | [], _, _ => rfl
  | (a, b) :: m, lo, w => by
    simp only [Memory.wfFrom, Bool.and_eq_true, decide_eq_true_eq, List.map_cons] at w ⊢
    exact ⟨⟨by omega, w.1.2⟩, Memory.wfFrom_shift n m (a + 1) w.2⟩
theorem Memory.wfFrom_ofVal : ∀ (n a v : Nat), Memory.wfFrom a (Memory.ofVal a n v) = true ∧ ∀ c ∈ Memory.ofVal a n v, c.1 < a + n
  | 0, a, v => by simp [Memory.ofVal, Memory.wfFrom]
  | n + 1, a, v => by
    have ih := Memory.wfFrom_ofVal n (a + 1) (v / 256)
    simp only [Memory.ofVal]
    split
    · simp [Memory.wfFrom]
    · split
      · exact ⟨Memory.wfFrom_mono _ (a + 1) a (by omega) ih.1, fun c hc => by have := ih.2 c hc; omega⟩
      · next h =>
        refine ⟨?_, fun c hc => ?_⟩
        · simp only [Memory.wfFrom, Bool.and_eq_true, decide_eq_true_eq, bne_iff_ne, ne_eq]
          refine ⟨⟨Nat.le_refl a, fun e => h ?_⟩, ih.1⟩
          have := congrArg BitVec.toNat e
          simpa using this
        · rcases List.mem_cons.1 hc with rfl | hc
          · exact Nat.lt_add_of_pos_right (Nat.succ_pos n)
          · have := ih.2 c hc
            omega
/-- Pasting a memory keeps the canonical form. -/
theorem Memory.wf_fill (m r : Memory) (a n : Nat) (hm : Memory.wf m = true) (hr : Memory.wf r = true) :
    Memory.wf (Memory.fill m a n r) = true := by
  have lt : ∀ (q : Memory) (k : Nat) (c : Nat × Byte), c ∈ q.filter (fun c => decide (c.1 < k)) → c.1 < k := fun q k c h => by
    simpa using (List.mem_filter.1 h).2
  have h1 := Memory.wfFrom_filter (fun c => decide (c.1 < a)) m 0 hm
  have h2 := Memory.wfFrom_shift a _ 0 (Memory.wfFrom_filter (fun c => decide (c.1 < n)) r 0 hr)
  have h3 := Memory.wfFrom_raise _ 0 (a + n) (Memory.wfFrom_filter (fun c => decide (a + n ≤ c.1)) m 0 hm) fun c h => by
    simpa using (List.mem_filter.1 h).2
  simp only [Memory.wf, Memory.fill]
  refine Memory.wfFrom_append _ _ 0 (a + n) (Memory.wfFrom_append _ _ 0 a h1 (lt m a) (Nat.zero_le a) h2) (fun c h => ?_) (Nat.zero_le _) h3
  rcases List.mem_append.1 h with h | h
  · have := lt m a c h
    omega
  · obtain ⟨d, hd, rfl⟩ := List.mem_map.1 h
    have := lt r n d hd
    show a + d.1 < a + n
    omega
theorem Memory.wf_nil : Memory.wf [] = true := rfl

end Sys2Proof.Machine
end

