-- ==== Sys2Proof/Laws/Vectors.lean ====
section
/-!
SUPPORT. Laws/Vectors.lean: reading an entry of a vector after a write to it.
-/
namespace Sys2Proof.Machine

theorem rd_wr_same {α : Type} {n : Nat} (v : Vector α n) (i : Nat) (x d : α) (h : i < n) : rd (wr v i x) i d = x := by
  simp [rd, wr, h]
theorem rd_wr_other {α : Type} {n : Nat} (v : Vector α n) (i j : Nat) (x d : α) (h : i ≠ j) : rd (wr v i x) j d = rd v j d := by
  simp only [rd, wr]
  rw [Vector.getElem?_setIfInBounds_ne h]
theorem wr_beyond {α : Type} {n : Nat} (v : Vector α n) (i : Nat) (x : α) (h : n ≤ i) : wr v i x = v := by
  simp only [wr]
  apply Vector.ext
  intro j hj
  rw [Vector.getElem_setIfInBounds_ne]
  omega
theorem rd_wr {α : Type} {n : Nat} (v : Vector α n) (i j : Nat) (x d : α) :
    rd (wr v i x) j d = if i = j ∧ j < n then x else rd v j d := by
  by_cases h : i = j
  · subst h
    by_cases hn : i < n
    · simp [rd_wr_same, hn]
    · rw [wr_beyond _ _ _ (by omega)]; simp [hn]
  · simp [rd_wr_other, h]
theorem wr_wr_same {α : Type} {n : Nat} (v : Vector α n) (i : Nat) (x y : α) : wr (wr v i x) i y = wr v i y := by
  apply Vector.ext
  intro j hj
  simp only [wr, Vector.getElem_setIfInBounds]
  split <;> rfl
/-- Writing back what an entry holds changes nothing. -/
theorem wr_rd {α : Type} {n : Nat} (v : Vector α n) (i : Nat) (d : α) (h : i < n) : wr v i (rd v i d) = v := by
  apply Vector.ext
  intro j hj
  simp only [wr, rd, Vector.getElem_setIfInBounds]
  split
  · next h' => subst h'; simp [hj]
  · rfl

end Sys2Proof.Machine
end

