-- ==== Sys2Proof/Laws/State.lean ====
section
/-!
SUPPORT. Laws/State.lean: each part of the state after each update: one lemma per field per update.
-/
namespace Sys2Proof.Machine

/-! ### The core and the stream that an update touches, and the others -/

@[simp] theorem core_setCore (s : State) (k : CoreId) (c : Core) : (s.setCore k c).core k = c :=
  rd_wr_same _ _ _ _ k.isLt
theorem core_setCore_ne (s : State) (k j : CoreId) (c : Core) (h : k ≠ j) : (s.setCore k c).core j = s.core j :=
  rd_wr_other _ _ _ _ _ (fun e => h (Fin.ext e))
@[simp] theorem core_modCore (s : State) (k : CoreId) (f : Core → Core) : (s.modCore k f).core k = f (s.core k) :=
  core_setCore s k _
theorem core_modCore_ne (s : State) (k j : CoreId) (f : Core → Core) (h : k ≠ j) : (s.modCore k f).core j = s.core j :=
  core_setCore_ne s k j _ h
@[simp] theorem setCore_setCore (s : State) (k : CoreId) (c d : Core) : (s.setCore k c).setCore k d = s.setCore k d := by
  simp only [State.setCore, wr_wr_same]
@[simp] theorem modCore_modCore (s : State) (k : CoreId) (f g : Core → Core) :
    (s.modCore k f).modCore k g = s.modCore k (fun c => g (f c)) := by
  simp only [State.modCore, core_setCore, setCore_setCore]
/-- Putting back the core that stands changes nothing. -/
@[simp] theorem setCore_core (s : State) (k : CoreId) : s.setCore k (s.core k) = s := by
  simp only [State.setCore, State.core, wr_rd _ _ _ k.isLt]
@[simp] theorem strm_setStrm (c : Core) (b : Bool) (t : Strm) : (c.setStrm b t).strm b = t := by cases b <;> rfl
theorem strm_setStrm_ne (c : Core) (b d : Bool) (t : Strm) (h : b ≠ d) : (c.setStrm b t).strm d = c.strm d := by
  cases b <;> cases d <;> first | exact absurd rfl h | rfl
@[simp] theorem setStrm_setStrm (c : Core) (b : Bool) (t u : Strm) : (c.setStrm b t).setStrm b u = c.setStrm b u := by
  cases b <;> rfl
@[simp] theorem setStrm_strm (c : Core) (b : Bool) : c.setStrm b (c.strm b) = c := by cases b <;> rfl
@[simp] theorem cstrm_modStrm (c : Core) (b : Bool) (f : Strm → Strm) : (c.modStrm b f).strm b = f (c.strm b) :=
  strm_setStrm c b _
@[simp] theorem strm_modStrm (s : State) (k : CoreId) (b : Bool) (f : Strm → Strm) : (s.modStrm k b f).strm k b = f (s.strm k b) := by
  simp only [State.strm, State.modStrm, core_modCore, cstrm_modStrm]
theorem strm_modStrm_other (s : State) (k : CoreId) (b d : Bool) (f : Strm → Strm) (h : b ≠ d) :
    (s.modStrm k b f).strm k d = s.strm k d := by
  simp only [State.strm, State.modStrm, core_modCore, Core.modStrm]
  exact strm_setStrm_ne _ b d _ h
theorem strm_modCore_ne (s : State) (k j : CoreId) (b : Bool) (f : Core → Core) (h : k ≠ j) : (s.modCore k f).strm j b = s.strm j b := by
  simp only [State.strm, core_modCore_ne s k j f h]
@[simp] theorem cur_modCur (s : State) (f : Core → Core) : (s.modCur f).cur = f s.cur := core_modCore s s.focus.1 f
@[simp] theorem me_modMe (s : State) (f : Strm → Strm) : (s.modMe f).me = f s.me := strm_modStrm s s.focus.1 s.focus.2 f
@[simp] theorem cluster_modCluster (s : State) (c : ClusterId) (f : Cluster → Cluster) : (s.modCluster c f).cluster c = f (s.cluster c) :=
  rd_wr_same _ _ _ _ c.isLt
theorem cluster_modCluster_ne (s : State) (c d : ClusterId) (f : Cluster → Cluster) (h : c ≠ d) :
    (s.modCluster c f).cluster d = s.cluster d :=
  rd_wr_other _ _ _ _ _ (fun e => h (Fin.ext e))
@[simp] theorem core_modCluster (s : State) (c : ClusterId) (f : Cluster → Cluster) (k : CoreId) : (s.modCluster c f).core k = s.core k := rfl
@[simp] theorem cluster_setCore (s : State) (k : CoreId) (c : Core) (d : ClusterId) : (s.setCore k c).cluster d = s.cluster d := rfl
@[simp] theorem cluster_modCore (s : State) (k : CoreId) (f : Core → Core) (d : ClusterId) : (s.modCore k f).cluster d = s.cluster d := rfl
@[simp] theorem buf_modCore (s : State) (k : CoreId) (f : Core → Core) (j : CoreId) (i : Nat) : (s.modCore k f).buf j i = s.buf j i := rfl
@[simp] theorem core_draw (s : State) (k : CoreId) : s.draw.core k = s.core k := rfl
@[simp] theorem core_firmware (s : State) (n c : Nat) (b : Bool) (z : Nat) (i : Word) (ws : List Word) (k : CoreId) :
    (s.firmware n c b z i ws).core k = s.core k := rfl

/-! ### The other fields after setCore -/

@[simp] theorem setCore_focus (s : State) (k : CoreId) (c : Core) : (s.setCore k c).focus = s.focus := rfl
@[simp] theorem setCore_turn (s : State) (k : CoreId) (c : Core) : (s.setCore k c).turn = s.turn := rfl
@[simp] theorem setCore_agenda (s : State) (k : CoreId) (c : Core) : (s.setCore k c).agenda = s.agenda := rfl
@[simp] theorem setCore_fresh (s : State) (k : CoreId) (c : Core) : (s.setCore k c).fresh = s.fresh := rfl
@[simp] theorem setCore_part (s : State) (k : CoreId) (c : Core) : (s.setCore k c).part = s.part := rfl
@[simp] theorem setCore_bundleId (s : State) (k : CoreId) (c : Core) : (s.setCore k c).bundleId = s.bundleId := rfl
@[simp] theorem setCore_power (s : State) (k : CoreId) (c : Core) : (s.setCore k c).power = s.power := rfl
@[simp] theorem setCore_cyc (s : State) (k : CoreId) (c : Core) : (s.setCore k c).cyc = s.cyc := rfl
@[simp] theorem setCore_mem (s : State) (k : CoreId) (c : Core) : (s.setCore k c).mem = s.mem := rfl
@[simp] theorem setCore_poison (s : State) (k : CoreId) (c : Core) : (s.setCore k c).poison = s.poison := rfl
@[simp] theorem setCore_accs (s : State) (k : CoreId) (c : Core) : (s.setCore k c).accs = s.accs := rfl
@[simp] theorem setCore_nextId (s : State) (k : CoreId) (c : Core) : (s.setCore k c).nextId = s.nextId := rfl
@[simp] theorem setCore_marks (s : State) (k : CoreId) (c : Core) : (s.setCore k c).marks = s.marks := rfl
@[simp] theorem setCore_clusters (s : State) (k : CoreId) (c : Core) : (s.setCore k c).clusters = s.clusters := rfl
@[simp] theorem setCore_nm (s : State) (k : CoreId) (c : Core) : (s.setCore k c).nm = s.nm := rfl
@[simp] theorem setCore_nmWaits (s : State) (k : CoreId) (c : Core) : (s.setCore k c).nmWaits = s.nmWaits := rfl
@[simp] theorem setCore_lastEnd (s : State) (k : CoreId) (c : Core) : (s.setCore k c).lastEnd = s.lastEnd := rfl
@[simp] theorem setCore_bridgeNet (s : State) (k : CoreId) (c : Core) : (s.setCore k c).bridgeNet = s.bridgeNet := rfl
@[simp] theorem setCore_seedWaits (s : State) (k : CoreId) (c : Core) : (s.setCore k c).seedWaits = s.seedWaits := rfl
@[simp] theorem setCore_bankA (s : State) (k : CoreId) (c : Core) : (s.setCore k c).bankA = s.bankA := rfl
@[simp] theorem setCore_bankB (s : State) (k : CoreId) (c : Core) : (s.setCore k c).bankB = s.bankB := rfl
@[simp] theorem setCore_phSeq (s : State) (k : CoreId) (c : Core) : (s.setCore k c).phSeq = s.phSeq := rfl
@[simp] theorem setCore_phBank (s : State) (k : CoreId) (c : Core) : (s.setCore k c).phBank = s.phBank := rfl
@[simp] theorem setCore_phIndex (s : State) (k : CoreId) (c : Core) : (s.setCore k c).phIndex = s.phIndex := rfl
@[simp] theorem setCore_selOpen (s : State) (k : CoreId) (c : Core) : (s.setCore k c).selOpen = s.selOpen := rfl
@[simp] theorem setCore_selValid (s : State) (k : CoreId) (c : Core) : (s.setCore k c).selValid = s.selValid := rfl
@[simp] theorem setCore_selB (s : State) (k : CoreId) (c : Core) : (s.setCore k c).selB = s.selB := rfl
@[simp] theorem setCore_running (s : State) (k : CoreId) (c : Core) : (s.setCore k c).running = s.running := rfl
@[simp] theorem setCore_latched (s : State) (k : CoreId) (c : Core) : (s.setCore k c).latched = s.latched := rfl
@[simp] theorem setCore_bound (s : State) (k : CoreId) (c : Core) : (s.setCore k c).bound = s.bound := rfl
@[simp] theorem setCore_hcounts (s : State) (k : CoreId) (c : Core) : (s.setCore k c).hcounts = s.hcounts := rfl
@[simp] theorem setCore_slkKind (s : State) (k : CoreId) (c : Core) : (s.setCore k c).slkKind = s.slkKind := rfl
@[simp] theorem setCore_slkSpan (s : State) (k : CoreId) (c : Core) : (s.setCore k c).slkSpan = s.slkSpan := rfl
@[simp] theorem setCore_partctl (s : State) (k : CoreId) (c : Core) : (s.setCore k c).partctl = s.partctl := rfl
@[simp] theorem setCore_partq (s : State) (k : CoreId) (c : Core) : (s.setCore k c).partq = s.partq := rfl
@[simp] theorem setCore_stbase (s : State) (k : CoreId) (c : Core) : (s.setCore k c).stbase = s.stbase := rfl
@[simp] theorem setCore_ctxbase (s : State) (k : CoreId) (c : Core) : (s.setCore k c).ctxbase = s.ctxbase := rfl
@[simp] theorem setCore_slotIx (s : State) (k : CoreId) (c : Core) : (s.setCore k c).slotIx = s.slotIx := rfl
@[simp] theorem setCore_slotOn (s : State) (k : CoreId) (c : Core) : (s.setCore k c).slotOn = s.slotOn := rfl
@[simp] theorem setCore_slotEnd (s : State) (k : CoreId) (c : Core) : (s.setCore k c).slotEnd = s.slotEnd := rfl
@[simp] theorem setCore_slotClass (s : State) (k : CoreId) (c : Core) : (s.setCore k c).slotClass = s.slotClass := rfl
@[simp] theorem setCore_slotAudit (s : State) (k : CoreId) (c : Core) : (s.setCore k c).slotAudit = s.slotAudit := rfl
@[simp] theorem setCore_slotHeld (s : State) (k : CoreId) (c : Core) : (s.setCore k c).slotHeld = s.slotHeld := rfl
@[simp] theorem setCore_slotAt (s : State) (k : CoreId) (c : Core) : (s.setCore k c).slotAt = s.slotAt := rfl
@[simp] theorem setCore_curCtx (s : State) (k : CoreId) (c : Core) : (s.setCore k c).curCtx = s.curCtx := rfl
@[simp] theorem setCore_ctxs (s : State) (k : CoreId) (c : Core) : (s.setCore k c).ctxs = s.ctxs := rfl
@[simp] theorem setCore_ptbase (s : State) (k : CoreId) (c : Core) : (s.setCore k c).ptbase = s.ptbase := rfl
@[simp] theorem setCore_devid (s : State) (k : CoreId) (c : Core) : (s.setCore k c).devid = s.devid := rfl
@[simp] theorem setCore_spandly (s : State) (k : CoreId) (c : Core) : (s.setCore k c).spandly = s.spandly := rfl
@[simp] theorem setCore_tqNet (s : State) (k : CoreId) (c : Core) : (s.setCore k c).tqNet = s.tqNet := rfl
@[simp] theorem setCore_rtbase (s : State) (k : CoreId) (c : Core) : (s.setCore k c).rtbase = s.rtbase := rfl
@[simp] theorem setCore_ports (s : State) (k : CoreId) (c : Core) : (s.setCore k c).ports = s.ports := rfl
@[simp] theorem setCore_bridge (s : State) (k : CoreId) (c : Core) : (s.setCore k c).bridge = s.bridge := rfl
@[simp] theorem setCore_realign (s : State) (k : CoreId) (c : Core) : (s.setCore k c).realign = s.realign := rfl
@[simp] theorem setCore_jobDevs (s : State) (k : CoreId) (c : Core) : (s.setCore k c).jobDevs = s.jobDevs := rfl
@[simp] theorem setCore_treePorts (s : State) (k : CoreId) (c : Core) : (s.setCore k c).treePorts = s.treePorts := rfl
@[simp] theorem setCore_seedbase (s : State) (k : CoreId) (c : Core) : (s.setCore k c).seedbase = s.seedbase := rfl
@[simp] theorem setCore_seedcnt (s : State) (k : CoreId) (c : Core) : (s.setCore k c).seedcnt = s.seedcnt := rfl
@[simp] theorem setCore_kvpool (s : State) (k : CoreId) (c : Core) : (s.setCore k c).kvpool = s.kvpool := rfl
@[simp] theorem setCore_kvstate (s : State) (k : CoreId) (c : Core) : (s.setCore k c).kvstate = s.kvstate := rfl
@[simp] theorem setCore_kvlen (s : State) (k : CoreId) (c : Core) : (s.setCore k c).kvlen = s.kvlen := rfl
@[simp] theorem setCore_seedOn (s : State) (k : CoreId) (c : Core) : (s.setCore k c).seedOn = s.seedOn := rfl
@[simp] theorem setCore_seedHost (s : State) (k : CoreId) (c : Core) : (s.setCore k c).seedHost = s.seedHost := rfl
@[simp] theorem setCore_rcvPend (s : State) (k : CoreId) (c : Core) : (s.setCore k c).rcvPend = s.rcvPend := rfl
@[simp] theorem setCore_rcvReq (s : State) (k : CoreId) (c : Core) : (s.setCore k c).rcvReq = s.rcvReq := rfl
@[simp] theorem setCore_rcvId (s : State) (k : CoreId) (c : Core) : (s.setCore k c).rcvId = s.rcvId := rfl
@[simp] theorem setCore_rcvCyc (s : State) (k : CoreId) (c : Core) : (s.setCore k c).rcvCyc = s.rcvCyc := rfl
@[simp] theorem setCore_rcvbase (s : State) (k : CoreId) (c : Core) : (s.setCore k c).rcvbase = s.rcvbase := rfl
@[simp] theorem setCore_exposed (s : State) (k : CoreId) (c : Core) : (s.setCore k c).exposed = s.exposed := rfl
@[simp] theorem setCore_hostRng (s : State) (k : CoreId) (c : Core) : (s.setCore k c).hostRng = s.hostRng := rfl
@[simp] theorem setCore_hostOvf (s : State) (k : CoreId) (c : Core) : (s.setCore k c).hostOvf = s.hostOvf := rfl
@[simp] theorem setCore_audctl (s : State) (k : CoreId) (c : Core) : (s.setCore k c).audctl = s.audctl := rfl
@[simp] theorem setCore_audkey (s : State) (k : CoreId) (c : Core) : (s.setCore k c).audkey = s.audkey := rfl
@[simp] theorem setCore_audbase (s : State) (k : CoreId) (c : Core) : (s.setCore k c).audbase = s.audbase := rfl
@[simp] theorem setCore_auddrop (s : State) (k : CoreId) (c : Core) : (s.setCore k c).auddrop = s.auddrop := rfl
@[simp] theorem setCore_audmis (s : State) (k : CoreId) (c : Core) : (s.setCore k c).audmis = s.audmis := rfl
@[simp] theorem setCore_audpass (s : State) (k : CoreId) (c : Core) : (s.setCore k c).audpass = s.audpass := rfl
@[simp] theorem setCore_audblks (s : State) (k : CoreId) (c : Core) : (s.setCore k c).audblks = s.audblks := rfl
@[simp] theorem setCore_audHead (s : State) (k : CoreId) (c : Core) : (s.setCore k c).audHead = s.audHead := rfl
@[simp] theorem setCore_audNamed (s : State) (k : CoreId) (c : Core) : (s.setCore k c).audNamed = s.audNamed := rfl
@[simp] theorem setCore_falls (s : State) (k : CoreId) (c : Core) : (s.setCore k c).falls = s.falls := rfl
@[simp] theorem setCore_errbase (s : State) (k : CoreId) (c : Core) : (s.setCore k c).errbase = s.errbase := rfl
@[simp] theorem setCore_errhead (s : State) (k : CoreId) (c : Core) : (s.setCore k c).errhead = s.errhead := rfl
@[simp] theorem setCore_fwbox (s : State) (k : CoreId) (c : Core) : (s.setCore k c).fwbox = s.fwbox := rfl
@[simp] theorem setCore_health (s : State) (k : CoreId) (c : Core) : (s.setCore k c).health = s.health := rfl
@[simp] theorem setCore_startStep (s : State) (k : CoreId) (c : Core) : (s.setCore k c).startStep = s.startStep := rfl
@[simp] theorem setCore_startWhy (s : State) (k : CoreId) (c : Core) : (s.setCore k c).startWhy = s.startWhy := rfl
@[simp] theorem setCore_startFails (s : State) (k : CoreId) (c : Core) : (s.setCore k c).startFails = s.startFails := rfl
@[simp] theorem setCore_startMin (s : State) (k : CoreId) (c : Core) : (s.setCore k c).startMin = s.startMin := rfl
@[simp] theorem setCore_startUp (s : State) (k : CoreId) (c : Core) : (s.setCore k c).startUp = s.startUp := rfl
@[simp] theorem setCore_hw1base (s : State) (k : CoreId) (c : Core) : (s.setCore k c).hw1base = s.hw1base := rfl
@[simp] theorem setCore_tlbinv (s : State) (k : CoreId) (c : Core) : (s.setCore k c).tlbinv = s.tlbinv := rfl
@[simp] theorem setCore_tlbBusy (s : State) (k : CoreId) (c : Core) : (s.setCore k c).tlbBusy = s.tlbBusy := rfl
@[simp] theorem setCore_fused (s : State) (k : CoreId) (c : Core) : (s.setCore k c).fused = s.fused := rfl
@[simp] theorem setCore_image (s : State) (k : CoreId) (c : Core) : (s.setCore k c).image = s.image := rfl
@[simp] theorem setCore_svn (s : State) (k : CoreId) (c : Core) : (s.setCore k c).svn = s.svn := rfl
@[simp] theorem setCore_d2h (s : State) (k : CoreId) (c : Core) : (s.setCore k c).d2h = s.d2h := rfl
@[simp] theorem setCore_d2hCnt (s : State) (k : CoreId) (c : Core) : (s.setCore k c).d2hCnt = s.d2hCnt := rfl
@[simp] theorem setCore_h2d (s : State) (k : CoreId) (c : Core) : (s.setCore k c).h2d = s.h2d := rfl
@[simp] theorem setCore_hostCpl (s : State) (k : CoreId) (c : Core) : (s.setCore k c).hostCpl = s.hostCpl := rfl
@[simp] theorem setCore_hostUr (s : State) (k : CoreId) (c : Core) : (s.setCore k c).hostUr = s.hostUr := rfl

/-! ### The other fields after modCore -/

@[simp] theorem modCore_focus (s : State) (k : CoreId) (f : Core → Core) : (s.modCore k f).focus = s.focus := rfl
@[simp] theorem modCore_turn (s : State) (k : CoreId) (f : Core → Core) : (s.modCore k f).turn = s.turn := rfl
@[simp] theorem modCore_agenda (s : State) (k : CoreId) (f : Core → Core) : (s.modCore k f).agenda = s.agenda := rfl
@[simp] theorem modCore_fresh (s : State) (k : CoreId) (f : Core → Core) : (s.modCore k f).fresh = s.fresh := rfl
@[simp] theorem modCore_part (s : State) (k : CoreId) (f : Core → Core) : (s.modCore k f).part = s.part := rfl
@[simp] theorem modCore_bundleId (s : State) (k : CoreId) (f : Core → Core) : (s.modCore k f).bundleId = s.bundleId := rfl
@[simp] theorem modCore_power (s : State) (k : CoreId) (f : Core → Core) : (s.modCore k f).power = s.power := rfl
@[simp] theorem modCore_cyc (s : State) (k : CoreId) (f : Core → Core) : (s.modCore k f).cyc = s.cyc := rfl
@[simp] theorem modCore_mem (s : State) (k : CoreId) (f : Core → Core) : (s.modCore k f).mem = s.mem := rfl
@[simp] theorem modCore_poison (s : State) (k : CoreId) (f : Core → Core) : (s.modCore k f).poison = s.poison := rfl
@[simp] theorem modCore_accs (s : State) (k : CoreId) (f : Core → Core) : (s.modCore k f).accs = s.accs := rfl
@[simp] theorem modCore_nextId (s : State) (k : CoreId) (f : Core → Core) : (s.modCore k f).nextId = s.nextId := rfl
@[simp] theorem modCore_marks (s : State) (k : CoreId) (f : Core → Core) : (s.modCore k f).marks = s.marks := rfl
@[simp] theorem modCore_clusters (s : State) (k : CoreId) (f : Core → Core) : (s.modCore k f).clusters = s.clusters := rfl
@[simp] theorem modCore_nm (s : State) (k : CoreId) (f : Core → Core) : (s.modCore k f).nm = s.nm := rfl
@[simp] theorem modCore_nmWaits (s : State) (k : CoreId) (f : Core → Core) : (s.modCore k f).nmWaits = s.nmWaits := rfl
@[simp] theorem modCore_lastEnd (s : State) (k : CoreId) (f : Core → Core) : (s.modCore k f).lastEnd = s.lastEnd := rfl
@[simp] theorem modCore_bridgeNet (s : State) (k : CoreId) (f : Core → Core) : (s.modCore k f).bridgeNet = s.bridgeNet := rfl
@[simp] theorem modCore_seedWaits (s : State) (k : CoreId) (f : Core → Core) : (s.modCore k f).seedWaits = s.seedWaits := rfl
@[simp] theorem modCore_bankA (s : State) (k : CoreId) (f : Core → Core) : (s.modCore k f).bankA = s.bankA := rfl
@[simp] theorem modCore_bankB (s : State) (k : CoreId) (f : Core → Core) : (s.modCore k f).bankB = s.bankB := rfl
@[simp] theorem modCore_phSeq (s : State) (k : CoreId) (f : Core → Core) : (s.modCore k f).phSeq = s.phSeq := rfl
@[simp] theorem modCore_phBank (s : State) (k : CoreId) (f : Core → Core) : (s.modCore k f).phBank = s.phBank := rfl
@[simp] theorem modCore_phIndex (s : State) (k : CoreId) (f : Core → Core) : (s.modCore k f).phIndex = s.phIndex := rfl
@[simp] theorem modCore_selOpen (s : State) (k : CoreId) (f : Core → Core) : (s.modCore k f).selOpen = s.selOpen := rfl
@[simp] theorem modCore_selValid (s : State) (k : CoreId) (f : Core → Core) : (s.modCore k f).selValid = s.selValid := rfl
@[simp] theorem modCore_selB (s : State) (k : CoreId) (f : Core → Core) : (s.modCore k f).selB = s.selB := rfl
@[simp] theorem modCore_running (s : State) (k : CoreId) (f : Core → Core) : (s.modCore k f).running = s.running := rfl
@[simp] theorem modCore_latched (s : State) (k : CoreId) (f : Core → Core) : (s.modCore k f).latched = s.latched := rfl
@[simp] theorem modCore_bound (s : State) (k : CoreId) (f : Core → Core) : (s.modCore k f).bound = s.bound := rfl
@[simp] theorem modCore_hcounts (s : State) (k : CoreId) (f : Core → Core) : (s.modCore k f).hcounts = s.hcounts := rfl
@[simp] theorem modCore_slkKind (s : State) (k : CoreId) (f : Core → Core) : (s.modCore k f).slkKind = s.slkKind := rfl
@[simp] theorem modCore_slkSpan (s : State) (k : CoreId) (f : Core → Core) : (s.modCore k f).slkSpan = s.slkSpan := rfl
@[simp] theorem modCore_partctl (s : State) (k : CoreId) (f : Core → Core) : (s.modCore k f).partctl = s.partctl := rfl
@[simp] theorem modCore_partq (s : State) (k : CoreId) (f : Core → Core) : (s.modCore k f).partq = s.partq := rfl
@[simp] theorem modCore_stbase (s : State) (k : CoreId) (f : Core → Core) : (s.modCore k f).stbase = s.stbase := rfl
@[simp] theorem modCore_ctxbase (s : State) (k : CoreId) (f : Core → Core) : (s.modCore k f).ctxbase = s.ctxbase := rfl
@[simp] theorem modCore_slotIx (s : State) (k : CoreId) (f : Core → Core) : (s.modCore k f).slotIx = s.slotIx := rfl
@[simp] theorem modCore_slotOn (s : State) (k : CoreId) (f : Core → Core) : (s.modCore k f).slotOn = s.slotOn := rfl
@[simp] theorem modCore_slotEnd (s : State) (k : CoreId) (f : Core → Core) : (s.modCore k f).slotEnd = s.slotEnd := rfl
@[simp] theorem modCore_slotClass (s : State) (k : CoreId) (f : Core → Core) : (s.modCore k f).slotClass = s.slotClass := rfl
@[simp] theorem modCore_slotAudit (s : State) (k : CoreId) (f : Core → Core) : (s.modCore k f).slotAudit = s.slotAudit := rfl
@[simp] theorem modCore_slotHeld (s : State) (k : CoreId) (f : Core → Core) : (s.modCore k f).slotHeld = s.slotHeld := rfl
@[simp] theorem modCore_slotAt (s : State) (k : CoreId) (f : Core → Core) : (s.modCore k f).slotAt = s.slotAt := rfl
@[simp] theorem modCore_curCtx (s : State) (k : CoreId) (f : Core → Core) : (s.modCore k f).curCtx = s.curCtx := rfl
@[simp] theorem modCore_ctxs (s : State) (k : CoreId) (f : Core → Core) : (s.modCore k f).ctxs = s.ctxs := rfl
@[simp] theorem modCore_ptbase (s : State) (k : CoreId) (f : Core → Core) : (s.modCore k f).ptbase = s.ptbase := rfl
@[simp] theorem modCore_devid (s : State) (k : CoreId) (f : Core → Core) : (s.modCore k f).devid = s.devid := rfl
@[simp] theorem modCore_spandly (s : State) (k : CoreId) (f : Core → Core) : (s.modCore k f).spandly = s.spandly := rfl
@[simp] theorem modCore_tqNet (s : State) (k : CoreId) (f : Core → Core) : (s.modCore k f).tqNet = s.tqNet := rfl
@[simp] theorem modCore_rtbase (s : State) (k : CoreId) (f : Core → Core) : (s.modCore k f).rtbase = s.rtbase := rfl
@[simp] theorem modCore_ports (s : State) (k : CoreId) (f : Core → Core) : (s.modCore k f).ports = s.ports := rfl
@[simp] theorem modCore_bridge (s : State) (k : CoreId) (f : Core → Core) : (s.modCore k f).bridge = s.bridge := rfl
@[simp] theorem modCore_realign (s : State) (k : CoreId) (f : Core → Core) : (s.modCore k f).realign = s.realign := rfl
@[simp] theorem modCore_jobDevs (s : State) (k : CoreId) (f : Core → Core) : (s.modCore k f).jobDevs = s.jobDevs := rfl
@[simp] theorem modCore_treePorts (s : State) (k : CoreId) (f : Core → Core) : (s.modCore k f).treePorts = s.treePorts := rfl
@[simp] theorem modCore_seedbase (s : State) (k : CoreId) (f : Core → Core) : (s.modCore k f).seedbase = s.seedbase := rfl
@[simp] theorem modCore_seedcnt (s : State) (k : CoreId) (f : Core → Core) : (s.modCore k f).seedcnt = s.seedcnt := rfl
@[simp] theorem modCore_kvpool (s : State) (k : CoreId) (f : Core → Core) : (s.modCore k f).kvpool = s.kvpool := rfl
@[simp] theorem modCore_kvstate (s : State) (k : CoreId) (f : Core → Core) : (s.modCore k f).kvstate = s.kvstate := rfl
@[simp] theorem modCore_kvlen (s : State) (k : CoreId) (f : Core → Core) : (s.modCore k f).kvlen = s.kvlen := rfl
@[simp] theorem modCore_seedOn (s : State) (k : CoreId) (f : Core → Core) : (s.modCore k f).seedOn = s.seedOn := rfl
@[simp] theorem modCore_seedHost (s : State) (k : CoreId) (f : Core → Core) : (s.modCore k f).seedHost = s.seedHost := rfl
@[simp] theorem modCore_rcvPend (s : State) (k : CoreId) (f : Core → Core) : (s.modCore k f).rcvPend = s.rcvPend := rfl
@[simp] theorem modCore_rcvReq (s : State) (k : CoreId) (f : Core → Core) : (s.modCore k f).rcvReq = s.rcvReq := rfl
@[simp] theorem modCore_rcvId (s : State) (k : CoreId) (f : Core → Core) : (s.modCore k f).rcvId = s.rcvId := rfl
@[simp] theorem modCore_rcvCyc (s : State) (k : CoreId) (f : Core → Core) : (s.modCore k f).rcvCyc = s.rcvCyc := rfl
@[simp] theorem modCore_rcvbase (s : State) (k : CoreId) (f : Core → Core) : (s.modCore k f).rcvbase = s.rcvbase := rfl
@[simp] theorem modCore_exposed (s : State) (k : CoreId) (f : Core → Core) : (s.modCore k f).exposed = s.exposed := rfl
@[simp] theorem modCore_hostRng (s : State) (k : CoreId) (f : Core → Core) : (s.modCore k f).hostRng = s.hostRng := rfl
@[simp] theorem modCore_hostOvf (s : State) (k : CoreId) (f : Core → Core) : (s.modCore k f).hostOvf = s.hostOvf := rfl
@[simp] theorem modCore_audctl (s : State) (k : CoreId) (f : Core → Core) : (s.modCore k f).audctl = s.audctl := rfl
@[simp] theorem modCore_audkey (s : State) (k : CoreId) (f : Core → Core) : (s.modCore k f).audkey = s.audkey := rfl
@[simp] theorem modCore_audbase (s : State) (k : CoreId) (f : Core → Core) : (s.modCore k f).audbase = s.audbase := rfl
@[simp] theorem modCore_auddrop (s : State) (k : CoreId) (f : Core → Core) : (s.modCore k f).auddrop = s.auddrop := rfl
@[simp] theorem modCore_audmis (s : State) (k : CoreId) (f : Core → Core) : (s.modCore k f).audmis = s.audmis := rfl
@[simp] theorem modCore_audpass (s : State) (k : CoreId) (f : Core → Core) : (s.modCore k f).audpass = s.audpass := rfl
@[simp] theorem modCore_audblks (s : State) (k : CoreId) (f : Core → Core) : (s.modCore k f).audblks = s.audblks := rfl
@[simp] theorem modCore_audHead (s : State) (k : CoreId) (f : Core → Core) : (s.modCore k f).audHead = s.audHead := rfl
@[simp] theorem modCore_audNamed (s : State) (k : CoreId) (f : Core → Core) : (s.modCore k f).audNamed = s.audNamed := rfl
@[simp] theorem modCore_falls (s : State) (k : CoreId) (f : Core → Core) : (s.modCore k f).falls = s.falls := rfl
@[simp] theorem modCore_errbase (s : State) (k : CoreId) (f : Core → Core) : (s.modCore k f).errbase = s.errbase := rfl
@[simp] theorem modCore_errhead (s : State) (k : CoreId) (f : Core → Core) : (s.modCore k f).errhead = s.errhead := rfl
@[simp] theorem modCore_fwbox (s : State) (k : CoreId) (f : Core → Core) : (s.modCore k f).fwbox = s.fwbox := rfl
@[simp] theorem modCore_health (s : State) (k : CoreId) (f : Core → Core) : (s.modCore k f).health = s.health := rfl
@[simp] theorem modCore_startStep (s : State) (k : CoreId) (f : Core → Core) : (s.modCore k f).startStep = s.startStep := rfl
@[simp] theorem modCore_startWhy (s : State) (k : CoreId) (f : Core → Core) : (s.modCore k f).startWhy = s.startWhy := rfl
@[simp] theorem modCore_startFails (s : State) (k : CoreId) (f : Core → Core) : (s.modCore k f).startFails = s.startFails := rfl
@[simp] theorem modCore_startMin (s : State) (k : CoreId) (f : Core → Core) : (s.modCore k f).startMin = s.startMin := rfl
@[simp] theorem modCore_startUp (s : State) (k : CoreId) (f : Core → Core) : (s.modCore k f).startUp = s.startUp := rfl
@[simp] theorem modCore_hw1base (s : State) (k : CoreId) (f : Core → Core) : (s.modCore k f).hw1base = s.hw1base := rfl
@[simp] theorem modCore_tlbinv (s : State) (k : CoreId) (f : Core → Core) : (s.modCore k f).tlbinv = s.tlbinv := rfl
@[simp] theorem modCore_tlbBusy (s : State) (k : CoreId) (f : Core → Core) : (s.modCore k f).tlbBusy = s.tlbBusy := rfl
@[simp] theorem modCore_fused (s : State) (k : CoreId) (f : Core → Core) : (s.modCore k f).fused = s.fused := rfl
@[simp] theorem modCore_image (s : State) (k : CoreId) (f : Core → Core) : (s.modCore k f).image = s.image := rfl
@[simp] theorem modCore_svn (s : State) (k : CoreId) (f : Core → Core) : (s.modCore k f).svn = s.svn := rfl
@[simp] theorem modCore_d2h (s : State) (k : CoreId) (f : Core → Core) : (s.modCore k f).d2h = s.d2h := rfl
@[simp] theorem modCore_d2hCnt (s : State) (k : CoreId) (f : Core → Core) : (s.modCore k f).d2hCnt = s.d2hCnt := rfl
@[simp] theorem modCore_h2d (s : State) (k : CoreId) (f : Core → Core) : (s.modCore k f).h2d = s.h2d := rfl
@[simp] theorem modCore_hostCpl (s : State) (k : CoreId) (f : Core → Core) : (s.modCore k f).hostCpl = s.hostCpl := rfl
@[simp] theorem modCore_hostUr (s : State) (k : CoreId) (f : Core → Core) : (s.modCore k f).hostUr = s.hostUr := rfl

/-! ### The other fields after modStrm -/

@[simp] theorem modStrm_focus (s : State) (k : CoreId) (b : Bool) (f : Strm → Strm) : (s.modStrm k b f).focus = s.focus := rfl
@[simp] theorem modStrm_turn (s : State) (k : CoreId) (b : Bool) (f : Strm → Strm) : (s.modStrm k b f).turn = s.turn := rfl
@[simp] theorem modStrm_agenda (s : State) (k : CoreId) (b : Bool) (f : Strm → Strm) : (s.modStrm k b f).agenda = s.agenda := rfl
@[simp] theorem modStrm_fresh (s : State) (k : CoreId) (b : Bool) (f : Strm → Strm) : (s.modStrm k b f).fresh = s.fresh := rfl
@[simp] theorem modStrm_part (s : State) (k : CoreId) (b : Bool) (f : Strm → Strm) : (s.modStrm k b f).part = s.part := rfl
@[simp] theorem modStrm_bundleId (s : State) (k : CoreId) (b : Bool) (f : Strm → Strm) : (s.modStrm k b f).bundleId = s.bundleId := rfl
@[simp] theorem modStrm_power (s : State) (k : CoreId) (b : Bool) (f : Strm → Strm) : (s.modStrm k b f).power = s.power := rfl
@[simp] theorem modStrm_cyc (s : State) (k : CoreId) (b : Bool) (f : Strm → Strm) : (s.modStrm k b f).cyc = s.cyc := rfl
@[simp] theorem modStrm_mem (s : State) (k : CoreId) (b : Bool) (f : Strm → Strm) : (s.modStrm k b f).mem = s.mem := rfl
@[simp] theorem modStrm_poison (s : State) (k : CoreId) (b : Bool) (f : Strm → Strm) : (s.modStrm k b f).poison = s.poison := rfl
@[simp] theorem modStrm_accs (s : State) (k : CoreId) (b : Bool) (f : Strm → Strm) : (s.modStrm k b f).accs = s.accs := rfl
@[simp] theorem modStrm_nextId (s : State) (k : CoreId) (b : Bool) (f : Strm → Strm) : (s.modStrm k b f).nextId = s.nextId := rfl
@[simp] theorem modStrm_marks (s : State) (k : CoreId) (b : Bool) (f : Strm → Strm) : (s.modStrm k b f).marks = s.marks := rfl
@[simp] theorem modStrm_clusters (s : State) (k : CoreId) (b : Bool) (f : Strm → Strm) : (s.modStrm k b f).clusters = s.clusters := rfl
@[simp] theorem modStrm_nm (s : State) (k : CoreId) (b : Bool) (f : Strm → Strm) : (s.modStrm k b f).nm = s.nm := rfl
@[simp] theorem modStrm_nmWaits (s : State) (k : CoreId) (b : Bool) (f : Strm → Strm) : (s.modStrm k b f).nmWaits = s.nmWaits := rfl
@[simp] theorem modStrm_lastEnd (s : State) (k : CoreId) (b : Bool) (f : Strm → Strm) : (s.modStrm k b f).lastEnd = s.lastEnd := rfl
@[simp] theorem modStrm_bridgeNet (s : State) (k : CoreId) (b : Bool) (f : Strm → Strm) : (s.modStrm k b f).bridgeNet = s.bridgeNet := rfl
@[simp] theorem modStrm_seedWaits (s : State) (k : CoreId) (b : Bool) (f : Strm → Strm) : (s.modStrm k b f).seedWaits = s.seedWaits := rfl
@[simp] theorem modStrm_bankA (s : State) (k : CoreId) (b : Bool) (f : Strm → Strm) : (s.modStrm k b f).bankA = s.bankA := rfl
@[simp] theorem modStrm_bankB (s : State) (k : CoreId) (b : Bool) (f : Strm → Strm) : (s.modStrm k b f).bankB = s.bankB := rfl
@[simp] theorem modStrm_phSeq (s : State) (k : CoreId) (b : Bool) (f : Strm → Strm) : (s.modStrm k b f).phSeq = s.phSeq := rfl
@[simp] theorem modStrm_phBank (s : State) (k : CoreId) (b : Bool) (f : Strm → Strm) : (s.modStrm k b f).phBank = s.phBank := rfl
@[simp] theorem modStrm_phIndex (s : State) (k : CoreId) (b : Bool) (f : Strm → Strm) : (s.modStrm k b f).phIndex = s.phIndex := rfl
@[simp] theorem modStrm_selOpen (s : State) (k : CoreId) (b : Bool) (f : Strm → Strm) : (s.modStrm k b f).selOpen = s.selOpen := rfl
@[simp] theorem modStrm_selValid (s : State) (k : CoreId) (b : Bool) (f : Strm → Strm) : (s.modStrm k b f).selValid = s.selValid := rfl
@[simp] theorem modStrm_selB (s : State) (k : CoreId) (b : Bool) (f : Strm → Strm) : (s.modStrm k b f).selB = s.selB := rfl
@[simp] theorem modStrm_running (s : State) (k : CoreId) (b : Bool) (f : Strm → Strm) : (s.modStrm k b f).running = s.running := rfl
@[simp] theorem modStrm_latched (s : State) (k : CoreId) (b : Bool) (f : Strm → Strm) : (s.modStrm k b f).latched = s.latched := rfl
@[simp] theorem modStrm_bound (s : State) (k : CoreId) (b : Bool) (f : Strm → Strm) : (s.modStrm k b f).bound = s.bound := rfl
@[simp] theorem modStrm_hcounts (s : State) (k : CoreId) (b : Bool) (f : Strm → Strm) : (s.modStrm k b f).hcounts = s.hcounts := rfl
@[simp] theorem modStrm_slkKind (s : State) (k : CoreId) (b : Bool) (f : Strm → Strm) : (s.modStrm k b f).slkKind = s.slkKind := rfl
@[simp] theorem modStrm_slkSpan (s : State) (k : CoreId) (b : Bool) (f : Strm → Strm) : (s.modStrm k b f).slkSpan = s.slkSpan := rfl
@[simp] theorem modStrm_partctl (s : State) (k : CoreId) (b : Bool) (f : Strm → Strm) : (s.modStrm k b f).partctl = s.partctl := rfl
@[simp] theorem modStrm_partq (s : State) (k : CoreId) (b : Bool) (f : Strm → Strm) : (s.modStrm k b f).partq = s.partq := rfl
@[simp] theorem modStrm_stbase (s : State) (k : CoreId) (b : Bool) (f : Strm → Strm) : (s.modStrm k b f).stbase = s.stbase := rfl
@[simp] theorem modStrm_ctxbase (s : State) (k : CoreId) (b : Bool) (f : Strm → Strm) : (s.modStrm k b f).ctxbase = s.ctxbase := rfl
@[simp] theorem modStrm_slotIx (s : State) (k : CoreId) (b : Bool) (f : Strm → Strm) : (s.modStrm k b f).slotIx = s.slotIx := rfl
@[simp] theorem modStrm_slotOn (s : State) (k : CoreId) (b : Bool) (f : Strm → Strm) : (s.modStrm k b f).slotOn = s.slotOn := rfl
@[simp] theorem modStrm_slotEnd (s : State) (k : CoreId) (b : Bool) (f : Strm → Strm) : (s.modStrm k b f).slotEnd = s.slotEnd := rfl
@[simp] theorem modStrm_slotClass (s : State) (k : CoreId) (b : Bool) (f : Strm → Strm) : (s.modStrm k b f).slotClass = s.slotClass := rfl
@[simp] theorem modStrm_slotAudit (s : State) (k : CoreId) (b : Bool) (f : Strm → Strm) : (s.modStrm k b f).slotAudit = s.slotAudit := rfl
@[simp] theorem modStrm_slotHeld (s : State) (k : CoreId) (b : Bool) (f : Strm → Strm) : (s.modStrm k b f).slotHeld = s.slotHeld := rfl
@[simp] theorem modStrm_slotAt (s : State) (k : CoreId) (b : Bool) (f : Strm → Strm) : (s.modStrm k b f).slotAt = s.slotAt := rfl
@[simp] theorem modStrm_curCtx (s : State) (k : CoreId) (b : Bool) (f : Strm → Strm) : (s.modStrm k b f).curCtx = s.curCtx := rfl
@[simp] theorem modStrm_ctxs (s : State) (k : CoreId) (b : Bool) (f : Strm → Strm) : (s.modStrm k b f).ctxs = s.ctxs := rfl
@[simp] theorem modStrm_ptbase (s : State) (k : CoreId) (b : Bool) (f : Strm → Strm) : (s.modStrm k b f).ptbase = s.ptbase := rfl
@[simp] theorem modStrm_devid (s : State) (k : CoreId) (b : Bool) (f : Strm → Strm) : (s.modStrm k b f).devid = s.devid := rfl
@[simp] theorem modStrm_spandly (s : State) (k : CoreId) (b : Bool) (f : Strm → Strm) : (s.modStrm k b f).spandly = s.spandly := rfl
@[simp] theorem modStrm_tqNet (s : State) (k : CoreId) (b : Bool) (f : Strm → Strm) : (s.modStrm k b f).tqNet = s.tqNet := rfl
@[simp] theorem modStrm_rtbase (s : State) (k : CoreId) (b : Bool) (f : Strm → Strm) : (s.modStrm k b f).rtbase = s.rtbase := rfl
@[simp] theorem modStrm_ports (s : State) (k : CoreId) (b : Bool) (f : Strm → Strm) : (s.modStrm k b f).ports = s.ports := rfl
@[simp] theorem modStrm_bridge (s : State) (k : CoreId) (b : Bool) (f : Strm → Strm) : (s.modStrm k b f).bridge = s.bridge := rfl
@[simp] theorem modStrm_realign (s : State) (k : CoreId) (b : Bool) (f : Strm → Strm) : (s.modStrm k b f).realign = s.realign := rfl
@[simp] theorem modStrm_jobDevs (s : State) (k : CoreId) (b : Bool) (f : Strm → Strm) : (s.modStrm k b f).jobDevs = s.jobDevs := rfl
@[simp] theorem modStrm_treePorts (s : State) (k : CoreId) (b : Bool) (f : Strm → Strm) : (s.modStrm k b f).treePorts = s.treePorts := rfl
@[simp] theorem modStrm_seedbase (s : State) (k : CoreId) (b : Bool) (f : Strm → Strm) : (s.modStrm k b f).seedbase = s.seedbase := rfl
@[simp] theorem modStrm_seedcnt (s : State) (k : CoreId) (b : Bool) (f : Strm → Strm) : (s.modStrm k b f).seedcnt = s.seedcnt := rfl
@[simp] theorem modStrm_kvpool (s : State) (k : CoreId) (b : Bool) (f : Strm → Strm) : (s.modStrm k b f).kvpool = s.kvpool := rfl
@[simp] theorem modStrm_kvstate (s : State) (k : CoreId) (b : Bool) (f : Strm → Strm) : (s.modStrm k b f).kvstate = s.kvstate := rfl
@[simp] theorem modStrm_kvlen (s : State) (k : CoreId) (b : Bool) (f : Strm → Strm) : (s.modStrm k b f).kvlen = s.kvlen := rfl
@[simp] theorem modStrm_seedOn (s : State) (k : CoreId) (b : Bool) (f : Strm → Strm) : (s.modStrm k b f).seedOn = s.seedOn := rfl
@[simp] theorem modStrm_seedHost (s : State) (k : CoreId) (b : Bool) (f : Strm → Strm) : (s.modStrm k b f).seedHost = s.seedHost := rfl
@[simp] theorem modStrm_rcvPend (s : State) (k : CoreId) (b : Bool) (f : Strm → Strm) : (s.modStrm k b f).rcvPend = s.rcvPend := rfl
@[simp] theorem modStrm_rcvReq (s : State) (k : CoreId) (b : Bool) (f : Strm → Strm) : (s.modStrm k b f).rcvReq = s.rcvReq := rfl
@[simp] theorem modStrm_rcvId (s : State) (k : CoreId) (b : Bool) (f : Strm → Strm) : (s.modStrm k b f).rcvId = s.rcvId := rfl
@[simp] theorem modStrm_rcvCyc (s : State) (k : CoreId) (b : Bool) (f : Strm → Strm) : (s.modStrm k b f).rcvCyc = s.rcvCyc := rfl
@[simp] theorem modStrm_rcvbase (s : State) (k : CoreId) (b : Bool) (f : Strm → Strm) : (s.modStrm k b f).rcvbase = s.rcvbase := rfl
@[simp] theorem modStrm_exposed (s : State) (k : CoreId) (b : Bool) (f : Strm → Strm) : (s.modStrm k b f).exposed = s.exposed := rfl
@[simp] theorem modStrm_hostRng (s : State) (k : CoreId) (b : Bool) (f : Strm → Strm) : (s.modStrm k b f).hostRng = s.hostRng := rfl
@[simp] theorem modStrm_hostOvf (s : State) (k : CoreId) (b : Bool) (f : Strm → Strm) : (s.modStrm k b f).hostOvf = s.hostOvf := rfl
@[simp] theorem modStrm_audctl (s : State) (k : CoreId) (b : Bool) (f : Strm → Strm) : (s.modStrm k b f).audctl = s.audctl := rfl
@[simp] theorem modStrm_audkey (s : State) (k : CoreId) (b : Bool) (f : Strm → Strm) : (s.modStrm k b f).audkey = s.audkey := rfl
@[simp] theorem modStrm_audbase (s : State) (k : CoreId) (b : Bool) (f : Strm → Strm) : (s.modStrm k b f).audbase = s.audbase := rfl
@[simp] theorem modStrm_auddrop (s : State) (k : CoreId) (b : Bool) (f : Strm → Strm) : (s.modStrm k b f).auddrop = s.auddrop := rfl
@[simp] theorem modStrm_audmis (s : State) (k : CoreId) (b : Bool) (f : Strm → Strm) : (s.modStrm k b f).audmis = s.audmis := rfl
@[simp] theorem modStrm_audpass (s : State) (k : CoreId) (b : Bool) (f : Strm → Strm) : (s.modStrm k b f).audpass = s.audpass := rfl
@[simp] theorem modStrm_audblks (s : State) (k : CoreId) (b : Bool) (f : Strm → Strm) : (s.modStrm k b f).audblks = s.audblks := rfl
@[simp] theorem modStrm_audHead (s : State) (k : CoreId) (b : Bool) (f : Strm → Strm) : (s.modStrm k b f).audHead = s.audHead := rfl
@[simp] theorem modStrm_audNamed (s : State) (k : CoreId) (b : Bool) (f : Strm → Strm) : (s.modStrm k b f).audNamed = s.audNamed := rfl
@[simp] theorem modStrm_falls (s : State) (k : CoreId) (b : Bool) (f : Strm → Strm) : (s.modStrm k b f).falls = s.falls := rfl
@[simp] theorem modStrm_errbase (s : State) (k : CoreId) (b : Bool) (f : Strm → Strm) : (s.modStrm k b f).errbase = s.errbase := rfl
@[simp] theorem modStrm_errhead (s : State) (k : CoreId) (b : Bool) (f : Strm → Strm) : (s.modStrm k b f).errhead = s.errhead := rfl
@[simp] theorem modStrm_fwbox (s : State) (k : CoreId) (b : Bool) (f : Strm → Strm) : (s.modStrm k b f).fwbox = s.fwbox := rfl
@[simp] theorem modStrm_health (s : State) (k : CoreId) (b : Bool) (f : Strm → Strm) : (s.modStrm k b f).health = s.health := rfl
@[simp] theorem modStrm_startStep (s : State) (k : CoreId) (b : Bool) (f : Strm → Strm) : (s.modStrm k b f).startStep = s.startStep := rfl
@[simp] theorem modStrm_startWhy (s : State) (k : CoreId) (b : Bool) (f : Strm → Strm) : (s.modStrm k b f).startWhy = s.startWhy := rfl
@[simp] theorem modStrm_startFails (s : State) (k : CoreId) (b : Bool) (f : Strm → Strm) : (s.modStrm k b f).startFails = s.startFails := rfl
@[simp] theorem modStrm_startMin (s : State) (k : CoreId) (b : Bool) (f : Strm → Strm) : (s.modStrm k b f).startMin = s.startMin := rfl
@[simp] theorem modStrm_startUp (s : State) (k : CoreId) (b : Bool) (f : Strm → Strm) : (s.modStrm k b f).startUp = s.startUp := rfl
@[simp] theorem modStrm_hw1base (s : State) (k : CoreId) (b : Bool) (f : Strm → Strm) : (s.modStrm k b f).hw1base = s.hw1base := rfl
@[simp] theorem modStrm_tlbinv (s : State) (k : CoreId) (b : Bool) (f : Strm → Strm) : (s.modStrm k b f).tlbinv = s.tlbinv := rfl
@[simp] theorem modStrm_tlbBusy (s : State) (k : CoreId) (b : Bool) (f : Strm → Strm) : (s.modStrm k b f).tlbBusy = s.tlbBusy := rfl
@[simp] theorem modStrm_fused (s : State) (k : CoreId) (b : Bool) (f : Strm → Strm) : (s.modStrm k b f).fused = s.fused := rfl
@[simp] theorem modStrm_image (s : State) (k : CoreId) (b : Bool) (f : Strm → Strm) : (s.modStrm k b f).image = s.image := rfl
@[simp] theorem modStrm_svn (s : State) (k : CoreId) (b : Bool) (f : Strm → Strm) : (s.modStrm k b f).svn = s.svn := rfl
@[simp] theorem modStrm_d2h (s : State) (k : CoreId) (b : Bool) (f : Strm → Strm) : (s.modStrm k b f).d2h = s.d2h := rfl
@[simp] theorem modStrm_d2hCnt (s : State) (k : CoreId) (b : Bool) (f : Strm → Strm) : (s.modStrm k b f).d2hCnt = s.d2hCnt := rfl
@[simp] theorem modStrm_h2d (s : State) (k : CoreId) (b : Bool) (f : Strm → Strm) : (s.modStrm k b f).h2d = s.h2d := rfl
@[simp] theorem modStrm_hostCpl (s : State) (k : CoreId) (b : Bool) (f : Strm → Strm) : (s.modStrm k b f).hostCpl = s.hostCpl := rfl
@[simp] theorem modStrm_hostUr (s : State) (k : CoreId) (b : Bool) (f : Strm → Strm) : (s.modStrm k b f).hostUr = s.hostUr := rfl

/-! ### The other fields after modCur -/

@[simp] theorem modCur_focus (s : State) (f : Core → Core) : (s.modCur f).focus = s.focus := rfl
@[simp] theorem modCur_turn (s : State) (f : Core → Core) : (s.modCur f).turn = s.turn := rfl
@[simp] theorem modCur_agenda (s : State) (f : Core → Core) : (s.modCur f).agenda = s.agenda := rfl
@[simp] theorem modCur_fresh (s : State) (f : Core → Core) : (s.modCur f).fresh = s.fresh := rfl
@[simp] theorem modCur_part (s : State) (f : Core → Core) : (s.modCur f).part = s.part := rfl
@[simp] theorem modCur_bundleId (s : State) (f : Core → Core) : (s.modCur f).bundleId = s.bundleId := rfl
@[simp] theorem modCur_power (s : State) (f : Core → Core) : (s.modCur f).power = s.power := rfl
@[simp] theorem modCur_cyc (s : State) (f : Core → Core) : (s.modCur f).cyc = s.cyc := rfl
@[simp] theorem modCur_mem (s : State) (f : Core → Core) : (s.modCur f).mem = s.mem := rfl
@[simp] theorem modCur_poison (s : State) (f : Core → Core) : (s.modCur f).poison = s.poison := rfl
@[simp] theorem modCur_accs (s : State) (f : Core → Core) : (s.modCur f).accs = s.accs := rfl
@[simp] theorem modCur_nextId (s : State) (f : Core → Core) : (s.modCur f).nextId = s.nextId := rfl
@[simp] theorem modCur_marks (s : State) (f : Core → Core) : (s.modCur f).marks = s.marks := rfl
@[simp] theorem modCur_clusters (s : State) (f : Core → Core) : (s.modCur f).clusters = s.clusters := rfl
@[simp] theorem modCur_nm (s : State) (f : Core → Core) : (s.modCur f).nm = s.nm := rfl
@[simp] theorem modCur_nmWaits (s : State) (f : Core → Core) : (s.modCur f).nmWaits = s.nmWaits := rfl
@[simp] theorem modCur_lastEnd (s : State) (f : Core → Core) : (s.modCur f).lastEnd = s.lastEnd := rfl
@[simp] theorem modCur_bridgeNet (s : State) (f : Core → Core) : (s.modCur f).bridgeNet = s.bridgeNet := rfl
@[simp] theorem modCur_seedWaits (s : State) (f : Core → Core) : (s.modCur f).seedWaits = s.seedWaits := rfl
@[simp] theorem modCur_bankA (s : State) (f : Core → Core) : (s.modCur f).bankA = s.bankA := rfl
@[simp] theorem modCur_bankB (s : State) (f : Core → Core) : (s.modCur f).bankB = s.bankB := rfl
@[simp] theorem modCur_phSeq (s : State) (f : Core → Core) : (s.modCur f).phSeq = s.phSeq := rfl
@[simp] theorem modCur_phBank (s : State) (f : Core → Core) : (s.modCur f).phBank = s.phBank := rfl
@[simp] theorem modCur_phIndex (s : State) (f : Core → Core) : (s.modCur f).phIndex = s.phIndex := rfl
@[simp] theorem modCur_selOpen (s : State) (f : Core → Core) : (s.modCur f).selOpen = s.selOpen := rfl
@[simp] theorem modCur_selValid (s : State) (f : Core → Core) : (s.modCur f).selValid = s.selValid := rfl
@[simp] theorem modCur_selB (s : State) (f : Core → Core) : (s.modCur f).selB = s.selB := rfl
@[simp] theorem modCur_running (s : State) (f : Core → Core) : (s.modCur f).running = s.running := rfl
@[simp] theorem modCur_latched (s : State) (f : Core → Core) : (s.modCur f).latched = s.latched := rfl
@[simp] theorem modCur_bound (s : State) (f : Core → Core) : (s.modCur f).bound = s.bound := rfl
@[simp] theorem modCur_hcounts (s : State) (f : Core → Core) : (s.modCur f).hcounts = s.hcounts := rfl
@[simp] theorem modCur_slkKind (s : State) (f : Core → Core) : (s.modCur f).slkKind = s.slkKind := rfl
@[simp] theorem modCur_slkSpan (s : State) (f : Core → Core) : (s.modCur f).slkSpan = s.slkSpan := rfl
@[simp] theorem modCur_partctl (s : State) (f : Core → Core) : (s.modCur f).partctl = s.partctl := rfl
@[simp] theorem modCur_partq (s : State) (f : Core → Core) : (s.modCur f).partq = s.partq := rfl
@[simp] theorem modCur_stbase (s : State) (f : Core → Core) : (s.modCur f).stbase = s.stbase := rfl
@[simp] theorem modCur_ctxbase (s : State) (f : Core → Core) : (s.modCur f).ctxbase = s.ctxbase := rfl
@[simp] theorem modCur_slotIx (s : State) (f : Core → Core) : (s.modCur f).slotIx = s.slotIx := rfl
@[simp] theorem modCur_slotOn (s : State) (f : Core → Core) : (s.modCur f).slotOn = s.slotOn := rfl
@[simp] theorem modCur_slotEnd (s : State) (f : Core → Core) : (s.modCur f).slotEnd = s.slotEnd := rfl
@[simp] theorem modCur_slotClass (s : State) (f : Core → Core) : (s.modCur f).slotClass = s.slotClass := rfl
@[simp] theorem modCur_slotAudit (s : State) (f : Core → Core) : (s.modCur f).slotAudit = s.slotAudit := rfl
@[simp] theorem modCur_slotHeld (s : State) (f : Core → Core) : (s.modCur f).slotHeld = s.slotHeld := rfl
@[simp] theorem modCur_slotAt (s : State) (f : Core → Core) : (s.modCur f).slotAt = s.slotAt := rfl
@[simp] theorem modCur_curCtx (s : State) (f : Core → Core) : (s.modCur f).curCtx = s.curCtx := rfl
@[simp] theorem modCur_ctxs (s : State) (f : Core → Core) : (s.modCur f).ctxs = s.ctxs := rfl
@[simp] theorem modCur_ptbase (s : State) (f : Core → Core) : (s.modCur f).ptbase = s.ptbase := rfl
@[simp] theorem modCur_devid (s : State) (f : Core → Core) : (s.modCur f).devid = s.devid := rfl
@[simp] theorem modCur_spandly (s : State) (f : Core → Core) : (s.modCur f).spandly = s.spandly := rfl
@[simp] theorem modCur_tqNet (s : State) (f : Core → Core) : (s.modCur f).tqNet = s.tqNet := rfl
@[simp] theorem modCur_rtbase (s : State) (f : Core → Core) : (s.modCur f).rtbase = s.rtbase := rfl
@[simp] theorem modCur_ports (s : State) (f : Core → Core) : (s.modCur f).ports = s.ports := rfl
@[simp] theorem modCur_bridge (s : State) (f : Core → Core) : (s.modCur f).bridge = s.bridge := rfl
@[simp] theorem modCur_realign (s : State) (f : Core → Core) : (s.modCur f).realign = s.realign := rfl
@[simp] theorem modCur_jobDevs (s : State) (f : Core → Core) : (s.modCur f).jobDevs = s.jobDevs := rfl
@[simp] theorem modCur_treePorts (s : State) (f : Core → Core) : (s.modCur f).treePorts = s.treePorts := rfl
@[simp] theorem modCur_seedbase (s : State) (f : Core → Core) : (s.modCur f).seedbase = s.seedbase := rfl
@[simp] theorem modCur_seedcnt (s : State) (f : Core → Core) : (s.modCur f).seedcnt = s.seedcnt := rfl
@[simp] theorem modCur_kvpool (s : State) (f : Core → Core) : (s.modCur f).kvpool = s.kvpool := rfl
@[simp] theorem modCur_kvstate (s : State) (f : Core → Core) : (s.modCur f).kvstate = s.kvstate := rfl
@[simp] theorem modCur_kvlen (s : State) (f : Core → Core) : (s.modCur f).kvlen = s.kvlen := rfl
@[simp] theorem modCur_seedOn (s : State) (f : Core → Core) : (s.modCur f).seedOn = s.seedOn := rfl
@[simp] theorem modCur_seedHost (s : State) (f : Core → Core) : (s.modCur f).seedHost = s.seedHost := rfl
@[simp] theorem modCur_rcvPend (s : State) (f : Core → Core) : (s.modCur f).rcvPend = s.rcvPend := rfl
@[simp] theorem modCur_rcvReq (s : State) (f : Core → Core) : (s.modCur f).rcvReq = s.rcvReq := rfl
@[simp] theorem modCur_rcvId (s : State) (f : Core → Core) : (s.modCur f).rcvId = s.rcvId := rfl
@[simp] theorem modCur_rcvCyc (s : State) (f : Core → Core) : (s.modCur f).rcvCyc = s.rcvCyc := rfl
@[simp] theorem modCur_rcvbase (s : State) (f : Core → Core) : (s.modCur f).rcvbase = s.rcvbase := rfl
@[simp] theorem modCur_exposed (s : State) (f : Core → Core) : (s.modCur f).exposed = s.exposed := rfl
@[simp] theorem modCur_hostRng (s : State) (f : Core → Core) : (s.modCur f).hostRng = s.hostRng := rfl
@[simp] theorem modCur_hostOvf (s : State) (f : Core → Core) : (s.modCur f).hostOvf = s.hostOvf := rfl
@[simp] theorem modCur_audctl (s : State) (f : Core → Core) : (s.modCur f).audctl = s.audctl := rfl
@[simp] theorem modCur_audkey (s : State) (f : Core → Core) : (s.modCur f).audkey = s.audkey := rfl
@[simp] theorem modCur_audbase (s : State) (f : Core → Core) : (s.modCur f).audbase = s.audbase := rfl
@[simp] theorem modCur_auddrop (s : State) (f : Core → Core) : (s.modCur f).auddrop = s.auddrop := rfl
@[simp] theorem modCur_audmis (s : State) (f : Core → Core) : (s.modCur f).audmis = s.audmis := rfl
@[simp] theorem modCur_audpass (s : State) (f : Core → Core) : (s.modCur f).audpass = s.audpass := rfl
@[simp] theorem modCur_audblks (s : State) (f : Core → Core) : (s.modCur f).audblks = s.audblks := rfl
@[simp] theorem modCur_audHead (s : State) (f : Core → Core) : (s.modCur f).audHead = s.audHead := rfl
@[simp] theorem modCur_audNamed (s : State) (f : Core → Core) : (s.modCur f).audNamed = s.audNamed := rfl
@[simp] theorem modCur_falls (s : State) (f : Core → Core) : (s.modCur f).falls = s.falls := rfl
@[simp] theorem modCur_errbase (s : State) (f : Core → Core) : (s.modCur f).errbase = s.errbase := rfl
@[simp] theorem modCur_errhead (s : State) (f : Core → Core) : (s.modCur f).errhead = s.errhead := rfl
@[simp] theorem modCur_fwbox (s : State) (f : Core → Core) : (s.modCur f).fwbox = s.fwbox := rfl
@[simp] theorem modCur_health (s : State) (f : Core → Core) : (s.modCur f).health = s.health := rfl
@[simp] theorem modCur_startStep (s : State) (f : Core → Core) : (s.modCur f).startStep = s.startStep := rfl
@[simp] theorem modCur_startWhy (s : State) (f : Core → Core) : (s.modCur f).startWhy = s.startWhy := rfl
@[simp] theorem modCur_startFails (s : State) (f : Core → Core) : (s.modCur f).startFails = s.startFails := rfl
@[simp] theorem modCur_startMin (s : State) (f : Core → Core) : (s.modCur f).startMin = s.startMin := rfl
@[simp] theorem modCur_startUp (s : State) (f : Core → Core) : (s.modCur f).startUp = s.startUp := rfl
@[simp] theorem modCur_hw1base (s : State) (f : Core → Core) : (s.modCur f).hw1base = s.hw1base := rfl
@[simp] theorem modCur_tlbinv (s : State) (f : Core → Core) : (s.modCur f).tlbinv = s.tlbinv := rfl
@[simp] theorem modCur_tlbBusy (s : State) (f : Core → Core) : (s.modCur f).tlbBusy = s.tlbBusy := rfl
@[simp] theorem modCur_fused (s : State) (f : Core → Core) : (s.modCur f).fused = s.fused := rfl
@[simp] theorem modCur_image (s : State) (f : Core → Core) : (s.modCur f).image = s.image := rfl
@[simp] theorem modCur_svn (s : State) (f : Core → Core) : (s.modCur f).svn = s.svn := rfl
@[simp] theorem modCur_d2h (s : State) (f : Core → Core) : (s.modCur f).d2h = s.d2h := rfl
@[simp] theorem modCur_d2hCnt (s : State) (f : Core → Core) : (s.modCur f).d2hCnt = s.d2hCnt := rfl
@[simp] theorem modCur_h2d (s : State) (f : Core → Core) : (s.modCur f).h2d = s.h2d := rfl
@[simp] theorem modCur_hostCpl (s : State) (f : Core → Core) : (s.modCur f).hostCpl = s.hostCpl := rfl
@[simp] theorem modCur_hostUr (s : State) (f : Core → Core) : (s.modCur f).hostUr = s.hostUr := rfl

/-! ### The other fields after modMe -/

@[simp] theorem modMe_focus (s : State) (f : Strm → Strm) : (s.modMe f).focus = s.focus := rfl
@[simp] theorem modMe_turn (s : State) (f : Strm → Strm) : (s.modMe f).turn = s.turn := rfl
@[simp] theorem modMe_agenda (s : State) (f : Strm → Strm) : (s.modMe f).agenda = s.agenda := rfl
@[simp] theorem modMe_fresh (s : State) (f : Strm → Strm) : (s.modMe f).fresh = s.fresh := rfl
@[simp] theorem modMe_part (s : State) (f : Strm → Strm) : (s.modMe f).part = s.part := rfl
@[simp] theorem modMe_bundleId (s : State) (f : Strm → Strm) : (s.modMe f).bundleId = s.bundleId := rfl
@[simp] theorem modMe_power (s : State) (f : Strm → Strm) : (s.modMe f).power = s.power := rfl
@[simp] theorem modMe_cyc (s : State) (f : Strm → Strm) : (s.modMe f).cyc = s.cyc := rfl
@[simp] theorem modMe_mem (s : State) (f : Strm → Strm) : (s.modMe f).mem = s.mem := rfl
@[simp] theorem modMe_poison (s : State) (f : Strm → Strm) : (s.modMe f).poison = s.poison := rfl
@[simp] theorem modMe_accs (s : State) (f : Strm → Strm) : (s.modMe f).accs = s.accs := rfl
@[simp] theorem modMe_nextId (s : State) (f : Strm → Strm) : (s.modMe f).nextId = s.nextId := rfl
@[simp] theorem modMe_marks (s : State) (f : Strm → Strm) : (s.modMe f).marks = s.marks := rfl
@[simp] theorem modMe_clusters (s : State) (f : Strm → Strm) : (s.modMe f).clusters = s.clusters := rfl
@[simp] theorem modMe_nm (s : State) (f : Strm → Strm) : (s.modMe f).nm = s.nm := rfl
@[simp] theorem modMe_nmWaits (s : State) (f : Strm → Strm) : (s.modMe f).nmWaits = s.nmWaits := rfl
@[simp] theorem modMe_lastEnd (s : State) (f : Strm → Strm) : (s.modMe f).lastEnd = s.lastEnd := rfl
@[simp] theorem modMe_bridgeNet (s : State) (f : Strm → Strm) : (s.modMe f).bridgeNet = s.bridgeNet := rfl
@[simp] theorem modMe_seedWaits (s : State) (f : Strm → Strm) : (s.modMe f).seedWaits = s.seedWaits := rfl
@[simp] theorem modMe_bankA (s : State) (f : Strm → Strm) : (s.modMe f).bankA = s.bankA := rfl
@[simp] theorem modMe_bankB (s : State) (f : Strm → Strm) : (s.modMe f).bankB = s.bankB := rfl
@[simp] theorem modMe_phSeq (s : State) (f : Strm → Strm) : (s.modMe f).phSeq = s.phSeq := rfl
@[simp] theorem modMe_phBank (s : State) (f : Strm → Strm) : (s.modMe f).phBank = s.phBank := rfl
@[simp] theorem modMe_phIndex (s : State) (f : Strm → Strm) : (s.modMe f).phIndex = s.phIndex := rfl
@[simp] theorem modMe_selOpen (s : State) (f : Strm → Strm) : (s.modMe f).selOpen = s.selOpen := rfl
@[simp] theorem modMe_selValid (s : State) (f : Strm → Strm) : (s.modMe f).selValid = s.selValid := rfl
@[simp] theorem modMe_selB (s : State) (f : Strm → Strm) : (s.modMe f).selB = s.selB := rfl
@[simp] theorem modMe_running (s : State) (f : Strm → Strm) : (s.modMe f).running = s.running := rfl
@[simp] theorem modMe_latched (s : State) (f : Strm → Strm) : (s.modMe f).latched = s.latched := rfl
@[simp] theorem modMe_bound (s : State) (f : Strm → Strm) : (s.modMe f).bound = s.bound := rfl
@[simp] theorem modMe_hcounts (s : State) (f : Strm → Strm) : (s.modMe f).hcounts = s.hcounts := rfl
@[simp] theorem modMe_slkKind (s : State) (f : Strm → Strm) : (s.modMe f).slkKind = s.slkKind := rfl
@[simp] theorem modMe_slkSpan (s : State) (f : Strm → Strm) : (s.modMe f).slkSpan = s.slkSpan := rfl
@[simp] theorem modMe_partctl (s : State) (f : Strm → Strm) : (s.modMe f).partctl = s.partctl := rfl
@[simp] theorem modMe_partq (s : State) (f : Strm → Strm) : (s.modMe f).partq = s.partq := rfl
@[simp] theorem modMe_stbase (s : State) (f : Strm → Strm) : (s.modMe f).stbase = s.stbase := rfl
@[simp] theorem modMe_ctxbase (s : State) (f : Strm → Strm) : (s.modMe f).ctxbase = s.ctxbase := rfl
@[simp] theorem modMe_slotIx (s : State) (f : Strm → Strm) : (s.modMe f).slotIx = s.slotIx := rfl
@[simp] theorem modMe_slotOn (s : State) (f : Strm → Strm) : (s.modMe f).slotOn = s.slotOn := rfl
@[simp] theorem modMe_slotEnd (s : State) (f : Strm → Strm) : (s.modMe f).slotEnd = s.slotEnd := rfl
@[simp] theorem modMe_slotClass (s : State) (f : Strm → Strm) : (s.modMe f).slotClass = s.slotClass := rfl
@[simp] theorem modMe_slotAudit (s : State) (f : Strm → Strm) : (s.modMe f).slotAudit = s.slotAudit := rfl
@[simp] theorem modMe_slotHeld (s : State) (f : Strm → Strm) : (s.modMe f).slotHeld = s.slotHeld := rfl
@[simp] theorem modMe_slotAt (s : State) (f : Strm → Strm) : (s.modMe f).slotAt = s.slotAt := rfl
@[simp] theorem modMe_curCtx (s : State) (f : Strm → Strm) : (s.modMe f).curCtx = s.curCtx := rfl
@[simp] theorem modMe_ctxs (s : State) (f : Strm → Strm) : (s.modMe f).ctxs = s.ctxs := rfl
@[simp] theorem modMe_ptbase (s : State) (f : Strm → Strm) : (s.modMe f).ptbase = s.ptbase := rfl
@[simp] theorem modMe_devid (s : State) (f : Strm → Strm) : (s.modMe f).devid = s.devid := rfl
@[simp] theorem modMe_spandly (s : State) (f : Strm → Strm) : (s.modMe f).spandly = s.spandly := rfl
@[simp] theorem modMe_tqNet (s : State) (f : Strm → Strm) : (s.modMe f).tqNet = s.tqNet := rfl
@[simp] theorem modMe_rtbase (s : State) (f : Strm → Strm) : (s.modMe f).rtbase = s.rtbase := rfl
@[simp] theorem modMe_ports (s : State) (f : Strm → Strm) : (s.modMe f).ports = s.ports := rfl
@[simp] theorem modMe_bridge (s : State) (f : Strm → Strm) : (s.modMe f).bridge = s.bridge := rfl
@[simp] theorem modMe_realign (s : State) (f : Strm → Strm) : (s.modMe f).realign = s.realign := rfl
@[simp] theorem modMe_jobDevs (s : State) (f : Strm → Strm) : (s.modMe f).jobDevs = s.jobDevs := rfl
@[simp] theorem modMe_treePorts (s : State) (f : Strm → Strm) : (s.modMe f).treePorts = s.treePorts := rfl
@[simp] theorem modMe_seedbase (s : State) (f : Strm → Strm) : (s.modMe f).seedbase = s.seedbase := rfl
@[simp] theorem modMe_seedcnt (s : State) (f : Strm → Strm) : (s.modMe f).seedcnt = s.seedcnt := rfl
@[simp] theorem modMe_kvpool (s : State) (f : Strm → Strm) : (s.modMe f).kvpool = s.kvpool := rfl
@[simp] theorem modMe_kvstate (s : State) (f : Strm → Strm) : (s.modMe f).kvstate = s.kvstate := rfl
@[simp] theorem modMe_kvlen (s : State) (f : Strm → Strm) : (s.modMe f).kvlen = s.kvlen := rfl
@[simp] theorem modMe_seedOn (s : State) (f : Strm → Strm) : (s.modMe f).seedOn = s.seedOn := rfl
@[simp] theorem modMe_seedHost (s : State) (f : Strm → Strm) : (s.modMe f).seedHost = s.seedHost := rfl
@[simp] theorem modMe_rcvPend (s : State) (f : Strm → Strm) : (s.modMe f).rcvPend = s.rcvPend := rfl
@[simp] theorem modMe_rcvReq (s : State) (f : Strm → Strm) : (s.modMe f).rcvReq = s.rcvReq := rfl
@[simp] theorem modMe_rcvId (s : State) (f : Strm → Strm) : (s.modMe f).rcvId = s.rcvId := rfl
@[simp] theorem modMe_rcvCyc (s : State) (f : Strm → Strm) : (s.modMe f).rcvCyc = s.rcvCyc := rfl
@[simp] theorem modMe_rcvbase (s : State) (f : Strm → Strm) : (s.modMe f).rcvbase = s.rcvbase := rfl
@[simp] theorem modMe_exposed (s : State) (f : Strm → Strm) : (s.modMe f).exposed = s.exposed := rfl
@[simp] theorem modMe_hostRng (s : State) (f : Strm → Strm) : (s.modMe f).hostRng = s.hostRng := rfl
@[simp] theorem modMe_hostOvf (s : State) (f : Strm → Strm) : (s.modMe f).hostOvf = s.hostOvf := rfl
@[simp] theorem modMe_audctl (s : State) (f : Strm → Strm) : (s.modMe f).audctl = s.audctl := rfl
@[simp] theorem modMe_audkey (s : State) (f : Strm → Strm) : (s.modMe f).audkey = s.audkey := rfl
@[simp] theorem modMe_audbase (s : State) (f : Strm → Strm) : (s.modMe f).audbase = s.audbase := rfl
@[simp] theorem modMe_auddrop (s : State) (f : Strm → Strm) : (s.modMe f).auddrop = s.auddrop := rfl
@[simp] theorem modMe_audmis (s : State) (f : Strm → Strm) : (s.modMe f).audmis = s.audmis := rfl
@[simp] theorem modMe_audpass (s : State) (f : Strm → Strm) : (s.modMe f).audpass = s.audpass := rfl
@[simp] theorem modMe_audblks (s : State) (f : Strm → Strm) : (s.modMe f).audblks = s.audblks := rfl
@[simp] theorem modMe_audHead (s : State) (f : Strm → Strm) : (s.modMe f).audHead = s.audHead := rfl
@[simp] theorem modMe_audNamed (s : State) (f : Strm → Strm) : (s.modMe f).audNamed = s.audNamed := rfl
@[simp] theorem modMe_falls (s : State) (f : Strm → Strm) : (s.modMe f).falls = s.falls := rfl
@[simp] theorem modMe_errbase (s : State) (f : Strm → Strm) : (s.modMe f).errbase = s.errbase := rfl
@[simp] theorem modMe_errhead (s : State) (f : Strm → Strm) : (s.modMe f).errhead = s.errhead := rfl
@[simp] theorem modMe_fwbox (s : State) (f : Strm → Strm) : (s.modMe f).fwbox = s.fwbox := rfl
@[simp] theorem modMe_health (s : State) (f : Strm → Strm) : (s.modMe f).health = s.health := rfl
@[simp] theorem modMe_startStep (s : State) (f : Strm → Strm) : (s.modMe f).startStep = s.startStep := rfl
@[simp] theorem modMe_startWhy (s : State) (f : Strm → Strm) : (s.modMe f).startWhy = s.startWhy := rfl
@[simp] theorem modMe_startFails (s : State) (f : Strm → Strm) : (s.modMe f).startFails = s.startFails := rfl
@[simp] theorem modMe_startMin (s : State) (f : Strm → Strm) : (s.modMe f).startMin = s.startMin := rfl
@[simp] theorem modMe_startUp (s : State) (f : Strm → Strm) : (s.modMe f).startUp = s.startUp := rfl
@[simp] theorem modMe_hw1base (s : State) (f : Strm → Strm) : (s.modMe f).hw1base = s.hw1base := rfl
@[simp] theorem modMe_tlbinv (s : State) (f : Strm → Strm) : (s.modMe f).tlbinv = s.tlbinv := rfl
@[simp] theorem modMe_tlbBusy (s : State) (f : Strm → Strm) : (s.modMe f).tlbBusy = s.tlbBusy := rfl
@[simp] theorem modMe_fused (s : State) (f : Strm → Strm) : (s.modMe f).fused = s.fused := rfl
@[simp] theorem modMe_image (s : State) (f : Strm → Strm) : (s.modMe f).image = s.image := rfl
@[simp] theorem modMe_svn (s : State) (f : Strm → Strm) : (s.modMe f).svn = s.svn := rfl
@[simp] theorem modMe_d2h (s : State) (f : Strm → Strm) : (s.modMe f).d2h = s.d2h := rfl
@[simp] theorem modMe_d2hCnt (s : State) (f : Strm → Strm) : (s.modMe f).d2hCnt = s.d2hCnt := rfl
@[simp] theorem modMe_h2d (s : State) (f : Strm → Strm) : (s.modMe f).h2d = s.h2d := rfl
@[simp] theorem modMe_hostCpl (s : State) (f : Strm → Strm) : (s.modMe f).hostCpl = s.hostCpl := rfl
@[simp] theorem modMe_hostUr (s : State) (f : Strm → Strm) : (s.modMe f).hostUr = s.hostUr := rfl

/-! ### The other fields after modCluster -/

@[simp] theorem modCluster_focus (s : State) (c : ClusterId) (f : Cluster → Cluster) : (s.modCluster c f).focus = s.focus := rfl
@[simp] theorem modCluster_turn (s : State) (c : ClusterId) (f : Cluster → Cluster) : (s.modCluster c f).turn = s.turn := rfl
@[simp] theorem modCluster_agenda (s : State) (c : ClusterId) (f : Cluster → Cluster) : (s.modCluster c f).agenda = s.agenda := rfl
@[simp] theorem modCluster_fresh (s : State) (c : ClusterId) (f : Cluster → Cluster) : (s.modCluster c f).fresh = s.fresh := rfl
@[simp] theorem modCluster_part (s : State) (c : ClusterId) (f : Cluster → Cluster) : (s.modCluster c f).part = s.part := rfl
@[simp] theorem modCluster_bundleId (s : State) (c : ClusterId) (f : Cluster → Cluster) : (s.modCluster c f).bundleId = s.bundleId := rfl
@[simp] theorem modCluster_power (s : State) (c : ClusterId) (f : Cluster → Cluster) : (s.modCluster c f).power = s.power := rfl
@[simp] theorem modCluster_cyc (s : State) (c : ClusterId) (f : Cluster → Cluster) : (s.modCluster c f).cyc = s.cyc := rfl
@[simp] theorem modCluster_mem (s : State) (c : ClusterId) (f : Cluster → Cluster) : (s.modCluster c f).mem = s.mem := rfl
@[simp] theorem modCluster_poison (s : State) (c : ClusterId) (f : Cluster → Cluster) : (s.modCluster c f).poison = s.poison := rfl
@[simp] theorem modCluster_accs (s : State) (c : ClusterId) (f : Cluster → Cluster) : (s.modCluster c f).accs = s.accs := rfl
@[simp] theorem modCluster_nextId (s : State) (c : ClusterId) (f : Cluster → Cluster) : (s.modCluster c f).nextId = s.nextId := rfl
@[simp] theorem modCluster_marks (s : State) (c : ClusterId) (f : Cluster → Cluster) : (s.modCluster c f).marks = s.marks := rfl
@[simp] theorem modCluster_cores (s : State) (c : ClusterId) (f : Cluster → Cluster) : (s.modCluster c f).cores = s.cores := rfl
@[simp] theorem modCluster_nm (s : State) (c : ClusterId) (f : Cluster → Cluster) : (s.modCluster c f).nm = s.nm := rfl
@[simp] theorem modCluster_nmWaits (s : State) (c : ClusterId) (f : Cluster → Cluster) : (s.modCluster c f).nmWaits = s.nmWaits := rfl
@[simp] theorem modCluster_lastEnd (s : State) (c : ClusterId) (f : Cluster → Cluster) : (s.modCluster c f).lastEnd = s.lastEnd := rfl
@[simp] theorem modCluster_bridgeNet (s : State) (c : ClusterId) (f : Cluster → Cluster) : (s.modCluster c f).bridgeNet = s.bridgeNet := rfl
@[simp] theorem modCluster_seedWaits (s : State) (c : ClusterId) (f : Cluster → Cluster) : (s.modCluster c f).seedWaits = s.seedWaits := rfl
@[simp] theorem modCluster_bankA (s : State) (c : ClusterId) (f : Cluster → Cluster) : (s.modCluster c f).bankA = s.bankA := rfl
@[simp] theorem modCluster_bankB (s : State) (c : ClusterId) (f : Cluster → Cluster) : (s.modCluster c f).bankB = s.bankB := rfl
@[simp] theorem modCluster_phSeq (s : State) (c : ClusterId) (f : Cluster → Cluster) : (s.modCluster c f).phSeq = s.phSeq := rfl
@[simp] theorem modCluster_phBank (s : State) (c : ClusterId) (f : Cluster → Cluster) : (s.modCluster c f).phBank = s.phBank := rfl
@[simp] theorem modCluster_phIndex (s : State) (c : ClusterId) (f : Cluster → Cluster) : (s.modCluster c f).phIndex = s.phIndex := rfl
@[simp] theorem modCluster_selOpen (s : State) (c : ClusterId) (f : Cluster → Cluster) : (s.modCluster c f).selOpen = s.selOpen := rfl
@[simp] theorem modCluster_selValid (s : State) (c : ClusterId) (f : Cluster → Cluster) : (s.modCluster c f).selValid = s.selValid := rfl
@[simp] theorem modCluster_selB (s : State) (c : ClusterId) (f : Cluster → Cluster) : (s.modCluster c f).selB = s.selB := rfl
@[simp] theorem modCluster_running (s : State) (c : ClusterId) (f : Cluster → Cluster) : (s.modCluster c f).running = s.running := rfl
@[simp] theorem modCluster_latched (s : State) (c : ClusterId) (f : Cluster → Cluster) : (s.modCluster c f).latched = s.latched := rfl
@[simp] theorem modCluster_bound (s : State) (c : ClusterId) (f : Cluster → Cluster) : (s.modCluster c f).bound = s.bound := rfl
@[simp] theorem modCluster_hcounts (s : State) (c : ClusterId) (f : Cluster → Cluster) : (s.modCluster c f).hcounts = s.hcounts := rfl
@[simp] theorem modCluster_slkKind (s : State) (c : ClusterId) (f : Cluster → Cluster) : (s.modCluster c f).slkKind = s.slkKind := rfl
@[simp] theorem modCluster_slkSpan (s : State) (c : ClusterId) (f : Cluster → Cluster) : (s.modCluster c f).slkSpan = s.slkSpan := rfl
@[simp] theorem modCluster_partctl (s : State) (c : ClusterId) (f : Cluster → Cluster) : (s.modCluster c f).partctl = s.partctl := rfl
@[simp] theorem modCluster_partq (s : State) (c : ClusterId) (f : Cluster → Cluster) : (s.modCluster c f).partq = s.partq := rfl
@[simp] theorem modCluster_stbase (s : State) (c : ClusterId) (f : Cluster → Cluster) : (s.modCluster c f).stbase = s.stbase := rfl
@[simp] theorem modCluster_ctxbase (s : State) (c : ClusterId) (f : Cluster → Cluster) : (s.modCluster c f).ctxbase = s.ctxbase := rfl
@[simp] theorem modCluster_slotIx (s : State) (c : ClusterId) (f : Cluster → Cluster) : (s.modCluster c f).slotIx = s.slotIx := rfl
@[simp] theorem modCluster_slotOn (s : State) (c : ClusterId) (f : Cluster → Cluster) : (s.modCluster c f).slotOn = s.slotOn := rfl
@[simp] theorem modCluster_slotEnd (s : State) (c : ClusterId) (f : Cluster → Cluster) : (s.modCluster c f).slotEnd = s.slotEnd := rfl
@[simp] theorem modCluster_slotClass (s : State) (c : ClusterId) (f : Cluster → Cluster) : (s.modCluster c f).slotClass = s.slotClass := rfl
@[simp] theorem modCluster_slotAudit (s : State) (c : ClusterId) (f : Cluster → Cluster) : (s.modCluster c f).slotAudit = s.slotAudit := rfl
@[simp] theorem modCluster_slotHeld (s : State) (c : ClusterId) (f : Cluster → Cluster) : (s.modCluster c f).slotHeld = s.slotHeld := rfl
@[simp] theorem modCluster_slotAt (s : State) (c : ClusterId) (f : Cluster → Cluster) : (s.modCluster c f).slotAt = s.slotAt := rfl
@[simp] theorem modCluster_curCtx (s : State) (c : ClusterId) (f : Cluster → Cluster) : (s.modCluster c f).curCtx = s.curCtx := rfl
@[simp] theorem modCluster_ctxs (s : State) (c : ClusterId) (f : Cluster → Cluster) : (s.modCluster c f).ctxs = s.ctxs := rfl
@[simp] theorem modCluster_ptbase (s : State) (c : ClusterId) (f : Cluster → Cluster) : (s.modCluster c f).ptbase = s.ptbase := rfl
@[simp] theorem modCluster_devid (s : State) (c : ClusterId) (f : Cluster → Cluster) : (s.modCluster c f).devid = s.devid := rfl
@[simp] theorem modCluster_spandly (s : State) (c : ClusterId) (f : Cluster → Cluster) : (s.modCluster c f).spandly = s.spandly := rfl
@[simp] theorem modCluster_tqNet (s : State) (c : ClusterId) (f : Cluster → Cluster) : (s.modCluster c f).tqNet = s.tqNet := rfl
@[simp] theorem modCluster_rtbase (s : State) (c : ClusterId) (f : Cluster → Cluster) : (s.modCluster c f).rtbase = s.rtbase := rfl
@[simp] theorem modCluster_ports (s : State) (c : ClusterId) (f : Cluster → Cluster) : (s.modCluster c f).ports = s.ports := rfl
@[simp] theorem modCluster_bridge (s : State) (c : ClusterId) (f : Cluster → Cluster) : (s.modCluster c f).bridge = s.bridge := rfl
@[simp] theorem modCluster_realign (s : State) (c : ClusterId) (f : Cluster → Cluster) : (s.modCluster c f).realign = s.realign := rfl
@[simp] theorem modCluster_jobDevs (s : State) (c : ClusterId) (f : Cluster → Cluster) : (s.modCluster c f).jobDevs = s.jobDevs := rfl
@[simp] theorem modCluster_treePorts (s : State) (c : ClusterId) (f : Cluster → Cluster) : (s.modCluster c f).treePorts = s.treePorts := rfl
@[simp] theorem modCluster_seedbase (s : State) (c : ClusterId) (f : Cluster → Cluster) : (s.modCluster c f).seedbase = s.seedbase := rfl
@[simp] theorem modCluster_seedcnt (s : State) (c : ClusterId) (f : Cluster → Cluster) : (s.modCluster c f).seedcnt = s.seedcnt := rfl
@[simp] theorem modCluster_kvpool (s : State) (c : ClusterId) (f : Cluster → Cluster) : (s.modCluster c f).kvpool = s.kvpool := rfl
@[simp] theorem modCluster_kvstate (s : State) (c : ClusterId) (f : Cluster → Cluster) : (s.modCluster c f).kvstate = s.kvstate := rfl
@[simp] theorem modCluster_kvlen (s : State) (c : ClusterId) (f : Cluster → Cluster) : (s.modCluster c f).kvlen = s.kvlen := rfl
@[simp] theorem modCluster_seedOn (s : State) (c : ClusterId) (f : Cluster → Cluster) : (s.modCluster c f).seedOn = s.seedOn := rfl
@[simp] theorem modCluster_seedHost (s : State) (c : ClusterId) (f : Cluster → Cluster) : (s.modCluster c f).seedHost = s.seedHost := rfl
@[simp] theorem modCluster_rcvPend (s : State) (c : ClusterId) (f : Cluster → Cluster) : (s.modCluster c f).rcvPend = s.rcvPend := rfl
@[simp] theorem modCluster_rcvReq (s : State) (c : ClusterId) (f : Cluster → Cluster) : (s.modCluster c f).rcvReq = s.rcvReq := rfl
@[simp] theorem modCluster_rcvId (s : State) (c : ClusterId) (f : Cluster → Cluster) : (s.modCluster c f).rcvId = s.rcvId := rfl
@[simp] theorem modCluster_rcvCyc (s : State) (c : ClusterId) (f : Cluster → Cluster) : (s.modCluster c f).rcvCyc = s.rcvCyc := rfl
@[simp] theorem modCluster_rcvbase (s : State) (c : ClusterId) (f : Cluster → Cluster) : (s.modCluster c f).rcvbase = s.rcvbase := rfl
@[simp] theorem modCluster_exposed (s : State) (c : ClusterId) (f : Cluster → Cluster) : (s.modCluster c f).exposed = s.exposed := rfl
@[simp] theorem modCluster_hostRng (s : State) (c : ClusterId) (f : Cluster → Cluster) : (s.modCluster c f).hostRng = s.hostRng := rfl
@[simp] theorem modCluster_hostOvf (s : State) (c : ClusterId) (f : Cluster → Cluster) : (s.modCluster c f).hostOvf = s.hostOvf := rfl
@[simp] theorem modCluster_audctl (s : State) (c : ClusterId) (f : Cluster → Cluster) : (s.modCluster c f).audctl = s.audctl := rfl
@[simp] theorem modCluster_audkey (s : State) (c : ClusterId) (f : Cluster → Cluster) : (s.modCluster c f).audkey = s.audkey := rfl
@[simp] theorem modCluster_audbase (s : State) (c : ClusterId) (f : Cluster → Cluster) : (s.modCluster c f).audbase = s.audbase := rfl
@[simp] theorem modCluster_auddrop (s : State) (c : ClusterId) (f : Cluster → Cluster) : (s.modCluster c f).auddrop = s.auddrop := rfl
@[simp] theorem modCluster_audmis (s : State) (c : ClusterId) (f : Cluster → Cluster) : (s.modCluster c f).audmis = s.audmis := rfl
@[simp] theorem modCluster_audpass (s : State) (c : ClusterId) (f : Cluster → Cluster) : (s.modCluster c f).audpass = s.audpass := rfl
@[simp] theorem modCluster_audblks (s : State) (c : ClusterId) (f : Cluster → Cluster) : (s.modCluster c f).audblks = s.audblks := rfl
@[simp] theorem modCluster_audHead (s : State) (c : ClusterId) (f : Cluster → Cluster) : (s.modCluster c f).audHead = s.audHead := rfl
@[simp] theorem modCluster_audNamed (s : State) (c : ClusterId) (f : Cluster → Cluster) : (s.modCluster c f).audNamed = s.audNamed := rfl
@[simp] theorem modCluster_falls (s : State) (c : ClusterId) (f : Cluster → Cluster) : (s.modCluster c f).falls = s.falls := rfl
@[simp] theorem modCluster_errbase (s : State) (c : ClusterId) (f : Cluster → Cluster) : (s.modCluster c f).errbase = s.errbase := rfl
@[simp] theorem modCluster_errhead (s : State) (c : ClusterId) (f : Cluster → Cluster) : (s.modCluster c f).errhead = s.errhead := rfl
@[simp] theorem modCluster_fwbox (s : State) (c : ClusterId) (f : Cluster → Cluster) : (s.modCluster c f).fwbox = s.fwbox := rfl
@[simp] theorem modCluster_health (s : State) (c : ClusterId) (f : Cluster → Cluster) : (s.modCluster c f).health = s.health := rfl
@[simp] theorem modCluster_startStep (s : State) (c : ClusterId) (f : Cluster → Cluster) : (s.modCluster c f).startStep = s.startStep := rfl
@[simp] theorem modCluster_startWhy (s : State) (c : ClusterId) (f : Cluster → Cluster) : (s.modCluster c f).startWhy = s.startWhy := rfl
@[simp] theorem modCluster_startFails (s : State) (c : ClusterId) (f : Cluster → Cluster) : (s.modCluster c f).startFails = s.startFails := rfl
@[simp] theorem modCluster_startMin (s : State) (c : ClusterId) (f : Cluster → Cluster) : (s.modCluster c f).startMin = s.startMin := rfl
@[simp] theorem modCluster_startUp (s : State) (c : ClusterId) (f : Cluster → Cluster) : (s.modCluster c f).startUp = s.startUp := rfl
@[simp] theorem modCluster_hw1base (s : State) (c : ClusterId) (f : Cluster → Cluster) : (s.modCluster c f).hw1base = s.hw1base := rfl
@[simp] theorem modCluster_tlbinv (s : State) (c : ClusterId) (f : Cluster → Cluster) : (s.modCluster c f).tlbinv = s.tlbinv := rfl
@[simp] theorem modCluster_tlbBusy (s : State) (c : ClusterId) (f : Cluster → Cluster) : (s.modCluster c f).tlbBusy = s.tlbBusy := rfl
@[simp] theorem modCluster_fused (s : State) (c : ClusterId) (f : Cluster → Cluster) : (s.modCluster c f).fused = s.fused := rfl
@[simp] theorem modCluster_image (s : State) (c : ClusterId) (f : Cluster → Cluster) : (s.modCluster c f).image = s.image := rfl
@[simp] theorem modCluster_svn (s : State) (c : ClusterId) (f : Cluster → Cluster) : (s.modCluster c f).svn = s.svn := rfl
@[simp] theorem modCluster_d2h (s : State) (c : ClusterId) (f : Cluster → Cluster) : (s.modCluster c f).d2h = s.d2h := rfl
@[simp] theorem modCluster_d2hCnt (s : State) (c : ClusterId) (f : Cluster → Cluster) : (s.modCluster c f).d2hCnt = s.d2hCnt := rfl
@[simp] theorem modCluster_h2d (s : State) (c : ClusterId) (f : Cluster → Cluster) : (s.modCluster c f).h2d = s.h2d := rfl
@[simp] theorem modCluster_hostCpl (s : State) (c : ClusterId) (f : Cluster → Cluster) : (s.modCluster c f).hostCpl = s.hostCpl := rfl
@[simp] theorem modCluster_hostUr (s : State) (c : ClusterId) (f : Cluster → Cluster) : (s.modCluster c f).hostUr = s.hostUr := rfl

/-! ### The other fields after firmware -/

@[simp] theorem firmware_focus (s : State) (n c : Nat) (b : Bool) (z : Nat) (i : Word) (ws : List Word) : (s.firmware n c b z i ws).focus = s.focus := rfl
@[simp] theorem firmware_turn (s : State) (n c : Nat) (b : Bool) (z : Nat) (i : Word) (ws : List Word) : (s.firmware n c b z i ws).turn = s.turn := rfl
@[simp] theorem firmware_agenda (s : State) (n c : Nat) (b : Bool) (z : Nat) (i : Word) (ws : List Word) : (s.firmware n c b z i ws).agenda = s.agenda := rfl
@[simp] theorem firmware_fresh (s : State) (n c : Nat) (b : Bool) (z : Nat) (i : Word) (ws : List Word) : (s.firmware n c b z i ws).fresh = s.fresh := rfl
@[simp] theorem firmware_part (s : State) (n c : Nat) (b : Bool) (z : Nat) (i : Word) (ws : List Word) : (s.firmware n c b z i ws).part = s.part := rfl
@[simp] theorem firmware_bundleId (s : State) (n c : Nat) (b : Bool) (z : Nat) (i : Word) (ws : List Word) : (s.firmware n c b z i ws).bundleId = s.bundleId := rfl
@[simp] theorem firmware_power (s : State) (n c : Nat) (b : Bool) (z : Nat) (i : Word) (ws : List Word) : (s.firmware n c b z i ws).power = s.power := rfl
@[simp] theorem firmware_cyc (s : State) (n c : Nat) (b : Bool) (z : Nat) (i : Word) (ws : List Word) : (s.firmware n c b z i ws).cyc = s.cyc := rfl
@[simp] theorem firmware_mem (s : State) (n c : Nat) (b : Bool) (z : Nat) (i : Word) (ws : List Word) : (s.firmware n c b z i ws).mem = s.mem := rfl
@[simp] theorem firmware_poison (s : State) (n c : Nat) (b : Bool) (z : Nat) (i : Word) (ws : List Word) : (s.firmware n c b z i ws).poison = s.poison := rfl
@[simp] theorem firmware_accs (s : State) (n c : Nat) (b : Bool) (z : Nat) (i : Word) (ws : List Word) : (s.firmware n c b z i ws).accs = s.accs := rfl
@[simp] theorem firmware_nextId (s : State) (n c : Nat) (b : Bool) (z : Nat) (i : Word) (ws : List Word) : (s.firmware n c b z i ws).nextId = s.nextId := rfl
@[simp] theorem firmware_marks (s : State) (n c : Nat) (b : Bool) (z : Nat) (i : Word) (ws : List Word) : (s.firmware n c b z i ws).marks = s.marks := rfl
@[simp] theorem firmware_cores (s : State) (n c : Nat) (b : Bool) (z : Nat) (i : Word) (ws : List Word) : (s.firmware n c b z i ws).cores = s.cores := rfl
@[simp] theorem firmware_clusters (s : State) (n c : Nat) (b : Bool) (z : Nat) (i : Word) (ws : List Word) : (s.firmware n c b z i ws).clusters = s.clusters := rfl
@[simp] theorem firmware_nm (s : State) (n c : Nat) (b : Bool) (z : Nat) (i : Word) (ws : List Word) : (s.firmware n c b z i ws).nm = s.nm := rfl
@[simp] theorem firmware_nmWaits (s : State) (n c : Nat) (b : Bool) (z : Nat) (i : Word) (ws : List Word) : (s.firmware n c b z i ws).nmWaits = s.nmWaits := rfl
@[simp] theorem firmware_lastEnd (s : State) (n c : Nat) (b : Bool) (z : Nat) (i : Word) (ws : List Word) : (s.firmware n c b z i ws).lastEnd = s.lastEnd := rfl
@[simp] theorem firmware_bridgeNet (s : State) (n c : Nat) (b : Bool) (z : Nat) (i : Word) (ws : List Word) : (s.firmware n c b z i ws).bridgeNet = s.bridgeNet := rfl
@[simp] theorem firmware_seedWaits (s : State) (n c : Nat) (b : Bool) (z : Nat) (i : Word) (ws : List Word) : (s.firmware n c b z i ws).seedWaits = s.seedWaits := rfl
@[simp] theorem firmware_bankA (s : State) (n c : Nat) (b : Bool) (z : Nat) (i : Word) (ws : List Word) : (s.firmware n c b z i ws).bankA = s.bankA := rfl
@[simp] theorem firmware_bankB (s : State) (n c : Nat) (b : Bool) (z : Nat) (i : Word) (ws : List Word) : (s.firmware n c b z i ws).bankB = s.bankB := rfl
@[simp] theorem firmware_phSeq (s : State) (n c : Nat) (b : Bool) (z : Nat) (i : Word) (ws : List Word) : (s.firmware n c b z i ws).phSeq = s.phSeq := rfl
@[simp] theorem firmware_phBank (s : State) (n c : Nat) (b : Bool) (z : Nat) (i : Word) (ws : List Word) : (s.firmware n c b z i ws).phBank = s.phBank := rfl
@[simp] theorem firmware_phIndex (s : State) (n c : Nat) (b : Bool) (z : Nat) (i : Word) (ws : List Word) : (s.firmware n c b z i ws).phIndex = s.phIndex := rfl
@[simp] theorem firmware_selOpen (s : State) (n c : Nat) (b : Bool) (z : Nat) (i : Word) (ws : List Word) : (s.firmware n c b z i ws).selOpen = s.selOpen := rfl
@[simp] theorem firmware_selValid (s : State) (n c : Nat) (b : Bool) (z : Nat) (i : Word) (ws : List Word) : (s.firmware n c b z i ws).selValid = s.selValid := rfl
@[simp] theorem firmware_selB (s : State) (n c : Nat) (b : Bool) (z : Nat) (i : Word) (ws : List Word) : (s.firmware n c b z i ws).selB = s.selB := rfl
@[simp] theorem firmware_running (s : State) (n c : Nat) (b : Bool) (z : Nat) (i : Word) (ws : List Word) : (s.firmware n c b z i ws).running = s.running := rfl
@[simp] theorem firmware_latched (s : State) (n c : Nat) (b : Bool) (z : Nat) (i : Word) (ws : List Word) : (s.firmware n c b z i ws).latched = s.latched := rfl
@[simp] theorem firmware_bound (s : State) (n c : Nat) (b : Bool) (z : Nat) (i : Word) (ws : List Word) : (s.firmware n c b z i ws).bound = s.bound := rfl
@[simp] theorem firmware_hcounts (s : State) (n c : Nat) (b : Bool) (z : Nat) (i : Word) (ws : List Word) : (s.firmware n c b z i ws).hcounts = s.hcounts := rfl
@[simp] theorem firmware_slkKind (s : State) (n c : Nat) (b : Bool) (z : Nat) (i : Word) (ws : List Word) : (s.firmware n c b z i ws).slkKind = s.slkKind := rfl
@[simp] theorem firmware_slkSpan (s : State) (n c : Nat) (b : Bool) (z : Nat) (i : Word) (ws : List Word) : (s.firmware n c b z i ws).slkSpan = s.slkSpan := rfl
@[simp] theorem firmware_partctl (s : State) (n c : Nat) (b : Bool) (z : Nat) (i : Word) (ws : List Word) : (s.firmware n c b z i ws).partctl = s.partctl := rfl
@[simp] theorem firmware_partq (s : State) (n c : Nat) (b : Bool) (z : Nat) (i : Word) (ws : List Word) : (s.firmware n c b z i ws).partq = s.partq := rfl
@[simp] theorem firmware_stbase (s : State) (n c : Nat) (b : Bool) (z : Nat) (i : Word) (ws : List Word) : (s.firmware n c b z i ws).stbase = s.stbase := rfl
@[simp] theorem firmware_ctxbase (s : State) (n c : Nat) (b : Bool) (z : Nat) (i : Word) (ws : List Word) : (s.firmware n c b z i ws).ctxbase = s.ctxbase := rfl
@[simp] theorem firmware_slotIx (s : State) (n c : Nat) (b : Bool) (z : Nat) (i : Word) (ws : List Word) : (s.firmware n c b z i ws).slotIx = s.slotIx := rfl
@[simp] theorem firmware_slotOn (s : State) (n c : Nat) (b : Bool) (z : Nat) (i : Word) (ws : List Word) : (s.firmware n c b z i ws).slotOn = s.slotOn := rfl
@[simp] theorem firmware_slotEnd (s : State) (n c : Nat) (b : Bool) (z : Nat) (i : Word) (ws : List Word) : (s.firmware n c b z i ws).slotEnd = s.slotEnd := rfl
@[simp] theorem firmware_slotClass (s : State) (n c : Nat) (b : Bool) (z : Nat) (i : Word) (ws : List Word) : (s.firmware n c b z i ws).slotClass = s.slotClass := rfl
@[simp] theorem firmware_slotAudit (s : State) (n c : Nat) (b : Bool) (z : Nat) (i : Word) (ws : List Word) : (s.firmware n c b z i ws).slotAudit = s.slotAudit := rfl
@[simp] theorem firmware_slotHeld (s : State) (n c : Nat) (b : Bool) (z : Nat) (i : Word) (ws : List Word) : (s.firmware n c b z i ws).slotHeld = s.slotHeld := rfl
@[simp] theorem firmware_slotAt (s : State) (n c : Nat) (b : Bool) (z : Nat) (i : Word) (ws : List Word) : (s.firmware n c b z i ws).slotAt = s.slotAt := rfl
@[simp] theorem firmware_curCtx (s : State) (n c : Nat) (b : Bool) (z : Nat) (i : Word) (ws : List Word) : (s.firmware n c b z i ws).curCtx = s.curCtx := rfl
@[simp] theorem firmware_ctxs (s : State) (n c : Nat) (b : Bool) (z : Nat) (i : Word) (ws : List Word) : (s.firmware n c b z i ws).ctxs = s.ctxs := rfl
@[simp] theorem firmware_ptbase (s : State) (n c : Nat) (b : Bool) (z : Nat) (i : Word) (ws : List Word) : (s.firmware n c b z i ws).ptbase = s.ptbase := rfl
@[simp] theorem firmware_devid (s : State) (n c : Nat) (b : Bool) (z : Nat) (i : Word) (ws : List Word) : (s.firmware n c b z i ws).devid = s.devid := rfl
@[simp] theorem firmware_spandly (s : State) (n c : Nat) (b : Bool) (z : Nat) (i : Word) (ws : List Word) : (s.firmware n c b z i ws).spandly = s.spandly := rfl
@[simp] theorem firmware_tqNet (s : State) (n c : Nat) (b : Bool) (z : Nat) (i : Word) (ws : List Word) : (s.firmware n c b z i ws).tqNet = s.tqNet := rfl
@[simp] theorem firmware_rtbase (s : State) (n c : Nat) (b : Bool) (z : Nat) (i : Word) (ws : List Word) : (s.firmware n c b z i ws).rtbase = s.rtbase := rfl
@[simp] theorem firmware_ports (s : State) (n c : Nat) (b : Bool) (z : Nat) (i : Word) (ws : List Word) : (s.firmware n c b z i ws).ports = s.ports := rfl
@[simp] theorem firmware_bridge (s : State) (n c : Nat) (b : Bool) (z : Nat) (i : Word) (ws : List Word) : (s.firmware n c b z i ws).bridge = s.bridge := rfl
@[simp] theorem firmware_realign (s : State) (n c : Nat) (b : Bool) (z : Nat) (i : Word) (ws : List Word) : (s.firmware n c b z i ws).realign = s.realign := rfl
@[simp] theorem firmware_jobDevs (s : State) (n c : Nat) (b : Bool) (z : Nat) (i : Word) (ws : List Word) : (s.firmware n c b z i ws).jobDevs = s.jobDevs := rfl
@[simp] theorem firmware_treePorts (s : State) (n c : Nat) (b : Bool) (z : Nat) (i : Word) (ws : List Word) : (s.firmware n c b z i ws).treePorts = s.treePorts := rfl
@[simp] theorem firmware_seedbase (s : State) (n c : Nat) (b : Bool) (z : Nat) (i : Word) (ws : List Word) : (s.firmware n c b z i ws).seedbase = s.seedbase := rfl
@[simp] theorem firmware_seedcnt (s : State) (n c : Nat) (b : Bool) (z : Nat) (i : Word) (ws : List Word) : (s.firmware n c b z i ws).seedcnt = s.seedcnt := rfl
@[simp] theorem firmware_kvpool (s : State) (n c : Nat) (b : Bool) (z : Nat) (i : Word) (ws : List Word) : (s.firmware n c b z i ws).kvpool = s.kvpool := rfl
@[simp] theorem firmware_kvstate (s : State) (n c : Nat) (b : Bool) (z : Nat) (i : Word) (ws : List Word) : (s.firmware n c b z i ws).kvstate = s.kvstate := rfl
@[simp] theorem firmware_kvlen (s : State) (n c : Nat) (b : Bool) (z : Nat) (i : Word) (ws : List Word) : (s.firmware n c b z i ws).kvlen = s.kvlen := rfl
@[simp] theorem firmware_seedOn (s : State) (n c : Nat) (b : Bool) (z : Nat) (i : Word) (ws : List Word) : (s.firmware n c b z i ws).seedOn = s.seedOn := rfl
@[simp] theorem firmware_seedHost (s : State) (n c : Nat) (b : Bool) (z : Nat) (i : Word) (ws : List Word) : (s.firmware n c b z i ws).seedHost = s.seedHost := rfl
@[simp] theorem firmware_rcvPend (s : State) (n c : Nat) (b : Bool) (z : Nat) (i : Word) (ws : List Word) : (s.firmware n c b z i ws).rcvPend = s.rcvPend := rfl
@[simp] theorem firmware_rcvReq (s : State) (n c : Nat) (b : Bool) (z : Nat) (i : Word) (ws : List Word) : (s.firmware n c b z i ws).rcvReq = s.rcvReq := rfl
@[simp] theorem firmware_rcvId (s : State) (n c : Nat) (b : Bool) (z : Nat) (i : Word) (ws : List Word) : (s.firmware n c b z i ws).rcvId = s.rcvId := rfl
@[simp] theorem firmware_rcvCyc (s : State) (n c : Nat) (b : Bool) (z : Nat) (i : Word) (ws : List Word) : (s.firmware n c b z i ws).rcvCyc = s.rcvCyc := rfl
@[simp] theorem firmware_rcvbase (s : State) (n c : Nat) (b : Bool) (z : Nat) (i : Word) (ws : List Word) : (s.firmware n c b z i ws).rcvbase = s.rcvbase := rfl
@[simp] theorem firmware_exposed (s : State) (n c : Nat) (b : Bool) (z : Nat) (i : Word) (ws : List Word) : (s.firmware n c b z i ws).exposed = s.exposed := rfl
@[simp] theorem firmware_hostRng (s : State) (n c : Nat) (b : Bool) (z : Nat) (i : Word) (ws : List Word) : (s.firmware n c b z i ws).hostRng = s.hostRng := rfl
@[simp] theorem firmware_hostOvf (s : State) (n c : Nat) (b : Bool) (z : Nat) (i : Word) (ws : List Word) : (s.firmware n c b z i ws).hostOvf = s.hostOvf := rfl
@[simp] theorem firmware_audctl (s : State) (n c : Nat) (b : Bool) (z : Nat) (i : Word) (ws : List Word) : (s.firmware n c b z i ws).audctl = s.audctl := rfl
@[simp] theorem firmware_audkey (s : State) (n c : Nat) (b : Bool) (z : Nat) (i : Word) (ws : List Word) : (s.firmware n c b z i ws).audkey = s.audkey := rfl
@[simp] theorem firmware_audbase (s : State) (n c : Nat) (b : Bool) (z : Nat) (i : Word) (ws : List Word) : (s.firmware n c b z i ws).audbase = s.audbase := rfl
@[simp] theorem firmware_auddrop (s : State) (n c : Nat) (b : Bool) (z : Nat) (i : Word) (ws : List Word) : (s.firmware n c b z i ws).auddrop = s.auddrop := rfl
@[simp] theorem firmware_audmis (s : State) (n c : Nat) (b : Bool) (z : Nat) (i : Word) (ws : List Word) : (s.firmware n c b z i ws).audmis = s.audmis := rfl
@[simp] theorem firmware_audpass (s : State) (n c : Nat) (b : Bool) (z : Nat) (i : Word) (ws : List Word) : (s.firmware n c b z i ws).audpass = s.audpass := rfl
@[simp] theorem firmware_audblks (s : State) (n c : Nat) (b : Bool) (z : Nat) (i : Word) (ws : List Word) : (s.firmware n c b z i ws).audblks = s.audblks := rfl
@[simp] theorem firmware_audHead (s : State) (n c : Nat) (b : Bool) (z : Nat) (i : Word) (ws : List Word) : (s.firmware n c b z i ws).audHead = s.audHead := rfl
@[simp] theorem firmware_audNamed (s : State) (n c : Nat) (b : Bool) (z : Nat) (i : Word) (ws : List Word) : (s.firmware n c b z i ws).audNamed = s.audNamed := rfl
@[simp] theorem firmware_falls (s : State) (n c : Nat) (b : Bool) (z : Nat) (i : Word) (ws : List Word) : (s.firmware n c b z i ws).falls = s.falls := rfl
@[simp] theorem firmware_errbase (s : State) (n c : Nat) (b : Bool) (z : Nat) (i : Word) (ws : List Word) : (s.firmware n c b z i ws).errbase = s.errbase := rfl
@[simp] theorem firmware_errhead (s : State) (n c : Nat) (b : Bool) (z : Nat) (i : Word) (ws : List Word) : (s.firmware n c b z i ws).errhead = s.errhead := rfl
@[simp] theorem firmware_health (s : State) (n c : Nat) (b : Bool) (z : Nat) (i : Word) (ws : List Word) : (s.firmware n c b z i ws).health = s.health := rfl
@[simp] theorem firmware_startStep (s : State) (n c : Nat) (b : Bool) (z : Nat) (i : Word) (ws : List Word) : (s.firmware n c b z i ws).startStep = s.startStep := rfl
@[simp] theorem firmware_startWhy (s : State) (n c : Nat) (b : Bool) (z : Nat) (i : Word) (ws : List Word) : (s.firmware n c b z i ws).startWhy = s.startWhy := rfl
@[simp] theorem firmware_startFails (s : State) (n c : Nat) (b : Bool) (z : Nat) (i : Word) (ws : List Word) : (s.firmware n c b z i ws).startFails = s.startFails := rfl
@[simp] theorem firmware_startMin (s : State) (n c : Nat) (b : Bool) (z : Nat) (i : Word) (ws : List Word) : (s.firmware n c b z i ws).startMin = s.startMin := rfl
@[simp] theorem firmware_startUp (s : State) (n c : Nat) (b : Bool) (z : Nat) (i : Word) (ws : List Word) : (s.firmware n c b z i ws).startUp = s.startUp := rfl
@[simp] theorem firmware_hw1base (s : State) (n c : Nat) (b : Bool) (z : Nat) (i : Word) (ws : List Word) : (s.firmware n c b z i ws).hw1base = s.hw1base := rfl
@[simp] theorem firmware_tlbinv (s : State) (n c : Nat) (b : Bool) (z : Nat) (i : Word) (ws : List Word) : (s.firmware n c b z i ws).tlbinv = s.tlbinv := rfl
@[simp] theorem firmware_tlbBusy (s : State) (n c : Nat) (b : Bool) (z : Nat) (i : Word) (ws : List Word) : (s.firmware n c b z i ws).tlbBusy = s.tlbBusy := rfl
@[simp] theorem firmware_fused (s : State) (n c : Nat) (b : Bool) (z : Nat) (i : Word) (ws : List Word) : (s.firmware n c b z i ws).fused = s.fused := rfl
@[simp] theorem firmware_image (s : State) (n c : Nat) (b : Bool) (z : Nat) (i : Word) (ws : List Word) : (s.firmware n c b z i ws).image = s.image := rfl
@[simp] theorem firmware_svn (s : State) (n c : Nat) (b : Bool) (z : Nat) (i : Word) (ws : List Word) : (s.firmware n c b z i ws).svn = s.svn := rfl
@[simp] theorem firmware_d2h (s : State) (n c : Nat) (b : Bool) (z : Nat) (i : Word) (ws : List Word) : (s.firmware n c b z i ws).d2h = s.d2h := rfl
@[simp] theorem firmware_d2hCnt (s : State) (n c : Nat) (b : Bool) (z : Nat) (i : Word) (ws : List Word) : (s.firmware n c b z i ws).d2hCnt = s.d2hCnt := rfl
@[simp] theorem firmware_h2d (s : State) (n c : Nat) (b : Bool) (z : Nat) (i : Word) (ws : List Word) : (s.firmware n c b z i ws).h2d = s.h2d := rfl
@[simp] theorem firmware_hostCpl (s : State) (n c : Nat) (b : Bool) (z : Nat) (i : Word) (ws : List Word) : (s.firmware n c b z i ws).hostCpl = s.hostCpl := rfl
@[simp] theorem firmware_hostUr (s : State) (n c : Nat) (b : Bool) (z : Nat) (i : Word) (ws : List Word) : (s.firmware n c b z i ws).hostUr = s.hostUr := rfl

/-! ### The other fields after draw -/

@[simp] theorem draw_focus (s : State) : (s.draw).focus = s.focus := rfl
@[simp] theorem draw_turn (s : State) : (s.draw).turn = s.turn := rfl
@[simp] theorem draw_agenda (s : State) : (s.draw).agenda = s.agenda := rfl
@[simp] theorem draw_part (s : State) : (s.draw).part = s.part := rfl
@[simp] theorem draw_bundleId (s : State) : (s.draw).bundleId = s.bundleId := rfl
@[simp] theorem draw_power (s : State) : (s.draw).power = s.power := rfl
@[simp] theorem draw_cyc (s : State) : (s.draw).cyc = s.cyc := rfl
@[simp] theorem draw_mem (s : State) : (s.draw).mem = s.mem := rfl
@[simp] theorem draw_poison (s : State) : (s.draw).poison = s.poison := rfl
@[simp] theorem draw_accs (s : State) : (s.draw).accs = s.accs := rfl
@[simp] theorem draw_nextId (s : State) : (s.draw).nextId = s.nextId := rfl
@[simp] theorem draw_marks (s : State) : (s.draw).marks = s.marks := rfl
@[simp] theorem draw_cores (s : State) : (s.draw).cores = s.cores := rfl
@[simp] theorem draw_clusters (s : State) : (s.draw).clusters = s.clusters := rfl
@[simp] theorem draw_nm (s : State) : (s.draw).nm = s.nm := rfl
@[simp] theorem draw_nmWaits (s : State) : (s.draw).nmWaits = s.nmWaits := rfl
@[simp] theorem draw_lastEnd (s : State) : (s.draw).lastEnd = s.lastEnd := rfl
@[simp] theorem draw_bridgeNet (s : State) : (s.draw).bridgeNet = s.bridgeNet := rfl
@[simp] theorem draw_seedWaits (s : State) : (s.draw).seedWaits = s.seedWaits := rfl
@[simp] theorem draw_bankA (s : State) : (s.draw).bankA = s.bankA := rfl
@[simp] theorem draw_bankB (s : State) : (s.draw).bankB = s.bankB := rfl
@[simp] theorem draw_phSeq (s : State) : (s.draw).phSeq = s.phSeq := rfl
@[simp] theorem draw_phBank (s : State) : (s.draw).phBank = s.phBank := rfl
@[simp] theorem draw_phIndex (s : State) : (s.draw).phIndex = s.phIndex := rfl
@[simp] theorem draw_selOpen (s : State) : (s.draw).selOpen = s.selOpen := rfl
@[simp] theorem draw_selValid (s : State) : (s.draw).selValid = s.selValid := rfl
@[simp] theorem draw_selB (s : State) : (s.draw).selB = s.selB := rfl
@[simp] theorem draw_running (s : State) : (s.draw).running = s.running := rfl
@[simp] theorem draw_latched (s : State) : (s.draw).latched = s.latched := rfl
@[simp] theorem draw_bound (s : State) : (s.draw).bound = s.bound := rfl
@[simp] theorem draw_hcounts (s : State) : (s.draw).hcounts = s.hcounts := rfl
@[simp] theorem draw_slkKind (s : State) : (s.draw).slkKind = s.slkKind := rfl
@[simp] theorem draw_slkSpan (s : State) : (s.draw).slkSpan = s.slkSpan := rfl
@[simp] theorem draw_partctl (s : State) : (s.draw).partctl = s.partctl := rfl
@[simp] theorem draw_partq (s : State) : (s.draw).partq = s.partq := rfl
@[simp] theorem draw_stbase (s : State) : (s.draw).stbase = s.stbase := rfl
@[simp] theorem draw_ctxbase (s : State) : (s.draw).ctxbase = s.ctxbase := rfl
@[simp] theorem draw_slotIx (s : State) : (s.draw).slotIx = s.slotIx := rfl
@[simp] theorem draw_slotOn (s : State) : (s.draw).slotOn = s.slotOn := rfl
@[simp] theorem draw_slotEnd (s : State) : (s.draw).slotEnd = s.slotEnd := rfl
@[simp] theorem draw_slotClass (s : State) : (s.draw).slotClass = s.slotClass := rfl
@[simp] theorem draw_slotAudit (s : State) : (s.draw).slotAudit = s.slotAudit := rfl
@[simp] theorem draw_slotHeld (s : State) : (s.draw).slotHeld = s.slotHeld := rfl
@[simp] theorem draw_slotAt (s : State) : (s.draw).slotAt = s.slotAt := rfl
@[simp] theorem draw_curCtx (s : State) : (s.draw).curCtx = s.curCtx := rfl
@[simp] theorem draw_ctxs (s : State) : (s.draw).ctxs = s.ctxs := rfl
@[simp] theorem draw_ptbase (s : State) : (s.draw).ptbase = s.ptbase := rfl
@[simp] theorem draw_devid (s : State) : (s.draw).devid = s.devid := rfl
@[simp] theorem draw_spandly (s : State) : (s.draw).spandly = s.spandly := rfl
@[simp] theorem draw_tqNet (s : State) : (s.draw).tqNet = s.tqNet := rfl
@[simp] theorem draw_rtbase (s : State) : (s.draw).rtbase = s.rtbase := rfl
@[simp] theorem draw_ports (s : State) : (s.draw).ports = s.ports := rfl
@[simp] theorem draw_bridge (s : State) : (s.draw).bridge = s.bridge := rfl
@[simp] theorem draw_realign (s : State) : (s.draw).realign = s.realign := rfl
@[simp] theorem draw_jobDevs (s : State) : (s.draw).jobDevs = s.jobDevs := rfl
@[simp] theorem draw_treePorts (s : State) : (s.draw).treePorts = s.treePorts := rfl
@[simp] theorem draw_seedbase (s : State) : (s.draw).seedbase = s.seedbase := rfl
@[simp] theorem draw_seedcnt (s : State) : (s.draw).seedcnt = s.seedcnt := rfl
@[simp] theorem draw_kvpool (s : State) : (s.draw).kvpool = s.kvpool := rfl
@[simp] theorem draw_kvstate (s : State) : (s.draw).kvstate = s.kvstate := rfl
@[simp] theorem draw_kvlen (s : State) : (s.draw).kvlen = s.kvlen := rfl
@[simp] theorem draw_seedOn (s : State) : (s.draw).seedOn = s.seedOn := rfl
@[simp] theorem draw_seedHost (s : State) : (s.draw).seedHost = s.seedHost := rfl
@[simp] theorem draw_rcvPend (s : State) : (s.draw).rcvPend = s.rcvPend := rfl
@[simp] theorem draw_rcvReq (s : State) : (s.draw).rcvReq = s.rcvReq := rfl
@[simp] theorem draw_rcvId (s : State) : (s.draw).rcvId = s.rcvId := rfl
@[simp] theorem draw_rcvCyc (s : State) : (s.draw).rcvCyc = s.rcvCyc := rfl
@[simp] theorem draw_rcvbase (s : State) : (s.draw).rcvbase = s.rcvbase := rfl
@[simp] theorem draw_exposed (s : State) : (s.draw).exposed = s.exposed := rfl
@[simp] theorem draw_hostRng (s : State) : (s.draw).hostRng = s.hostRng := rfl
@[simp] theorem draw_hostOvf (s : State) : (s.draw).hostOvf = s.hostOvf := rfl
@[simp] theorem draw_audctl (s : State) : (s.draw).audctl = s.audctl := rfl
@[simp] theorem draw_audkey (s : State) : (s.draw).audkey = s.audkey := rfl
@[simp] theorem draw_audbase (s : State) : (s.draw).audbase = s.audbase := rfl
@[simp] theorem draw_auddrop (s : State) : (s.draw).auddrop = s.auddrop := rfl
@[simp] theorem draw_audmis (s : State) : (s.draw).audmis = s.audmis := rfl
@[simp] theorem draw_audpass (s : State) : (s.draw).audpass = s.audpass := rfl
@[simp] theorem draw_audblks (s : State) : (s.draw).audblks = s.audblks := rfl
@[simp] theorem draw_audHead (s : State) : (s.draw).audHead = s.audHead := rfl
@[simp] theorem draw_audNamed (s : State) : (s.draw).audNamed = s.audNamed := rfl
@[simp] theorem draw_falls (s : State) : (s.draw).falls = s.falls := rfl
@[simp] theorem draw_errbase (s : State) : (s.draw).errbase = s.errbase := rfl
@[simp] theorem draw_errhead (s : State) : (s.draw).errhead = s.errhead := rfl
@[simp] theorem draw_fwbox (s : State) : (s.draw).fwbox = s.fwbox := rfl
@[simp] theorem draw_health (s : State) : (s.draw).health = s.health := rfl
@[simp] theorem draw_startStep (s : State) : (s.draw).startStep = s.startStep := rfl
@[simp] theorem draw_startWhy (s : State) : (s.draw).startWhy = s.startWhy := rfl
@[simp] theorem draw_startFails (s : State) : (s.draw).startFails = s.startFails := rfl
@[simp] theorem draw_startMin (s : State) : (s.draw).startMin = s.startMin := rfl
@[simp] theorem draw_startUp (s : State) : (s.draw).startUp = s.startUp := rfl
@[simp] theorem draw_hw1base (s : State) : (s.draw).hw1base = s.hw1base := rfl
@[simp] theorem draw_tlbinv (s : State) : (s.draw).tlbinv = s.tlbinv := rfl
@[simp] theorem draw_tlbBusy (s : State) : (s.draw).tlbBusy = s.tlbBusy := rfl
@[simp] theorem draw_fused (s : State) : (s.draw).fused = s.fused := rfl
@[simp] theorem draw_image (s : State) : (s.draw).image = s.image := rfl
@[simp] theorem draw_svn (s : State) : (s.draw).svn = s.svn := rfl
@[simp] theorem draw_d2h (s : State) : (s.draw).d2h = s.d2h := rfl
@[simp] theorem draw_d2hCnt (s : State) : (s.draw).d2hCnt = s.d2hCnt := rfl
@[simp] theorem draw_h2d (s : State) : (s.draw).h2d = s.h2d := rfl
@[simp] theorem draw_hostCpl (s : State) : (s.draw).hostCpl = s.hostCpl := rfl
@[simp] theorem draw_hostUr (s : State) : (s.draw).hostUr = s.hostUr := rfl

/-! ### The other fields of a core after setStrm -/

@[simp] theorem core_setStrm_frozen (c : Core) (b : Bool) (t : Strm) : (c.setStrm b t).frozen = c.frozen := by cases b <;> rfl
@[simp] theorem core_setStrm_freezes (c : Core) (b : Bool) (t : Strm) : (c.setStrm b t).freezes = c.freezes := by cases b <;> rfl
@[simp] theorem core_setStrm_frun (c : Core) (b : Bool) (t : Strm) : (c.setStrm b t).frun = c.frun := by cases b <;> rfl
@[simp] theorem core_setStrm_frlim (c : Core) (b : Bool) (t : Strm) : (c.setStrm b t).frlim = c.frlim := by cases b <;> rfl
@[simp] theorem core_setStrm_hist (c : Core) (b : Bool) (t : Strm) : (c.setStrm b t).hist = c.hist := by cases b <;> rfl
@[simp] theorem core_setStrm_place (c : Core) (b : Bool) (t : Strm) : (c.setStrm b t).place = c.place := by cases b <;> rfl
@[simp] theorem core_setStrm_b0 (c : Core) (b : Bool) (t : Strm) : (c.setStrm b t).b0 = c.b0 := by cases b <;> rfl
@[simp] theorem core_setStrm_group (c : Core) (b : Bool) (t : Strm) : (c.setStrm b t).group = c.group := by cases b <;> rfl
@[simp] theorem core_setStrm_opens (c : Core) (b : Bool) (t : Strm) : (c.setStrm b t).opens = c.opens := by cases b <;> rfl
@[simp] theorem core_setStrm_stopAt (c : Core) (b : Bool) (t : Strm) : (c.setStrm b t).stopAt = c.stopAt := by cases b <;> rfl
@[simp] theorem core_setStrm_faultCy (c : Core) (b : Bool) (t : Strm) : (c.setStrm b t).faultCy = c.faultCy := by cases b <;> rfl
@[simp] theorem core_setStrm_cont (c : Core) (b : Bool) (t : Strm) : (c.setStrm b t).cont = c.cont := by cases b <;> rfl
@[simp] theorem core_setStrm_startAt (c : Core) (b : Bool) (t : Strm) : (c.setStrm b t).startAt = c.startAt := by cases b <;> rfl
@[simp] theorem core_setStrm_goAt (c : Core) (b : Bool) (t : Strm) : (c.setStrm b t).goAt = c.goAt := by cases b <;> rfl
@[simp] theorem core_setStrm_slice (c : Core) (b : Bool) (t : Strm) : (c.setStrm b t).slice = c.slice := by cases b <;> rfl
@[simp] theorem core_setStrm_realigned (c : Core) (b : Bool) (t : Strm) : (c.setStrm b t).realigned = c.realigned := by cases b <;> rfl
@[simp] theorem core_setStrm_loop (c : Core) (b : Bool) (t : Strm) : (c.setStrm b t).loop = c.loop := by cases b <;> rfl
@[simp] theorem core_setStrm_segpc (c : Core) (b : Bool) (t : Strm) : (c.setStrm b t).segpc = c.segpc := by cases b <;> rfl
@[simp] theorem core_setStrm_holdchk (c : Core) (b : Bool) (t : Strm) : (c.setStrm b t).holdchk = c.holdchk := by cases b <;> rfl
@[simp] theorem core_setStrm_srkey (c : Core) (b : Bool) (t : Strm) : (c.setStrm b t).srkey = c.srkey := by cases b <;> rfl
@[simp] theorem core_setStrm_uivAddr (c : Core) (b : Bool) (t : Strm) : (c.setStrm b t).uivAddr = c.uivAddr := by cases b <;> rfl
@[simp] theorem core_setStrm_uivEn (c : Core) (b : Bool) (t : Strm) : (c.setStrm b t).uivEn = c.uivEn := by cases b <;> rfl
@[simp] theorem core_setStrm_inh (c : Core) (b : Bool) (t : Strm) : (c.setStrm b t).inh = c.inh := by cases b <;> rfl
@[simp] theorem core_setStrm_uiq (c : Core) (b : Bool) (t : Strm) : (c.setStrm b t).uiq = c.uiq := by cases b <;> rfl
@[simp] theorem core_setStrm_uiepc (c : Core) (b : Bool) (t : Strm) : (c.setStrm b t).uiepc = c.uiepc := by cases b <;> rfl
@[simp] theorem core_setStrm_uien (c : Core) (b : Bool) (t : Strm) : (c.setStrm b t).uien = c.uien := by cases b <;> rfl
@[simp] theorem core_setStrm_uiHead (c : Core) (b : Bool) (t : Strm) : (c.setStrm b t).uiHead = c.uiHead := by cases b <;> rfl
@[simp] theorem core_setStrm_uiTail (c : Core) (b : Bool) (t : Strm) : (c.setStrm b t).uiTail = c.uiTail := by cases b <;> rfl
@[simp] theorem core_setStrm_uiOvf (c : Core) (b : Bool) (t : Strm) : (c.setStrm b t).uiOvf = c.uiOvf := by cases b <;> rfl
@[simp] theorem core_setStrm_uiRing (c : Core) (b : Bool) (t : Strm) : (c.setStrm b t).uiRing = c.uiRing := by cases b <;> rfl
@[simp] theorem core_setStrm_barbase (c : Core) (b : Bool) (t : Strm) : (c.setStrm b t).barbase = c.barbase := by cases b <;> rfl
@[simp] theorem core_setStrm_bars (c : Core) (b : Bool) (t : Strm) : (c.setStrm b t).bars = c.bars := by cases b <;> rfl
@[simp] theorem core_setStrm_frzcnt (c : Core) (b : Bool) (t : Strm) : (c.setStrm b t).frzcnt = c.frzcnt := by cases b <;> rfl
@[simp] theorem core_setStrm_weircnt (c : Core) (b : Bool) (t : Strm) : (c.setStrm b t).weircnt = c.weircnt := by cases b <;> rfl
@[simp] theorem core_setStrm_frzmax (c : Core) (b : Bool) (t : Strm) : (c.setStrm b t).frzmax = c.frzmax := by cases b <;> rfl
@[simp] theorem core_setStrm_weirSet (c : Core) (b : Bool) (t : Strm) : (c.setStrm b t).weirSet = c.weirSet := by cases b <;> rfl
@[simp] theorem core_setStrm_weirFlr (c : Core) (b : Bool) (t : Strm) : (c.setStrm b t).weirFlr = c.weirFlr := by cases b <;> rfl
@[simp] theorem core_setStrm_weirLim (c : Core) (b : Bool) (t : Strm) : (c.setStrm b t).weirLim = c.weirLim := by cases b <;> rfl
@[simp] theorem core_setStrm_weights (c : Core) (b : Bool) (t : Strm) : (c.setStrm b t).weights = c.weights := by cases b <;> rfl
@[simp] theorem core_setStrm_charge (c : Core) (b : Bool) (t : Strm) : (c.setStrm b t).charge = c.charge := by cases b <;> rfl
@[simp] theorem core_setStrm_sp (c : Core) (b : Bool) (t : Strm) : (c.setStrm b t).sp = c.sp := by cases b <;> rfl
@[simp] theorem core_setStrm_spBad (c : Core) (b : Bool) (t : Strm) : (c.setStrm b t).spBad = c.spBad := by cases b <;> rfl
@[simp] theorem core_setStrm_q (c : Core) (b : Bool) (t : Strm) : (c.setStrm b t).q = c.q := by cases b <;> rfl
@[simp] theorem core_setStrm_oldRings (c : Core) (b : Bool) (t : Strm) : (c.setStrm b t).oldRings = c.oldRings := by cases b <;> rfl
@[simp] theorem core_setStrm_ahead (c : Core) (b : Bool) (t : Strm) : (c.setStrm b t).ahead = c.ahead := by cases b <;> rfl
@[simp] theorem core_setStrm_oldUnits (c : Core) (b : Bool) (t : Strm) : (c.setStrm b t).oldUnits = c.oldUnits := by cases b <;> rfl
@[simp] theorem core_setStrm_dscAt (c : Core) (b : Bool) (t : Strm) : (c.setStrm b t).dscAt = c.dscAt := by cases b <;> rfl
@[simp] theorem core_setStrm_tq (c : Core) (b : Bool) (t : Strm) : (c.setStrm b t).tq = c.tq := by cases b <;> rfl
@[simp] theorem core_setStrm_mx (c : Core) (b : Bool) (t : Strm) : (c.setStrm b t).mx = c.mx := by cases b <;> rfl
@[simp] theorem core_setStrm_xIss (c : Core) (b : Bool) (t : Strm) : (c.setStrm b t).xIss = c.xIss := by cases b <;> rfl
@[simp] theorem core_setStrm_seg (c : Core) (b : Bool) (t : Strm) : (c.setStrm b t).seg = c.seg := by cases b <;> rfl
@[simp] theorem core_setStrm_stsig (c : Core) (b : Bool) (t : Strm) : (c.setStrm b t).stsig = c.stsig := by cases b <;> rfl
@[simp] theorem core_setStrm_signs (c : Core) (b : Bool) (t : Strm) : (c.setStrm b t).signs = c.signs := by cases b <;> rfl
@[simp] theorem core_setStrm_atLnch (c : Core) (b : Bool) (t : Strm) : (c.setStrm b t).atLnch = c.atLnch := by cases b <;> rfl
@[simp] theorem core_setStrm_audit (c : Core) (b : Bool) (t : Strm) : (c.setStrm b t).audit = c.audit := by cases b <;> rfl
@[simp] theorem core_setStrm_tlb (c : Core) (b : Bool) (t : Strm) : (c.setStrm b t).tlb = c.tlb := by cases b <;> rfl
@[simp] theorem core_setStrm_ctx (c : Core) (b : Bool) (t : Strm) : (c.setStrm b t).ctx = c.ctx := by cases b <;> rfl

/-! ### The other fields of a core after modStrm -/

@[simp] theorem core_modStrm_frozen (c : Core) (b : Bool) (f : Strm → Strm) : (c.modStrm b f).frozen = c.frozen := by cases b <;> rfl
@[simp] theorem core_modStrm_freezes (c : Core) (b : Bool) (f : Strm → Strm) : (c.modStrm b f).freezes = c.freezes := by cases b <;> rfl
@[simp] theorem core_modStrm_frun (c : Core) (b : Bool) (f : Strm → Strm) : (c.modStrm b f).frun = c.frun := by cases b <;> rfl
@[simp] theorem core_modStrm_frlim (c : Core) (b : Bool) (f : Strm → Strm) : (c.modStrm b f).frlim = c.frlim := by cases b <;> rfl
@[simp] theorem core_modStrm_hist (c : Core) (b : Bool) (f : Strm → Strm) : (c.modStrm b f).hist = c.hist := by cases b <;> rfl
@[simp] theorem core_modStrm_place (c : Core) (b : Bool) (f : Strm → Strm) : (c.modStrm b f).place = c.place := by cases b <;> rfl
@[simp] theorem core_modStrm_b0 (c : Core) (b : Bool) (f : Strm → Strm) : (c.modStrm b f).b0 = c.b0 := by cases b <;> rfl
@[simp] theorem core_modStrm_group (c : Core) (b : Bool) (f : Strm → Strm) : (c.modStrm b f).group = c.group := by cases b <;> rfl
@[simp] theorem core_modStrm_opens (c : Core) (b : Bool) (f : Strm → Strm) : (c.modStrm b f).opens = c.opens := by cases b <;> rfl
@[simp] theorem core_modStrm_stopAt (c : Core) (b : Bool) (f : Strm → Strm) : (c.modStrm b f).stopAt = c.stopAt := by cases b <;> rfl
@[simp] theorem core_modStrm_faultCy (c : Core) (b : Bool) (f : Strm → Strm) : (c.modStrm b f).faultCy = c.faultCy := by cases b <;> rfl
@[simp] theorem core_modStrm_cont (c : Core) (b : Bool) (f : Strm → Strm) : (c.modStrm b f).cont = c.cont := by cases b <;> rfl
@[simp] theorem core_modStrm_startAt (c : Core) (b : Bool) (f : Strm → Strm) : (c.modStrm b f).startAt = c.startAt := by cases b <;> rfl
@[simp] theorem core_modStrm_goAt (c : Core) (b : Bool) (f : Strm → Strm) : (c.modStrm b f).goAt = c.goAt := by cases b <;> rfl
@[simp] theorem core_modStrm_slice (c : Core) (b : Bool) (f : Strm → Strm) : (c.modStrm b f).slice = c.slice := by cases b <;> rfl
@[simp] theorem core_modStrm_realigned (c : Core) (b : Bool) (f : Strm → Strm) : (c.modStrm b f).realigned = c.realigned := by cases b <;> rfl
@[simp] theorem core_modStrm_loop (c : Core) (b : Bool) (f : Strm → Strm) : (c.modStrm b f).loop = c.loop := by cases b <;> rfl
@[simp] theorem core_modStrm_segpc (c : Core) (b : Bool) (f : Strm → Strm) : (c.modStrm b f).segpc = c.segpc := by cases b <;> rfl
@[simp] theorem core_modStrm_holdchk (c : Core) (b : Bool) (f : Strm → Strm) : (c.modStrm b f).holdchk = c.holdchk := by cases b <;> rfl
@[simp] theorem core_modStrm_srkey (c : Core) (b : Bool) (f : Strm → Strm) : (c.modStrm b f).srkey = c.srkey := by cases b <;> rfl
@[simp] theorem core_modStrm_uivAddr (c : Core) (b : Bool) (f : Strm → Strm) : (c.modStrm b f).uivAddr = c.uivAddr := by cases b <;> rfl
@[simp] theorem core_modStrm_uivEn (c : Core) (b : Bool) (f : Strm → Strm) : (c.modStrm b f).uivEn = c.uivEn := by cases b <;> rfl
@[simp] theorem core_modStrm_inh (c : Core) (b : Bool) (f : Strm → Strm) : (c.modStrm b f).inh = c.inh := by cases b <;> rfl
@[simp] theorem core_modStrm_uiq (c : Core) (b : Bool) (f : Strm → Strm) : (c.modStrm b f).uiq = c.uiq := by cases b <;> rfl
@[simp] theorem core_modStrm_uiepc (c : Core) (b : Bool) (f : Strm → Strm) : (c.modStrm b f).uiepc = c.uiepc := by cases b <;> rfl
@[simp] theorem core_modStrm_uien (c : Core) (b : Bool) (f : Strm → Strm) : (c.modStrm b f).uien = c.uien := by cases b <;> rfl
@[simp] theorem core_modStrm_uiHead (c : Core) (b : Bool) (f : Strm → Strm) : (c.modStrm b f).uiHead = c.uiHead := by cases b <;> rfl
@[simp] theorem core_modStrm_uiTail (c : Core) (b : Bool) (f : Strm → Strm) : (c.modStrm b f).uiTail = c.uiTail := by cases b <;> rfl
@[simp] theorem core_modStrm_uiOvf (c : Core) (b : Bool) (f : Strm → Strm) : (c.modStrm b f).uiOvf = c.uiOvf := by cases b <;> rfl
@[simp] theorem core_modStrm_uiRing (c : Core) (b : Bool) (f : Strm → Strm) : (c.modStrm b f).uiRing = c.uiRing := by cases b <;> rfl
@[simp] theorem core_modStrm_barbase (c : Core) (b : Bool) (f : Strm → Strm) : (c.modStrm b f).barbase = c.barbase := by cases b <;> rfl
@[simp] theorem core_modStrm_bars (c : Core) (b : Bool) (f : Strm → Strm) : (c.modStrm b f).bars = c.bars := by cases b <;> rfl
@[simp] theorem core_modStrm_frzcnt (c : Core) (b : Bool) (f : Strm → Strm) : (c.modStrm b f).frzcnt = c.frzcnt := by cases b <;> rfl
@[simp] theorem core_modStrm_weircnt (c : Core) (b : Bool) (f : Strm → Strm) : (c.modStrm b f).weircnt = c.weircnt := by cases b <;> rfl
@[simp] theorem core_modStrm_frzmax (c : Core) (b : Bool) (f : Strm → Strm) : (c.modStrm b f).frzmax = c.frzmax := by cases b <;> rfl
@[simp] theorem core_modStrm_weirSet (c : Core) (b : Bool) (f : Strm → Strm) : (c.modStrm b f).weirSet = c.weirSet := by cases b <;> rfl
@[simp] theorem core_modStrm_weirFlr (c : Core) (b : Bool) (f : Strm → Strm) : (c.modStrm b f).weirFlr = c.weirFlr := by cases b <;> rfl
@[simp] theorem core_modStrm_weirLim (c : Core) (b : Bool) (f : Strm → Strm) : (c.modStrm b f).weirLim = c.weirLim := by cases b <;> rfl
@[simp] theorem core_modStrm_weights (c : Core) (b : Bool) (f : Strm → Strm) : (c.modStrm b f).weights = c.weights := by cases b <;> rfl
@[simp] theorem core_modStrm_charge (c : Core) (b : Bool) (f : Strm → Strm) : (c.modStrm b f).charge = c.charge := by cases b <;> rfl
@[simp] theorem core_modStrm_sp (c : Core) (b : Bool) (f : Strm → Strm) : (c.modStrm b f).sp = c.sp := by cases b <;> rfl
@[simp] theorem core_modStrm_spBad (c : Core) (b : Bool) (f : Strm → Strm) : (c.modStrm b f).spBad = c.spBad := by cases b <;> rfl
@[simp] theorem core_modStrm_q (c : Core) (b : Bool) (f : Strm → Strm) : (c.modStrm b f).q = c.q := by cases b <;> rfl
@[simp] theorem core_modStrm_oldRings (c : Core) (b : Bool) (f : Strm → Strm) : (c.modStrm b f).oldRings = c.oldRings := by cases b <;> rfl
@[simp] theorem core_modStrm_ahead (c : Core) (b : Bool) (f : Strm → Strm) : (c.modStrm b f).ahead = c.ahead := by cases b <;> rfl
@[simp] theorem core_modStrm_oldUnits (c : Core) (b : Bool) (f : Strm → Strm) : (c.modStrm b f).oldUnits = c.oldUnits := by cases b <;> rfl
@[simp] theorem core_modStrm_dscAt (c : Core) (b : Bool) (f : Strm → Strm) : (c.modStrm b f).dscAt = c.dscAt := by cases b <;> rfl
@[simp] theorem core_modStrm_tq (c : Core) (b : Bool) (f : Strm → Strm) : (c.modStrm b f).tq = c.tq := by cases b <;> rfl
@[simp] theorem core_modStrm_mx (c : Core) (b : Bool) (f : Strm → Strm) : (c.modStrm b f).mx = c.mx := by cases b <;> rfl
@[simp] theorem core_modStrm_xIss (c : Core) (b : Bool) (f : Strm → Strm) : (c.modStrm b f).xIss = c.xIss := by cases b <;> rfl
@[simp] theorem core_modStrm_seg (c : Core) (b : Bool) (f : Strm → Strm) : (c.modStrm b f).seg = c.seg := by cases b <;> rfl
@[simp] theorem core_modStrm_stsig (c : Core) (b : Bool) (f : Strm → Strm) : (c.modStrm b f).stsig = c.stsig := by cases b <;> rfl
@[simp] theorem core_modStrm_signs (c : Core) (b : Bool) (f : Strm → Strm) : (c.modStrm b f).signs = c.signs := by cases b <;> rfl
@[simp] theorem core_modStrm_atLnch (c : Core) (b : Bool) (f : Strm → Strm) : (c.modStrm b f).atLnch = c.atLnch := by cases b <;> rfl
@[simp] theorem core_modStrm_audit (c : Core) (b : Bool) (f : Strm → Strm) : (c.modStrm b f).audit = c.audit := by cases b <;> rfl
@[simp] theorem core_modStrm_tlb (c : Core) (b : Bool) (f : Strm → Strm) : (c.modStrm b f).tlb = c.tlb := by cases b <;> rfl
@[simp] theorem core_modStrm_ctx (c : Core) (b : Bool) (f : Strm → Strm) : (c.modStrm b f).ctx = c.ctx := by cases b <;> rfl

/-! ### The other fields of a stream after setX -/

@[simp] theorem setX_run (t : Strm) (sh : Bool) (n : Nat) (v : Word) : (t.setX sh n v).run = t.run := by simp only [Strm.setX]; split <;> (try split) <;> rfl
@[simp] theorem setX_inst (t : Strm) (sh : Bool) (n : Nat) (v : Word) : (t.setX sh n v).inst = t.inst := by simp only [Strm.setX]; split <;> (try split) <;> rfl
@[simp] theorem setX_pc (t : Strm) (sh : Bool) (n : Nat) (v : Word) : (t.setX sh n v).pc = t.pc := by simp only [Strm.setX]; split <;> (try split) <;> rfl
@[simp] theorem setX_last (t : Strm) (sh : Bool) (n : Nat) (v : Word) : (t.setX sh n v).last = t.last := by simp only [Strm.setX]; split <;> (try split) <;> rfl
@[simp] theorem setX_npc (t : Strm) (sh : Bool) (n : Nat) (v : Word) : (t.setX sh n v).npc = t.npc := by simp only [Strm.setX]; split <;> (try split) <;> rfl
@[simp] theorem setX_holdTo (t : Strm) (sh : Bool) (n : Nat) (v : Word) : (t.setX sh n v).holdTo = t.holdTo := by simp only [Strm.setX]; split <;> (try split) <;> rfl
@[simp] theorem setX_ready (t : Strm) (sh : Bool) (n : Nat) (v : Word) : (t.setX sh n v).ready = t.ready := by simp only [Strm.setX]; split <;> (try split) <;> rfl
@[simp] theorem setX_left (t : Strm) (sh : Bool) (n : Nat) (v : Word) : (t.setX sh n v).left = t.left := by simp only [Strm.setX]; split <;> (try split) <;> rfl
@[simp] theorem setX_p (t : Strm) (sh : Bool) (n : Nat) (v : Word) : (t.setX sh n v).p = t.p := by simp only [Strm.setX]; split <;> (try split) <;> rfl
@[simp] theorem setX_sp (t : Strm) (sh : Bool) (n : Nat) (v : Word) : (t.setX sh n v).sp = t.sp := by simp only [Strm.setX]; split <;> (try split) <;> rfl
@[simp] theorem setX_v (t : Strm) (sh : Bool) (n : Nat) (v : Word) : (t.setX sh n v).v = t.v := by simp only [Strm.setX]; split <;> (try split) <;> rfl
@[simp] theorem setX_o (t : Strm) (sh : Bool) (n : Nat) (v : Word) : (t.setX sh n v).o = t.o := by simp only [Strm.setX]; split <;> (try split) <;> rfl
@[simp] theorem setX_j (t : Strm) (sh : Bool) (n : Nat) (v : Word) : (t.setX sh n v).j = t.j := by simp only [Strm.setX]; split <;> (try split) <;> rfl
@[simp] theorem setX_m (t : Strm) (sh : Bool) (n : Nat) (v : Word) : (t.setX sh n v).m = t.m := by simp only [Strm.setX]; split <;> (try split) <;> rfl
@[simp] theorem setX_t (t : Strm) (sh : Bool) (n : Nat) (v : Word) : (t.setX sh n v).t = t.t := by simp only [Strm.setX]; split <;> (try split) <;> rfl
@[simp] theorem setX_ras (t : Strm) (sh : Bool) (n : Nat) (v : Word) : (t.setX sh n v).ras = t.ras := by simp only [Strm.setX]; split <;> (try split) <;> rfl
@[simp] theorem setX_axen (t : Strm) (sh : Bool) (n : Nat) (v : Word) : (t.setX sh n v).axen = t.axen := by simp only [Strm.setX]; split <;> (try split) <;> rfl
@[simp] theorem setX_axflag (t : Strm) (sh : Bool) (n : Nat) (v : Word) : (t.setX sh n v).axflag = t.axflag := by simp only [Strm.setX]; split <;> (try split) <;> rfl
@[simp] theorem setX_srctr (t : Strm) (sh : Bool) (n : Nat) (v : Word) : (t.setX sh n v).srctr = t.srctr := by simp only [Strm.setX]; split <;> (try split) <;> rfl
@[simp] theorem setX_trap (t : Strm) (sh : Bool) (n : Nat) (v : Word) : (t.setX sh n v).trap = t.trap := by simp only [Strm.setX]; split <;> (try split) <;> rfl
@[simp] theorem setX_late (t : Strm) (sh : Bool) (n : Nat) (v : Word) : (t.setX sh n v).late = t.late := by simp only [Strm.setX]; split <;> (try split) <;> rfl
@[simp] theorem setX_origin (t : Strm) (sh : Bool) (n : Nat) (v : Word) : (t.setX sh n v).origin = t.origin := by simp only [Strm.setX]; split <;> (try split) <;> rfl
@[simp] theorem setX_hcsel (t : Strm) (sh : Bool) (n : Nat) (v : Word) : (t.setX sh n v).hcsel = t.hcsel := by simp only [Strm.setX]; split <;> (try split) <;> rfl
@[simp] theorem setX_nmstat (t : Strm) (sh : Bool) (n : Nat) (v : Word) : (t.setX sh n v).nmstat = t.nmstat := by simp only [Strm.setX]; split <;> (try split) <;> rfl
@[simp] theorem setX_nmnext (t : Strm) (sh : Bool) (n : Nat) (v : Word) : (t.setX sh n v).nmnext = t.nmnext := by simp only [Strm.setX]; split <;> (try split) <;> rfl
@[simp] theorem setX_pend (t : Strm) (sh : Bool) (n : Nat) (v : Word) : (t.setX sh n v).pend = t.pend := by simp only [Strm.setX]; split <;> (try split) <;> rfl
@[simp] theorem setX_waits (t : Strm) (sh : Bool) (n : Nat) (v : Word) : (t.setX sh n v).waits = t.waits := by simp only [Strm.setX]; split <;> (try split) <;> rfl
@[simp] theorem setX_fence (t : Strm) (sh : Bool) (n : Nat) (v : Word) : (t.setX sh n v).fence = t.fence := by simp only [Strm.setX]; split <;> (try split) <;> rfl
@[simp] theorem setX_ibuf (t : Strm) (sh : Bool) (n : Nat) (v : Word) : (t.setX sh n v).ibuf = t.ibuf := by simp only [Strm.setX]; split <;> (try split) <;> rfl

/-! ### The other fields of a stream after setP -/

@[simp] theorem setP_run (t : Strm) (sh : Bool) (n : Nat) (v : Bool) : (t.setP sh n v).run = t.run := by simp only [Strm.setP]; split <;> (try split) <;> rfl
@[simp] theorem setP_inst (t : Strm) (sh : Bool) (n : Nat) (v : Bool) : (t.setP sh n v).inst = t.inst := by simp only [Strm.setP]; split <;> (try split) <;> rfl
@[simp] theorem setP_pc (t : Strm) (sh : Bool) (n : Nat) (v : Bool) : (t.setP sh n v).pc = t.pc := by simp only [Strm.setP]; split <;> (try split) <;> rfl
@[simp] theorem setP_last (t : Strm) (sh : Bool) (n : Nat) (v : Bool) : (t.setP sh n v).last = t.last := by simp only [Strm.setP]; split <;> (try split) <;> rfl
@[simp] theorem setP_npc (t : Strm) (sh : Bool) (n : Nat) (v : Bool) : (t.setP sh n v).npc = t.npc := by simp only [Strm.setP]; split <;> (try split) <;> rfl
@[simp] theorem setP_holdTo (t : Strm) (sh : Bool) (n : Nat) (v : Bool) : (t.setP sh n v).holdTo = t.holdTo := by simp only [Strm.setP]; split <;> (try split) <;> rfl
@[simp] theorem setP_ready (t : Strm) (sh : Bool) (n : Nat) (v : Bool) : (t.setP sh n v).ready = t.ready := by simp only [Strm.setP]; split <;> (try split) <;> rfl
@[simp] theorem setP_left (t : Strm) (sh : Bool) (n : Nat) (v : Bool) : (t.setP sh n v).left = t.left := by simp only [Strm.setP]; split <;> (try split) <;> rfl
@[simp] theorem setP_x (t : Strm) (sh : Bool) (n : Nat) (v : Bool) : (t.setP sh n v).x = t.x := by simp only [Strm.setP]; split <;> (try split) <;> rfl
@[simp] theorem setP_sx (t : Strm) (sh : Bool) (n : Nat) (v : Bool) : (t.setP sh n v).sx = t.sx := by simp only [Strm.setP]; split <;> (try split) <;> rfl
@[simp] theorem setP_v (t : Strm) (sh : Bool) (n : Nat) (v : Bool) : (t.setP sh n v).v = t.v := by simp only [Strm.setP]; split <;> (try split) <;> rfl
@[simp] theorem setP_o (t : Strm) (sh : Bool) (n : Nat) (v : Bool) : (t.setP sh n v).o = t.o := by simp only [Strm.setP]; split <;> (try split) <;> rfl
@[simp] theorem setP_j (t : Strm) (sh : Bool) (n : Nat) (v : Bool) : (t.setP sh n v).j = t.j := by simp only [Strm.setP]; split <;> (try split) <;> rfl
@[simp] theorem setP_m (t : Strm) (sh : Bool) (n : Nat) (v : Bool) : (t.setP sh n v).m = t.m := by simp only [Strm.setP]; split <;> (try split) <;> rfl
@[simp] theorem setP_t (t : Strm) (sh : Bool) (n : Nat) (v : Bool) : (t.setP sh n v).t = t.t := by simp only [Strm.setP]; split <;> (try split) <;> rfl
@[simp] theorem setP_ras (t : Strm) (sh : Bool) (n : Nat) (v : Bool) : (t.setP sh n v).ras = t.ras := by simp only [Strm.setP]; split <;> (try split) <;> rfl
@[simp] theorem setP_axen (t : Strm) (sh : Bool) (n : Nat) (v : Bool) : (t.setP sh n v).axen = t.axen := by simp only [Strm.setP]; split <;> (try split) <;> rfl
@[simp] theorem setP_axflag (t : Strm) (sh : Bool) (n : Nat) (v : Bool) : (t.setP sh n v).axflag = t.axflag := by simp only [Strm.setP]; split <;> (try split) <;> rfl
@[simp] theorem setP_srctr (t : Strm) (sh : Bool) (n : Nat) (v : Bool) : (t.setP sh n v).srctr = t.srctr := by simp only [Strm.setP]; split <;> (try split) <;> rfl
@[simp] theorem setP_trap (t : Strm) (sh : Bool) (n : Nat) (v : Bool) : (t.setP sh n v).trap = t.trap := by simp only [Strm.setP]; split <;> (try split) <;> rfl
@[simp] theorem setP_late (t : Strm) (sh : Bool) (n : Nat) (v : Bool) : (t.setP sh n v).late = t.late := by simp only [Strm.setP]; split <;> (try split) <;> rfl
@[simp] theorem setP_origin (t : Strm) (sh : Bool) (n : Nat) (v : Bool) : (t.setP sh n v).origin = t.origin := by simp only [Strm.setP]; split <;> (try split) <;> rfl
@[simp] theorem setP_hcsel (t : Strm) (sh : Bool) (n : Nat) (v : Bool) : (t.setP sh n v).hcsel = t.hcsel := by simp only [Strm.setP]; split <;> (try split) <;> rfl
@[simp] theorem setP_nmstat (t : Strm) (sh : Bool) (n : Nat) (v : Bool) : (t.setP sh n v).nmstat = t.nmstat := by simp only [Strm.setP]; split <;> (try split) <;> rfl
@[simp] theorem setP_nmnext (t : Strm) (sh : Bool) (n : Nat) (v : Bool) : (t.setP sh n v).nmnext = t.nmnext := by simp only [Strm.setP]; split <;> (try split) <;> rfl
@[simp] theorem setP_pend (t : Strm) (sh : Bool) (n : Nat) (v : Bool) : (t.setP sh n v).pend = t.pend := by simp only [Strm.setP]; split <;> (try split) <;> rfl
@[simp] theorem setP_waits (t : Strm) (sh : Bool) (n : Nat) (v : Bool) : (t.setP sh n v).waits = t.waits := by simp only [Strm.setP]; split <;> (try split) <;> rfl
@[simp] theorem setP_fence (t : Strm) (sh : Bool) (n : Nat) (v : Bool) : (t.setP sh n v).fence = t.fence := by simp only [Strm.setP]; split <;> (try split) <;> rfl
@[simp] theorem setP_ibuf (t : Strm) (sh : Bool) (n : Nat) (v : Bool) : (t.setP sh n v).ibuf = t.ibuf := by simp only [Strm.setP]; split <;> (try split) <;> rfl

/-! ### The other fields of a stream after setM -/

@[simp] theorem setM_run (t : Strm) (n : Nat) (v : Mask) : (t.setM n v).run = t.run := by simp only [Strm.setM]; split <;> rfl
@[simp] theorem setM_inst (t : Strm) (n : Nat) (v : Mask) : (t.setM n v).inst = t.inst := by simp only [Strm.setM]; split <;> rfl
@[simp] theorem setM_pc (t : Strm) (n : Nat) (v : Mask) : (t.setM n v).pc = t.pc := by simp only [Strm.setM]; split <;> rfl
@[simp] theorem setM_last (t : Strm) (n : Nat) (v : Mask) : (t.setM n v).last = t.last := by simp only [Strm.setM]; split <;> rfl
@[simp] theorem setM_npc (t : Strm) (n : Nat) (v : Mask) : (t.setM n v).npc = t.npc := by simp only [Strm.setM]; split <;> rfl
@[simp] theorem setM_holdTo (t : Strm) (n : Nat) (v : Mask) : (t.setM n v).holdTo = t.holdTo := by simp only [Strm.setM]; split <;> rfl
@[simp] theorem setM_ready (t : Strm) (n : Nat) (v : Mask) : (t.setM n v).ready = t.ready := by simp only [Strm.setM]; split <;> rfl
@[simp] theorem setM_left (t : Strm) (n : Nat) (v : Mask) : (t.setM n v).left = t.left := by simp only [Strm.setM]; split <;> rfl
@[simp] theorem setM_x (t : Strm) (n : Nat) (v : Mask) : (t.setM n v).x = t.x := by simp only [Strm.setM]; split <;> rfl
@[simp] theorem setM_sx (t : Strm) (n : Nat) (v : Mask) : (t.setM n v).sx = t.sx := by simp only [Strm.setM]; split <;> rfl
@[simp] theorem setM_p (t : Strm) (n : Nat) (v : Mask) : (t.setM n v).p = t.p := by simp only [Strm.setM]; split <;> rfl
@[simp] theorem setM_sp (t : Strm) (n : Nat) (v : Mask) : (t.setM n v).sp = t.sp := by simp only [Strm.setM]; split <;> rfl
@[simp] theorem setM_v (t : Strm) (n : Nat) (v : Mask) : (t.setM n v).v = t.v := by simp only [Strm.setM]; split <;> rfl
@[simp] theorem setM_o (t : Strm) (n : Nat) (v : Mask) : (t.setM n v).o = t.o := by simp only [Strm.setM]; split <;> rfl
@[simp] theorem setM_j (t : Strm) (n : Nat) (v : Mask) : (t.setM n v).j = t.j := by simp only [Strm.setM]; split <;> rfl
@[simp] theorem setM_t (t : Strm) (n : Nat) (v : Mask) : (t.setM n v).t = t.t := by simp only [Strm.setM]; split <;> rfl
@[simp] theorem setM_ras (t : Strm) (n : Nat) (v : Mask) : (t.setM n v).ras = t.ras := by simp only [Strm.setM]; split <;> rfl
@[simp] theorem setM_axen (t : Strm) (n : Nat) (v : Mask) : (t.setM n v).axen = t.axen := by simp only [Strm.setM]; split <;> rfl
@[simp] theorem setM_axflag (t : Strm) (n : Nat) (v : Mask) : (t.setM n v).axflag = t.axflag := by simp only [Strm.setM]; split <;> rfl
@[simp] theorem setM_srctr (t : Strm) (n : Nat) (v : Mask) : (t.setM n v).srctr = t.srctr := by simp only [Strm.setM]; split <;> rfl
@[simp] theorem setM_trap (t : Strm) (n : Nat) (v : Mask) : (t.setM n v).trap = t.trap := by simp only [Strm.setM]; split <;> rfl
@[simp] theorem setM_late (t : Strm) (n : Nat) (v : Mask) : (t.setM n v).late = t.late := by simp only [Strm.setM]; split <;> rfl
@[simp] theorem setM_origin (t : Strm) (n : Nat) (v : Mask) : (t.setM n v).origin = t.origin := by simp only [Strm.setM]; split <;> rfl
@[simp] theorem setM_hcsel (t : Strm) (n : Nat) (v : Mask) : (t.setM n v).hcsel = t.hcsel := by simp only [Strm.setM]; split <;> rfl
@[simp] theorem setM_nmstat (t : Strm) (n : Nat) (v : Mask) : (t.setM n v).nmstat = t.nmstat := by simp only [Strm.setM]; split <;> rfl
@[simp] theorem setM_nmnext (t : Strm) (n : Nat) (v : Mask) : (t.setM n v).nmnext = t.nmnext := by simp only [Strm.setM]; split <;> rfl
@[simp] theorem setM_pend (t : Strm) (n : Nat) (v : Mask) : (t.setM n v).pend = t.pend := by simp only [Strm.setM]; split <;> rfl
@[simp] theorem setM_waits (t : Strm) (n : Nat) (v : Mask) : (t.setM n v).waits = t.waits := by simp only [Strm.setM]; split <;> rfl
@[simp] theorem setM_fence (t : Strm) (n : Nat) (v : Mask) : (t.setM n v).fence = t.fence := by simp only [Strm.setM]; split <;> rfl
@[simp] theorem setM_ibuf (t : Strm) (n : Nat) (v : Mask) : (t.setM n v).ibuf = t.ibuf := by simp only [Strm.setM]; split <;> rfl

/-! ### The other fields of a stream after enterJ -/

@[simp] theorem enterJ_run (t : Strm) (n : Nat) (r : Row) : (t.enterJ n r).run = t.run := rfl
@[simp] theorem enterJ_inst (t : Strm) (n : Nat) (r : Row) : (t.enterJ n r).inst = t.inst := rfl
@[simp] theorem enterJ_pc (t : Strm) (n : Nat) (r : Row) : (t.enterJ n r).pc = t.pc := rfl
@[simp] theorem enterJ_last (t : Strm) (n : Nat) (r : Row) : (t.enterJ n r).last = t.last := rfl
@[simp] theorem enterJ_npc (t : Strm) (n : Nat) (r : Row) : (t.enterJ n r).npc = t.npc := rfl
@[simp] theorem enterJ_holdTo (t : Strm) (n : Nat) (r : Row) : (t.enterJ n r).holdTo = t.holdTo := rfl
@[simp] theorem enterJ_ready (t : Strm) (n : Nat) (r : Row) : (t.enterJ n r).ready = t.ready := rfl
@[simp] theorem enterJ_left (t : Strm) (n : Nat) (r : Row) : (t.enterJ n r).left = t.left := rfl
@[simp] theorem enterJ_x (t : Strm) (n : Nat) (r : Row) : (t.enterJ n r).x = t.x := rfl
@[simp] theorem enterJ_sx (t : Strm) (n : Nat) (r : Row) : (t.enterJ n r).sx = t.sx := rfl
@[simp] theorem enterJ_p (t : Strm) (n : Nat) (r : Row) : (t.enterJ n r).p = t.p := rfl
@[simp] theorem enterJ_sp (t : Strm) (n : Nat) (r : Row) : (t.enterJ n r).sp = t.sp := rfl
@[simp] theorem enterJ_v (t : Strm) (n : Nat) (r : Row) : (t.enterJ n r).v = t.v := rfl
@[simp] theorem enterJ_o (t : Strm) (n : Nat) (r : Row) : (t.enterJ n r).o = t.o := rfl
@[simp] theorem enterJ_m (t : Strm) (n : Nat) (r : Row) : (t.enterJ n r).m = t.m := rfl
@[simp] theorem enterJ_t (t : Strm) (n : Nat) (r : Row) : (t.enterJ n r).t = t.t := rfl
@[simp] theorem enterJ_ras (t : Strm) (n : Nat) (r : Row) : (t.enterJ n r).ras = t.ras := rfl
@[simp] theorem enterJ_axen (t : Strm) (n : Nat) (r : Row) : (t.enterJ n r).axen = t.axen := rfl
@[simp] theorem enterJ_axflag (t : Strm) (n : Nat) (r : Row) : (t.enterJ n r).axflag = t.axflag := rfl
@[simp] theorem enterJ_srctr (t : Strm) (n : Nat) (r : Row) : (t.enterJ n r).srctr = t.srctr := rfl
@[simp] theorem enterJ_trap (t : Strm) (n : Nat) (r : Row) : (t.enterJ n r).trap = t.trap := rfl
@[simp] theorem enterJ_late (t : Strm) (n : Nat) (r : Row) : (t.enterJ n r).late = t.late := rfl
@[simp] theorem enterJ_origin (t : Strm) (n : Nat) (r : Row) : (t.enterJ n r).origin = t.origin := rfl
@[simp] theorem enterJ_hcsel (t : Strm) (n : Nat) (r : Row) : (t.enterJ n r).hcsel = t.hcsel := rfl
@[simp] theorem enterJ_nmstat (t : Strm) (n : Nat) (r : Row) : (t.enterJ n r).nmstat = t.nmstat := rfl
@[simp] theorem enterJ_nmnext (t : Strm) (n : Nat) (r : Row) : (t.enterJ n r).nmnext = t.nmnext := rfl
@[simp] theorem enterJ_pend (t : Strm) (n : Nat) (r : Row) : (t.enterJ n r).pend = t.pend := rfl
@[simp] theorem enterJ_waits (t : Strm) (n : Nat) (r : Row) : (t.enterJ n r).waits = t.waits := rfl
@[simp] theorem enterJ_fence (t : Strm) (n : Nat) (r : Row) : (t.enterJ n r).fence = t.fence := rfl
@[simp] theorem enterJ_ibuf (t : Strm) (n : Nat) (r : Row) : (t.enterJ n r).ibuf = t.ibuf := rfl

end Sys2Proof.Machine
end

