-- ==== Sys2Proof/Laws/Ops.lean ====
section
/-!
SUPPORT. Laws/Ops.lean: what each shared operation does, said once.
-/
namespace Sys2Proof.Machine

/-! ### Taking a place in the bundle -/

theorem me_modCur (s : State) (f : Core → Core) (h : ∀ c : Core, (f c).prim = c.prim ∧ (f c).comp = c.comp) :
    (s.modCur f).me = s.me := by
  simp only [State.me, State.strm, State.modCur, core_modCore, modCore_focus, Core.strm, (h _).1, (h _).2]
@[simp] theorem cur_modMe_inh (s : State) (f : Strm → Strm) : (s.modMe f).cur.inh = s.cur.inh := by
  simp only [State.cur, State.modMe, State.modStrm, core_modCore, modCore_focus, core_modStrm_inh]
@[simp] theorem cur_modMe_loop (s : State) (f : Strm → Strm) : (s.modMe f).cur.loop = s.cur.loop := by
  simp only [State.cur, State.modMe, State.modStrm, core_modCore, modCore_focus, core_modStrm_loop]

/-- A state whose streams and cores read as those of another one, but for charges, holds and the X-slot history. -/
structure SameRegs (s t : State) : Prop where
  focus : t.focus = s.focus
  inh : t.cur.inh = s.cur.inh
  loop : t.cur.loop = s.cur.loop
  x : t.me.x = s.me.x
  sx : t.me.sx = s.me.sx
  p : t.me.p = s.me.p
  sp : t.me.sp = s.me.sp
  v : t.me.v = s.me.v
  o : t.me.o = s.me.o
  j : t.me.j = s.me.j
  m : t.me.m = s.me.m

theorem SameRegs.rfl' (s : State) : SameRegs s s := ⟨rfl, rfl, rfl, rfl, rfl, rfl, rfl, rfl, rfl, rfl, rfl⟩
theorem SameRegs.trans {s t u : State} (h : SameRegs s t) (g : SameRegs t u) : SameRegs s u :=
  ⟨g.focus.trans h.focus, g.inh.trans h.inh, g.loop.trans h.loop, g.x.trans h.x, g.sx.trans h.sx, g.p.trans h.p, g.sp.trans h.sp,
    g.v.trans h.v, g.o.trans h.o, g.j.trans h.j, g.m.trans h.m⟩
theorem SameRegs.xRef {s t : State} (h : SameRegs s t) (r : XReg) : t.cur.xRef t.focus.2 r = s.cur.xRef s.focus.2 r := by
  simp only [Core.xRef, h.focus, h.inh, h.loop]
theorem SameRegs.pRef {s t : State} (h : SameRegs s t) (r : PReg) : t.cur.pRef t.focus.2 r = s.cur.pRef s.focus.2 r := by
  simp only [Core.pRef, h.focus, h.inh, h.loop]
theorem SameRegs.xEq {s t : State} (h : SameRegs s t) (r : XReg) : t.x r = s.x r := by
  simp only [State.x, h.xRef]
  cases s.cur.xRef s.focus.2 r <;> simp only [Strm.xAt, h.x, h.sx]
theorem SameRegs.pEq {s t : State} (h : SameRegs s t) (r : PReg) : t.p r = s.p r := by
  simp only [State.p, h.pRef]
  cases s.cur.pRef s.focus.2 r <;> simp only [Strm.pAt, h.p, h.sp]
theorem SameRegs.mEq {s t : State} (h : SameRegs s t) (r : MReg) : t.m r = s.m r := by
  simp only [State.m, Strm.mAt, h.m]
theorem SameRegs.vEq {s t : State} (h : SameRegs s t) (r : VSel) : t.v r = s.v r := by
  simp only [State.v, Core.vNum, h.v, h.o, h.j, h.focus, h.loop]

theorem sameRegs_modCur (s : State) (f : Core → Core)
    (h : ∀ c : Core, (f c).prim = c.prim ∧ (f c).comp = c.comp ∧ (f c).inh = c.inh ∧ (f c).loop = c.loop) :
    SameRegs s (s.modCur f) := by
  have hm := me_modCur s f (fun c => ⟨(h c).1, (h c).2.1⟩)
  have hc : (s.modCur f).cur = f s.cur := cur_modCur s f
  exact ⟨rfl, by rw [hc]; exact (h _).2.2.1, by rw [hc]; exact (h _).2.2.2, by rw [hm], by rw [hm], by rw [hm], by rw [hm], by rw [hm],
    by rw [hm], by rw [hm], by rw [hm]⟩
theorem sameRegs_holdFor (s : State) (n : Nat) : SameRegs s (s.holdFor n) := by
  refine ⟨rfl, cur_modMe_inh s _, cur_modMe_loop s _, ?_, ?_, ?_, ?_, ?_, ?_, ?_, ?_⟩ <;> simp only [State.holdFor, me_modMe]
theorem sameRegs_later (s : State) (sl n : Nat) (e : Effect) : SameRegs s (s.later sl n e) := by
  refine ⟨rfl, cur_modMe_inh s _, cur_modMe_loop s _, ?_, ?_, ?_, ?_, ?_, ?_, ?_, ?_⟩ <;> simp only [State.later, me_modMe]
theorem sameRegs_occupy (s : State) (sh : Shape) : SameRegs s (s.occupy sh) := by
  have hc := sameRegs_modCur s (fun c => { c with charge := c.charge + sh.weight }) (fun _ => ⟨rfl, rfl, rfl, rfl⟩)
  simp only [State.occupy]
  split
  · exact hc
  · split
    · exact hc.trans (sameRegs_holdFor _ _)
    · split
      · exact hc.trans (sameRegs_modCur _ _ fun _ => ⟨rfl, rfl, rfl, rfl⟩)
      · exact hc
/-- Taking its place changes no register that the slot reads. -/
theorem sameRegs_placed (s : State) (i : Instr) : SameRegs s (s.placed i) := by
  simp only [State.placed, State.fixSegment]
  split
  · exact (sameRegs_occupy s i.shape).trans (sameRegs_modCur _ _ fun _ => ⟨rfl, rfl, rfl, rfl⟩)
  · exact sameRegs_occupy s i.shape
@[simp] theorem placed_x (s : State) (i : Instr) (r : XReg) : (s.placed i).x r = s.x r := (sameRegs_placed s i).xEq r
@[simp] theorem placed_p (s : State) (i : Instr) (r : PReg) : (s.placed i).p r = s.p r := (sameRegs_placed s i).pEq r
@[simp] theorem placed_m (s : State) (i : Instr) (r : MReg) : (s.placed i).m r = s.m r := (sameRegs_placed s i).mEq r
@[simp] theorem placed_v (s : State) (i : Instr) (r : VSel) : (s.placed i).v r = s.v r := (sameRegs_placed s i).vEq r
@[simp] theorem placed_focus (s : State) (i : Instr) : (s.placed i).focus = s.focus := (sameRegs_placed s i).focus

theorem guardOn_placed (s : State) (i : Instr) (sh : Shape) : (s.placed i).guardOn sh = s.guardOn sh := by
  simp only [State.guardOn, placed_p]

/-! ### Issue of a slot -/

/-- A slot that goes has its effect in the state that it is placed in. -/
theorem runSlot_goes (i : Instr) (s : State) (body : State → State) (h : s.goes i) : runSlot i s body = body (s.placed i) := by
  have hg := (guardOn_placed s i i.shape).trans h.2.2
  simp only [State.placed] at hg ⊢
  simp only [runSlot, h.1, h.2.1, hg, Bool.false_eq_true, if_false, if_true]
theorem runSlot_waits (i : Instr) (s : State) (body : State → State) (h : s.slotWaits i = true) : runSlot i s body = s := by
  simp only [runSlot, h, if_true]
/-- With its guard 0 a slot only takes its place. -/
theorem runSlot_off (i : Instr) (s : State) (body : State → State) (hw : s.slotWaits i = false)
    (hf : s.slotFault i [i] (s.cascadeLag i.shape) = none) (hg : s.guardOn i.shape = false) :
    runSlot i s body = s.placed i := by
  have hg := (guardOn_placed s i i.shape).trans hg
  simp only [State.placed] at hg ⊢
  simp only [runSlot, hw, hf, hg, Bool.false_eq_true, if_false]
/-- An issue-class cause is the slot's whole effect. -/
theorem runSlot_fault (i : Instr) (s : State) (body : State → State) (f : Nat × Word) (hw : s.slotWaits i = false)
    (hf : s.slotFault i [i] (s.cascadeLag i.shape) = some f) :
    runSlot i s body = (if f.1 = 0x07 then s.holdFor i.shape.hold else s).issueTrap f.1 i.shape.slot f.2 := by
  simp only [runSlot, hw, hf, Bool.false_eq_true, if_false]
/-- What a slot comes to: nothing, a trap, its place alone, or its effect. -/
theorem runSlot_cases (i : Instr) (s : State) (body : State → State) :
    runSlot i s body = s ∨
    (∃ f, s.slotFault i [i] (s.cascadeLag i.shape) = some f ∧
      runSlot i s body = (if f.1 = 0x07 then s.holdFor i.shape.hold else s).issueTrap f.1 i.shape.slot f.2) ∨
    runSlot i s body = s.placed i ∨ (s.goes i ∧ runSlot i s body = body (s.placed i)) := by
  cases hw : s.slotWaits i
  · cases hf : s.slotFault i [i] (s.cascadeLag i.shape) with
    | some f => exact .inr (.inl ⟨f, rfl, runSlot_fault i s body f hw hf⟩)
    | none =>
      cases hg : s.guardOn i.shape
      · exact .inr (.inr (.inl (runSlot_off i s body hw hf hg)))
      · exact .inr (.inr (.inr ⟨⟨hw, hf, hg⟩, runSlot_goes i s body ⟨hw, hf, hg⟩⟩))
  · exact .inl (runSlot_waits i s body hw)

end Sys2Proof.Machine
end

