-- ==== Sys2Proof/Laws/Trap.lean ====
section
/-!
SUPPORT. Laws/Trap.lean: what taking a trap, stopping a group and changes of a list of cores do, said once: registers and
memory stay, and of the stream only its trap registers, its run state and its kept cycles change.
-/
namespace Sys2Proof.Machine

/-! ### Registers and memory that an update leaves alone -/

theorem SameArch.rfl' (a : Strm) : SameArch a a := ⟨rfl, rfl, rfl, rfl, rfl, rfl, rfl, rfl⟩
theorem SameArch.trans {a b c : Strm} (h : SameArch a b) (g : SameArch b c) : SameArch a c :=
  ⟨h.x.trans g.x, h.sx.trans g.sx, h.p.trans g.p, h.sp.trans g.sp, h.v.trans g.v, h.o.trans g.o, h.j.trans g.j, h.m.trans g.m⟩
theorem SameRegisters.rfl' (s : State) : SameRegisters s s := fun _ _ => SameArch.rfl' _
theorem SameRegisters.trans {s t u : State} (h : SameRegisters s t) (g : SameRegisters t u) : SameRegisters s u :=
  fun k c => (h k c).trans (g k c)
theorem SameMemory.rfl' (s : State) : SameMemory s s := ⟨rfl, rfl, fun _ => ⟨rfl, rfl⟩⟩
theorem SameMemory.trans {s t u : State} (h : SameMemory s t) (g : SameMemory t u) : SameMemory s u :=
  ⟨g.1.trans h.1, g.2.1.trans h.2.1, fun k => ⟨(g.2.2 k).1.trans (h.2.2 k).1, (g.2.2 k).2.trans (h.2.2 k).2⟩⟩
/-- States with the same cores have the same registers. -/
theorem sameRegisters_of_cores {s t : State} (h : t.cores = s.cores) : SameRegisters s t := by
  intro k c
  have : t.strm k c = s.strm k c := by simp only [State.strm, State.core, h]
  rw [this]
  exact SameArch.rfl' _
theorem sameMemory_of {s t : State} (hc : t.cores = s.cores) (hm : t.mem = s.mem) (hp : t.poison = s.poison) : SameMemory s t :=
  ⟨hm, hp, fun k => by simp only [State.core, hc, and_self]⟩

theorem sameRegisters_modCore (s : State) (k : CoreId) (f : Core → Core)
    (h : ∀ c : Core, SameArch c.prim (f c).prim ∧ SameArch c.comp (f c).comp) : SameRegisters s (s.modCore k f) := by
  intro j b
  by_cases e : k = j
  · subst e
    simp only [State.strm, core_modCore]
    cases b
    · exact (h _).1
    · exact (h _).2
  · rw [strm_modCore_ne s k j b f e]
    exact SameArch.rfl' _
theorem sameMemory_modCore (s : State) (k : CoreId) (f : Core → Core) (h : ∀ c : Core, (f c).sp = c.sp ∧ (f c).spBad = c.spBad) :
    SameMemory s (s.modCore k f) := by
  refine ⟨rfl, rfl, fun j => ?_⟩
  by_cases e : k = j
  · subst e
    rw [core_modCore]
    exact h _
  · rw [core_modCore_ne s k j f e]
    exact ⟨rfl, rfl⟩
theorem sameRegisters_modStrm (s : State) (k : CoreId) (b : Bool) (f : Strm → Strm) (h : ∀ t : Strm, SameArch t (f t)) :
    SameRegisters s (s.modStrm k b f) := by
  refine sameRegisters_modCore s k _ fun c => ?_
  cases b
  · exact ⟨h _, SameArch.rfl' _⟩
  · exact ⟨SameArch.rfl' _, h _⟩
theorem sameMemory_modStrm (s : State) (k : CoreId) (b : Bool) (f : Strm → Strm) : SameMemory s (s.modStrm k b f) := by
  refine sameMemory_modCore s k _ fun c => ?_
  cases b <;> exact ⟨rfl, rfl⟩

/-! ### Folds over cores -/

/-- A fold of updates that each leave a relation to the first state. -/
theorem foldl_keeps {α : Type} (r : State → State → Prop) (hr : ∀ s, r s s) (ht : ∀ {s t u}, r s t → r t u → r s u)
    (g : State → α → State) (hg : ∀ s a, r s (g s a)) (xs : List α) : ∀ s : State, r s (xs.foldl g s) := by
  induction xs with
  | nil => exact hr
  | cons a xs ih => exact fun s => ht (hg s a) (ih _)
/-- A core outside the list stays. -/
theorem core_foldl_modCore_of_not_mem (f : Core → Core) (j : CoreId) : ∀ (ks : List CoreId) (s : State), j ∉ ks →
    (ks.foldl (fun s k => s.modCore k f) s).core j = s.core j
  | [], _, _ => rfl
  | k :: ks, s, h => by
    rw [List.foldl_cons, core_foldl_modCore_of_not_mem f j ks _ (fun m => h (List.mem_cons_of_mem _ m)),
      core_modCore_ne s k j f (fun e => h (e ▸ List.mem_cons_self))]
/-- A core of the list changes once. -/
theorem core_foldl_modCore_of_mem (f : Core → Core) (j : CoreId) : ∀ (ks : List CoreId) (s : State), ks.Nodup → j ∈ ks →
    (ks.foldl (fun s k => s.modCore k f) s).core j = f (s.core j)
  | [], _, _, h => absurd h List.not_mem_nil
  | k :: ks, s, hn, h => by
    rw [List.nodup_cons] at hn
    rw [List.foldl_cons]
    by_cases e : k = j
    · subst e
      rw [core_foldl_modCore_of_not_mem f k ks _ hn.1, core_modCore]
    · have hm : j ∈ ks := (List.mem_cons.1 h).resolve_left (fun x => e x.symm)
      rw [core_foldl_modCore_of_mem f j ks _ hn.2 hm, core_modCore_ne s k j f e]
theorem allCores_nodup : allCores.Nodup := List.nodup_finRange 128
theorem mem_allCores (k : CoreId) : k ∈ allCores := List.mem_finRange k

/-! ### Stopping a group and taking a trap (R43, R85, R168) -/

theorem stopMembers_nodup (s : State) (k : CoreId) : (s.stopMembers k).Nodup := by
  simp only [State.stopMembers]
  split
  · exact List.nodup_cons.2 ⟨List.not_mem_nil, List.nodup_nil⟩
  all_goals exact allCores_nodup.filter _
/-- The members learn the stop's wall cycle and that of the fault; no other core changes. -/
theorem core_stopGroup (s : State) (k j : CoreId) (f : Nat) : (s.stopGroup k f).core j =
    if j ∈ s.stopMembers k then (s.core j).told (f + s.horizon k) f else s.core j := by
  simp only [State.stopGroup]
  split
  · next h => rw [core_foldl_modCore_of_mem _ j _ s (stopMembers_nodup s k) h]
  · next h => rw [core_foldl_modCore_of_not_mem _ j _ s h]
theorem sameRegisters_stopGroup (s : State) (k : CoreId) (f : Nat) : SameRegisters s (s.stopGroup k f) :=
  foldl_keeps SameRegisters SameRegisters.rfl' SameRegisters.trans (fun s' j => s'.modCore j fun c => c.told (f + s.horizon k) f)
    (fun s' j => sameRegisters_modCore s' j _ fun c => ⟨SameArch.rfl' c.prim, SameArch.rfl' c.comp⟩) _ s
theorem sameMemory_stopGroup (s : State) (k : CoreId) (f : Nat) : SameMemory s (s.stopGroup k f) :=
  foldl_keeps SameMemory SameMemory.rfl' SameMemory.trans (fun s' j => s'.modCore j fun c => c.told (f + s.horizon k) f)
    (fun s' j => sameMemory_modCore s' j _ fun _ => ⟨rfl, rfl⟩) _ s
theorem strm_stopGroup (s : State) (k j : CoreId) (f : Nat) (b : Bool) : (s.stopGroup k f).strm j b = s.strm j b := by
  simp only [State.strm, core_stopGroup]
  split <;> cases b <;> rfl

theorem sameArch_take (t : Strm) (cls cause slot : Nat) (pc npc : BitVec 52) (info cyc : Word) :
    SameArch t (t.take cls cause slot pc npc info cyc) := ⟨rfl, rfl, rfl, rfl, rfl, rfl, rfl, rfl⟩
theorem sameArch_retake (t : Strm) (cause slot : Nat) (info : Word) : SameArch t (t.retake cause slot info) :=
  ⟨rfl, rfl, rfl, rfl, rfl, rfl, rfl, rfl⟩
/-- A first trap: the stream's registers are written, firmware is told, and a primary in a group stops it. -/
theorem takeTrap_first (s : State) (k : CoreId) (b : Bool) (cls cause slot : Nat) (pc npc : BitVec 52) (info : Word)
    (h : (s.strm k b).trap.pend = false) (hr : (s.strm k b).run ≠ .trapped) : s.takeTrap k b cls cause slot pc npc info =
      if b = true ∨ (s.core k).group = none then
        (s.modStrm k b fun t => t.take cls cause slot pc npc info s.cyc).firmware 0 k.val b 0 0
      else ((s.modStrm k b fun t => t.take cls cause slot pc npc info s.cyc).firmware 0 k.val b 0 0).stopGroup k s.cyc.toNat := by
  simp only [State.takeTrap, h, hr, Bool.false_eq_true, if_false]
/-- What a trap comes to: nothing, another cause of the same bundle, or a first trap. -/
theorem takeTrap_cases (s : State) (k : CoreId) (b : Bool) (cls cause slot : Nat) (pc npc : BitVec 52) (info : Word) :
    s.takeTrap k b cls cause slot pc npc info = s ∨
    s.takeTrap k b cls cause slot pc npc info = s.modStrm k b (fun t => t.retake cause slot info) ∨
    s.takeTrap k b cls cause slot pc npc info = (s.modStrm k b fun t => t.take cls cause slot pc npc info s.cyc).firmware 0 k.val b 0 0 ∨
    s.takeTrap k b cls cause slot pc npc info =
      ((s.modStrm k b fun t => t.take cls cause slot pc npc info s.cyc).firmware 0 k.val b 0 0).stopGroup k s.cyc.toNat := by
  cases h : (s.strm k b).trap.pend
  · by_cases hr : (s.strm k b).run = .trapped
    · exact .inl (by simp only [State.takeTrap, h, hr, Bool.false_eq_true, if_false, if_true])
    rw [takeTrap_first s k b cls cause slot pc npc info h hr]
    split
    · exact .inr (.inr (.inl rfl))
    · exact .inr (.inr (.inr rfl))
  · simp only [State.takeTrap, h, if_true]
    split
    · exact .inr (.inl rfl)
    · exact .inl rfl
/-- A trap of a stream that stands in none changes that stream's run state, its kept cycles and its trap registers alone. -/
theorem strm_takeTrap (s : State) (k j : CoreId) (b d : Bool) (cls cause slot : Nat) (pc npc : BitVec 52) (info : Word)
    (h : (s.strm k b).trap.pend = false) (hr : (s.strm k b).run ≠ .trapped) : (s.takeTrap k b cls cause slot pc npc info).strm j d =
      if j = k ∧ d = b then (s.strm k b).take cls cause slot pc npc info s.cyc else s.strm j d := by
  have hu : (s.takeTrap k b cls cause slot pc npc info).strm j d =
      (s.modStrm k b fun t => t.take cls cause slot pc npc info s.cyc).strm j d := by
    rw [takeTrap_first s k b cls cause slot pc npc info h hr]
    split
    · rfl
    · rw [strm_stopGroup]
      rfl
  rw [hu]
  by_cases e : j = k
  · subst e
    by_cases g : d = b
    · subst g
      rw [if_pos ⟨rfl, rfl⟩, strm_modStrm]
    · rw [if_neg fun x => g x.2, strm_modStrm_other s j b d _ fun x => g x.symm]
  · rw [if_neg fun x => e x.1]
    exact strm_modCore_ne s k j d _ fun x => e x.symm
theorem sameRegisters_takeTrap (s : State) (k : CoreId) (b : Bool) (cls cause slot : Nat) (pc npc : BitVec 52) (info : Word) :
    SameRegisters s (s.takeTrap k b cls cause slot pc npc info) := by
  have h1 := sameRegisters_modStrm s k b (fun t => t.take cls cause slot pc npc info s.cyc) fun t => sameArch_take t cls cause slot pc npc info s.cyc
  have h2 : SameRegisters (s.modStrm k b fun t => t.take cls cause slot pc npc info s.cyc)
      ((s.modStrm k b fun t => t.take cls cause slot pc npc info s.cyc).firmware 0 k.val b 0 0) := sameRegisters_of_cores rfl
  rcases takeTrap_cases s k b cls cause slot pc npc info with h | h | h | h <;> rw [h]
  · exact SameRegisters.rfl' s
  · exact sameRegisters_modStrm s k b _ fun t => sameArch_retake t cause slot info
  · exact h1.trans h2
  · exact (h1.trans h2).trans (sameRegisters_stopGroup _ k _)
theorem sameMemory_takeTrap (s : State) (k : CoreId) (b : Bool) (cls cause slot : Nat) (pc npc : BitVec 52) (info : Word) :
    SameMemory s (s.takeTrap k b cls cause slot pc npc info) := by
  have h1 := sameMemory_modStrm s k b (fun t => t.take cls cause slot pc npc info s.cyc)
  have h2 : SameMemory (s.modStrm k b fun t => t.take cls cause slot pc npc info s.cyc)
      ((s.modStrm k b fun t => t.take cls cause slot pc npc info s.cyc).firmware 0 k.val b 0 0) := sameMemory_of rfl rfl rfl
  rcases takeTrap_cases s k b cls cause slot pc npc info with h | h | h | h <;> rw [h]
  · exact SameMemory.rfl' s
  · exact sameMemory_modStrm s k b _
  · exact h1.trans h2
  · exact (h1.trans h2).trans (sameMemory_stopGroup _ k _)

/-! ### Causes of arithmetic (R113) -/

/-- A slot that raises nothing has its effect. -/
theorem arith_zero (s : State) (sl lane : Nat) (body : State → State) : s.arith sl 0 lane body = body s := by
  simp [State.arith]

end Sys2Proof.Machine
end

