-- ==== Sys2Proof/Laws/Exec.lean ====
section
/-!
SUPPORT. Laws/Exec.lean: what an instruction is to exec and a step of the agenda to step, and the canonical form of memory
across the operations that steps share.
-/
namespace Sys2Proof.Machine

/-- A slot instruction issues: exec is the issue of a slot with some effect. -/
theorem exec_slot (i : Instr) (s : State) (h : i.slot.isSome = true) : ∃ body, exec i s = .next (runSlot i s body) := by
  cases i
  all_goals first
    | exact Bool.noConfusion h
    | exact ⟨_, rfl⟩
/-- A machine step of the agenda is exec of the instruction of its name. -/
theorem event_run (e : Event) (i : Instr) (s : State) (h : e.instr = some i) : e.run s = exec i s := by
  cases e <;> cases h <;> rfl
/-- With an agenda a step is its first entry. -/
theorem step_agenda (s : State) (e : Event) (r : List Event) (h : s.agenda = e :: r) : step s = e.run { s with agenda := r } := by
  simp only [step, h]

/-! ### The canonical form of memory (R8, R175, R248) -/

theorem logError_wf (s : State) (kind core chan cause count addr detail : Nat) (h : Memory.wf s.mem = true) :
    Memory.wf (s.logError kind core chan cause count addr detail).mem = true := putWords_wf _ s _ h
/-- A fold of steps that each keep the canonical form. -/
theorem foldl_wf {α : Type} (g : State → α → State) (hg : ∀ s a, Memory.wf s.mem = true → Memory.wf (g s a).mem = true) (xs : List α) :
    ∀ s : State, Memory.wf s.mem = true → Memory.wf (xs.foldl g s).mem = true := by
  induction xs with
  | nil => exact fun _ h => h
  | cons a xs ih => exact fun s h => ih _ (hg s a h)
theorem reduceRow_wf (s : State) (pa : Nat) (isF : Bool) (d : Row) (h : Memory.wf s.mem = true) :
    Memory.wf (s.reduceRow pa isF d).mem = true := by
  refine foldl_wf _ (fun s i h => ?_) _ s h
  dsimp only
  repeat' split
  all_goals first
    | exact logError_wf _ _ _ _ _ _ _ _ h
    | exact store_wf _ _ _ _ _ _ h
/-- An access at its home keeps the canonical form. -/
theorem perform_wf (s : State) (a : Access) (h : Memory.wf s.mem = true) : Memory.wf (s.perform a).1.mem = true := by
  simp only [State.perform]
  split
  case h_8 => exact reduceRow_wf _ _ _ _ h
  all_goals repeat' split
  all_goals first
    | exact h
    | exact store_wf _ _ _ _ _ _ h
    | exact logError_wf _ _ _ _ _ _ _ _ h
theorem flatMap_parts_wf : ∀ (ps : List (Nat × Nat × Nat)) (lo hi : Nat), lo ≤ hi →
    (ps.Pairwise fun p q => p.1 + p.2.1 ≤ q.1) → (∀ p ∈ ps, lo ≤ p.1 ∧ p.1 + p.2.1 ≤ hi) →
    Memory.wfFrom lo (ps.flatMap fun p => Memory.ofVal p.1 p.2.1 p.2.2) = true ∧
      ∀ c ∈ ps.flatMap (fun p => Memory.ofVal p.1 p.2.1 p.2.2), c.1 < hi
  | [], _, _, _, _, _ => ⟨rfl, fun c h => absurd h List.not_mem_nil⟩
  | p :: ps, lo, hi, hl, hp, hb => by
    rw [List.pairwise_cons] at hp
    have hb0 := hb p List.mem_cons_self
    have v := Memory.wfFrom_ofVal p.2.1 p.1 p.2.2
    have ih := flatMap_parts_wf ps (p.1 + p.2.1) hi hb0.2 hp.2 fun q hq => ⟨hp.1 q hq, (hb q (List.mem_cons_of_mem _ hq)).2⟩
    rw [List.flatMap_cons]
    refine ⟨Memory.wfFrom_append _ _ lo (p.1 + p.2.1) (Memory.wfFrom_mono _ p.1 lo hb0.1 v.1) v.2 (by omega) ih.1, fun c h => ?_⟩
    rcases List.mem_append.1 h with h | h
    · have := v.2 c h
      omega
    · exact ih.2 c h
/-- The sections of the record lie one after another below the scratchpad (R175). -/
theorem layout_wf (v0 v1 v2 v3 v4 v5 v6 v7 v8 v9 v10 v11 v12 v13 v14 : Nat) :
    (([(0x0_0000, 4096, v0), (0x0_1000, 4096, v1), (0x0_2000, 4096, v2), (0x0_3000, 2048, v3), (0x0_3800, 1024, v4), (0x0_3C00, 1024, v5), (0x0_4000, 4096, v6), (0x0_5000, 40960, v7), (0x0_F000, 8192, v8), (0x1_1000, 16384, v9), (0x1_5000, 16384, v10),
      (0x1_9000, 65536, v11), (0x2_9000, 116736, v12), (0x4_5800, 116736, v13), (0x6_2000, 116736, v14)] :
      List (Nat × Nat × Nat)).Pairwise fun p q => p.1 + p.2.1 ≤ q.1) ∧
    ∀ p ∈ ([(0x0_0000, 4096, v0), (0x0_1000, 4096, v1), (0x0_2000, 4096, v2), (0x0_3000, 2048, v3), (0x0_3800, 1024, v4), (0x0_3C00, 1024, v5), (0x0_4000, 4096, v6), (0x0_5000, 40960, v7), (0x0_F000, 8192, v8),
      (0x1_1000, 16384, v9), (0x1_5000, 16384, v10), (0x1_9000, 65536, v11), (0x2_9000, 116736, v12), (0x4_5800, 116736, v13), (0x6_2000, 116736, v14)] :
      List (Nat × Nat × Nat)), 0 ≤ p.1 ∧ p.1 + p.2.1 ≤ 0x8_0000 := by
  simp only [List.pairwise_cons, List.mem_cons, List.not_mem_nil, or_false, false_implies, implies_true, List.Pairwise.nil, and_true, forall_eq_or_imp, forall_eq]
  omega
/-- The pre-emption record is a memory of canonical form when the scratchpad is one. -/
theorem recordImage_wf (s : State) (k : CoreId) (h : Memory.wf (s.core k).sp = true) : Memory.wf (s.recordImage k) = true := by
  have hp := flatMap_parts_wf (s.recordParts k) 0 0x8_0000 (by omega)
    (layout_wf _ _ _ _ _ _ _ _ _ _ _ _ _ _ _).1 (layout_wf _ _ _ _ _ _ _ _ _ _ _ _ _ _ _).2
  have h2 := Memory.wfFrom_shift 0x8_0000 _ 0 (Memory.wfFrom_filter (fun b => decide (b.1 < 0x40_0000)) (s.core k).sp 0 h)
  rw [Nat.add_zero] at h2
  simp only [Memory.wf, State.recordImage]
  exact Memory.wfFrom_append _ _ 0 0x8_0000 hp.1 hp.2 (Nat.zero_le _) h2
/-- Writing the pre-emption record keeps the canonical form. -/
theorem writeRecord_wf (s : State) (k : CoreId) (a : Nat) (hm : Memory.wf s.mem = true) (hs : Memory.wf (s.core k).sp = true) :
    Memory.wf (s.writeRecord k a).mem = true := by
  have e : (s.writeRecord k a).mem = Memory.fill s.mem a 0x48_0000 (s.recordImage k) := by simp only [State.writeRecord, State.fillBytes]
  rw [e]
  exact Memory.wf_fill _ _ _ _ hm (recordImage_wf s k hs)
/-- Placing a bundle keeps the canonical form of device memory and of every scratchpad. -/
theorem withFetchWord_wf (s : State) (nbits w : Nat) (h : Memory.wf s.mem = true) : Memory.wf (s.withFetchWord nbits w).mem = true := by
  simp only [State.withFetchWord, modCore_mem]
  apply Memory.wf_putN
  exact h

end Sys2Proof.Machine
end

