-- ==== Sys2Proof/Tests/Slice0.lean ====
section
/-!
SUPPORT. Tests/Slice0.lean: ill-formed terms that WellFormed refuses, words of every slot instruction written out field by field from
the spec's encoding tables, one step on a small state for the instructions, and for each statement states that meet its hypotheses.
-/
section
set_option Elab.async false
namespace Sys2Proof

/-! ### Well-formedness: one ill-formed term for each check (R69, R70, R75, R78, R80, R204 to R211, R227, R240, R249) -/

theorem test_ill_formed_refused : ∀ i ∈ ([
      .hold 0, .sadv 0 1 0                                        -- a count of 0
    , .cmpeqC ⟨0, 0⟩ 3 1 2, .cmpeqS 0 0 1 2, .fcmp 0 .f32 .lt 15 1 2   -- a pair that is odd, or p0
    , .pand ⟨0, 0⟩ 0 1 2, .pmov 0 0 1, .rwlRdacq 0 1 2 0            -- p0 as the destination
    , .fcvt 0 .f32 .f32 .rne 1 2                                  -- a conversion to its own type
    , .xv 0 .i32 32 1 2, .xv 0 .i32 0 1 0x38                      -- a lane past the end, a stream register
    , .vx 0 .i64 16 2 1, .vx 0 .i64 0 0x30 1                      -- a lane past the end, a j register
    , .vaddV0 ⟨0, .w256, .i8⟩ 0x30 1 2, .vfmaV1 ⟨0, .w256, .f32⟩ 0x38 1 2   -- j as the destination; q as one that is read
    , .vshl ⟨0, .w256, .f32⟩ 1 2 3, .vexpo ⟨0, .w256, .i32⟩ 1 2     -- a type that the entry does not list
    , .vexp2 ⟨0, .w256, .f64⟩ 1 2, .vpack ⟨0, .w256, .i8⟩ 1 2 3, .vunpk ⟨0, .w256, .i64⟩ 1 2 false false
    , .vcmpeqV0 ⟨0, .w256, .i8⟩ 3 1 2                             -- an odd mask pair
    , .vrotl ⟨0, .w256, .i32⟩ 1 2 8, .vbcl ⟨0, .w256, .i32⟩ 1 2 32   -- a lane past the end
    , .vcvtV0 ⟨0, .w256, .i32⟩ 1 2 .rne .i32, .vcvtV0 ⟨0, .w256, .i8⟩ 1 2 .rtz .i32   -- VCVT's combinations
    , .vcvtV0 ⟨0, .w256, .f32⟩ 1 2 .sr .i32, .vcvtV0 ⟨0, .w256, .f32⟩ 1 2 .rup .f16, .vcvtV0 ⟨0, .w256, .bf16⟩ 1 2 .sr .f16
    , .xacc 0 false .slice (.q 0) (.q 1) 5 0 .none false, .xacc 0 false .i8i8 (.q 0) (.q 1) 1 0 .none false   -- slices
    , .xaccz 0 true .i8i8 (.q 0) (.q 1) 0 0 .shift true, .xzero 0 true .clear true, .xdrn 0 .none false   -- drains
    , .ld 0 0x30 1 0, .st 0 0x38 1 0, .rmrg 0 0x30 1 2, .rmrg 0 1 0x38 2   -- selectors of the L slot
    , .eld 0 1 0x38 2, .gls 0 1 false 2 0x38, .zld 0 1 0x38
    ] : List Instr), i.wf = false := by decide +kernel

/-! ### Decoding: words written out field by field (R63, R72 to R82, R193, R204 to R213, R226 to R251, R271 to R274, R318 to R445) -/

theorem test_decode_c_1 : ∀ f ∈ ([
      (0b0101_1001_000001_100101_010101_110010, .addC ⟨5, 9⟩ 37 21 50)
    , (0b0101_1001_000010_100101_010101_110010, .subC ⟨5, 9⟩ 37 21 50)
    , (0b0101_1001_000011_100101_010101_110010, .andC ⟨5, 9⟩ 37 21 50)
    , (0b0101_1001_000100_100101_010101_110010, .orC ⟨5, 9⟩ 37 21 50)
    , (0b0101_1001_000101_100101_010101_110010, .xorC ⟨5, 9⟩ 37 21 50)
    , (0b0101_1001_000110_100101_010101_110010, .andnC ⟨5, 9⟩ 37 21 50)
    , (0b0101_1001_000111_100101_010101_110010, .shlC ⟨5, 9⟩ 37 21 50)
    , (0b0101_1001_001000_100101_010101_110010, .shrC ⟨5, 9⟩ 37 21 50)
    , (0b0101_1001_001001_100101_010101_110010, .sraC ⟨5, 9⟩ 37 21 50)
    , (0b0101_1001_001010_100101_010101_110010, .minC ⟨5, 9⟩ 37 21 50)
    , (0b0101_1001_001011_100101_010101_110010, .maxC ⟨5, 9⟩ 37 21 50)
    , (0b0101_1001_001100_100101_010101_110010, .minuC ⟨5, 9⟩ 37 21 50)
    , (0b0101_1001_001101_100101_010101_110010, .maxuC ⟨5, 9⟩ 37 21 50)
    , (0b0101_1001_001110_100101_100110100101, .addiC ⟨5, 9⟩ 37 0x9A5)
    , (0b0101_1001_001111_100101_100110100101, .liC ⟨5, 9⟩ 37 0x9A5)
    , (0b0101_1001_010000_100101_100110100101, .lihC ⟨5, 9⟩ 37 0x9A5)] : List (Word32 × Instr)),
    (decodeSlot 0 f.1).toOption = some f.2 := by decide +kernel
theorem test_decode_c_2 : ∀ f ∈ ([
      (0b0101_1001_010010_1010_00_010101_110010, .cmpeqC ⟨5, 9⟩ 10 21 50)
    , (0b0101_1001_010011_1010_00_010101_110010, .cmpltC ⟨5, 9⟩ 10 21 50)
    , (0b0101_1001_010100_1010_00_010101_110010, .cmpltuC ⟨5, 9⟩ 10 21 50)
    , (0b0101_1001_010101_1010_00_010101_110010, .cmpleC ⟨5, 9⟩ 10 21 50)
    , (0b0101_1001_010110_1010_00_010101_110010, .cmpleuC ⟨5, 9⟩ 10 21 50)
    , (0b0101_1001_010111_1010_010101_10011010, .cmpeqi ⟨5, 9⟩ 10 21 0x9A)
    , (0b0101_1001_011000_1010_010101_10011010, .cmplti ⟨5, 9⟩ 10 21 0x9A)
    , (0b0101_1001_011001_1001_0110_1101_000000, .pand ⟨5, 9⟩ 9 6 13)
    , (0b0101_1001_011010_1001_0110_1101_000000, .por ⟨5, 9⟩ 9 6 13)
    , (0b0101_1001_011011_1001_0110_1101_000000, .pxor ⟨5, 9⟩ 9 6 13)
    , (0b0101_1001_011100_1001_0110_1101_000000, .pandn ⟨5, 9⟩ 9 6 13)
    , (0b0101_1001_100000_101_000000000000000, .br ⟨5, 9⟩ 5)
    , (0b0101_1001_100001_101_000000000000000, .call ⟨5, 9⟩ 5)
    , (0b0101_1001_100010_000000000000000000, .ret ⟨5, 9⟩)
    , (0b0101_1001_100011_101_101101000111100, .pbr ⟨5, 9⟩ 5 0x5A3C)
    , (0b0101_1001_100100_101_100110_000000000, .pbrx ⟨5, 9⟩ 5 38)] : List (Word32 × Instr)),
    (decodeSlot 0 f.1).toOption = some f.2 := by decide +kernel
theorem test_decode_c_3 : ∀ f ∈ ([
      (0b0101_1001_100101_100110_000000_101001, .loop ⟨5, 9⟩ 38 41)
    , (0b0101_1001_100110_101_000000000000000, .brl ⟨5, 9⟩ 5)
    , (0b0101_1001_100111_000000000000000000, .segb ⟨5, 9⟩)
    , (0b0101_1001_101000_000000000000000000, .phend ⟨5, 9⟩)
    , (0b0101_1001_101001_000000000000000000, .tend ⟨5, 9⟩)
    , (0b0101_1001_101010_000000000000000000, .realign ⟨5, 9⟩)
    , (0b0101_1001_101011_000000_100110100101, .trap ⟨5, 9⟩ 0x9A5)
    , (0b0101_1001_101100_000000000000000000, .uiret ⟨5, 9⟩)
    , (0b0101_1001_101101_000000000000000000, .waiti ⟨5, 9⟩)
    , (0b0101_1001_110000_000000000000000000, .ifence ⟨5, 9⟩)
    , (0b0101_1001_101110_100101_100110100101, .rdc ⟨5, 9⟩ 37 0x9A5)
    , (0b0101_1001_101111_100101_100110100101, .wrc ⟨5, 9⟩ 37 0x9A5)
    , (0b0000_1001_000000000000000000000000, .hold 9)
    , (0b00000000000000000000000000000000, .nop)] : List (Word32 × Instr)),
    (decodeSlot 0 f.1).toOption = some f.2 := by decide +kernel
theorem test_decode_s_1 : ∀ f ∈ ([
      (0b0101_000001_100101_010101_110010_0000, .addS 5 37 21 50)
    , (0b0101_000010_100101_010101_110010_0000, .subS 5 37 21 50)
    , (0b0101_000011_100101_010101_110010_0000, .mul 5 37 21 50)
    , (0b0101_000100_100101_010101_110010_0000, .mulh 5 37 21 50)
    , (0b0101_000101_100101_010101_110010_0000, .mulhu 5 37 21 50)
    , (0b0101_000110_100101_010101_110010_0000, .div 5 37 21 50)
    , (0b0101_000111_100101_010101_110010_0000, .divu 5 37 21 50)
    , (0b0101_001000_100101_010101_110010_0000, .rem 5 37 21 50)
    , (0b0101_001001_100101_010101_110010_0000, .remu 5 37 21 50)
    , (0b0101_001010_100101_010101_110010_0000, .andS 5 37 21 50)
    , (0b0101_001011_100101_010101_110010_0000, .orS 5 37 21 50)
    , (0b0101_001100_100101_010101_110010_0000, .xorS 5 37 21 50)
    , (0b0101_001101_100101_010101_110010_0000, .andnS 5 37 21 50)
    , (0b0101_001110_100101_010101_110010_0000, .shlS 5 37 21 50)
    , (0b0101_001111_100101_010101_110010_0000, .shrS 5 37 21 50)
    , (0b0101_010000_100101_010101_110010_0000, .sraS 5 37 21 50)] : List (Word32 × Instr)),
    (decodeSlot 1 f.1).toOption = some f.2 := by decide +kernel
theorem test_decode_s_2 : ∀ f ∈ ([
      (0b0101_010001_100101_010101_110010_0000, .rol 5 37 21 50)
    , (0b0101_010010_100101_010101_000000_0000, .clz 5 37 21)
    , (0b0101_010011_100101_010101_000000_0000, .ctz 5 37 21)
    , (0b0101_010100_100101_010101_000000_0000, .popc 5 37 21)
    , (0b0101_010101_100101_010101_110010_1011, .sel 5 37 21 50 11)
    , (0b0101_010110_100101_1001101001011100, .addiS 5 37 0x9A5C)
    , (0b0101_010111_100101_1001101001011100, .liS 5 37 0x9A5C)
    , (0b0101_011000_100101_1001101001011100, .lihS 5 37 0x9A5C)
    , (0b0101_011001_100101_1011_000000000000, .movp 5 37 11)
    , (0b0101_011010_1011_00_010101_0000000000, .pmov 5 11 21)
    , (0b0101_011011_1010_00_010101_110010_0000, .cmpeqS 5 10 21 50)
    , (0b0101_011100_1010_00_010101_110010_0000, .cmpltS 5 10 21 50)
    , (0b0101_011101_1010_00_010101_110010_0000, .cmpltuS 5 10 21 50)
    , (0b0101_011110_1010_00_010101_110010_0000, .cmpleS 5 10 21 50)
    , (0b0101_011111_1010_00_010101_110010_0000, .cmpleuS 5 10 21 50)
    , (0b0101_100000_100101_010101_110010_00_11, .fadd 5 .f16 .rdn 37 21 50)] : List (Word32 × Instr)),
    (decodeSlot 1 f.1).toOption = some f.2 := by decide +kernel
theorem test_decode_s_3 : ∀ f ∈ ([
      (0b0101_100001_100101_010101_110010_01_10, .fsub 5 .bf16 .rup 37 21 50)
    , (0b0101_100010_100101_010101_110010_10_01, .fmul 5 .f32 .rtz 37 21 50)
    , (0b0101_100011_100101_010101_110010_11_00, .ffma 5 .f64 .rne 37 21 50)
    , (0b0101_100100_1010_00_010101_110010_01_11, .fcmp 5 .bf16 .un 10 21 50)
    , (0b0101_100100_1010_00_010101_110010_11_01, .fcmp 5 .f64 .lt 10 21 50)
    , (0b0101_100100_1010_00_010101_110010_10_10, .fcmp 5 .f32 .le 10 21 50)
    , (0b0101_100100_1010_00_010101_110010_00_00, .fcmp 5 .f16 .eq 10 21 50)
    , (0b0101_100101_100101_010101_100_011_00_10, .fcvt 5 .i64 .f64 .rup 37 21)
    , (0b0101_100101_100101_010101_001_010_00_00, .fcvt 5 .bf16 .f32 .rne 37 21)
    , (0b0101_100110_100101_110011_0011110_010, .xv 5 .i32 30 37 0x33)
    , (0b0101_100111_101011_010101_0001110_111, .vx 5 .f64 14 0x2B 21)] : List (Word32 × Instr)),
    (decodeSlot 1 f.1).toOption = some f.2 := by decide +kernel
theorem test_decode_v0_1 : ∀ f ∈ ([
      (0b0110_00001_01_101_101011_110011_010010, .vaddV0 ⟨6, .w512, .bf16⟩ 0x2B 0x33 0x12)
    , (0b0110_00010_01_010_101011_110011_010010, .vsubV0 ⟨6, .w512, .i32⟩ 0x2B 0x33 0x12)
    , (0b0110_00011_10_110_101011_110011_010010, .vmulV0 ⟨6, .w1024, .f32⟩ 0x2B 0x33 0x12)
    , (0b0110_00100_10_110_101011_110011_010010, .vfmaV0 ⟨6, .w1024, .f32⟩ 0x2B 0x33 0x12)
    , (0b0110_00101_10_110_101011_110011_010010, .vfmsV0 ⟨6, .w1024, .f32⟩ 0x2B 0x33 0x12)
    , (0b0110_00110_01_010_101011_110011_010010, .vminV0 ⟨6, .w512, .i32⟩ 0x2B 0x33 0x12)
    , (0b0110_00111_01_010_101011_110011_010010, .vmaxV0 ⟨6, .w512, .i32⟩ 0x2B 0x33 0x12)
    , (0b0110_01000_00_001_101011_110011_010010, .vminuV0 ⟨6, .w256, .i16⟩ 0x2B 0x33 0x12)
    , (0b0110_01001_00_001_101011_110011_010010, .vmaxuV0 ⟨6, .w256, .i16⟩ 0x2B 0x33 0x12)
    , (0b0110_01010_00_001_101011_110011_010010, .vandV0 ⟨6, .w256, .i16⟩ 0x2B 0x33 0x12)
    , (0b0110_01011_00_001_101011_110011_010010, .vorV0 ⟨6, .w256, .i16⟩ 0x2B 0x33 0x12)
    , (0b0110_01100_00_001_101011_110011_010010, .vxorV0 ⟨6, .w256, .i16⟩ 0x2B 0x33 0x12)
    , (0b0110_01101_00_001_101011_110011_010010, .vandn ⟨6, .w256, .i16⟩ 0x2B 0x33 0x12)
    , (0b0110_01110_00_001_101011_110011_010010, .vshl ⟨6, .w256, .i16⟩ 0x2B 0x33 0x12)
    , (0b0110_01111_00_001_101011_110011_010010, .vshr ⟨6, .w256, .i16⟩ 0x2B 0x33 0x12)
    , (0b0110_10000_00_001_101011_110011_010010, .vsra ⟨6, .w256, .i16⟩ 0x2B 0x33 0x12)] : List (Word32 × Instr)),
    (decodeSlot 2 f.1).toOption = some f.2 := by decide +kernel
theorem test_decode_v0_2 : ∀ f ∈ ([
      (0b0110_10001_01_011_101011_110011_000000, .vabsV0 ⟨6, .w512, .i64⟩ 0x2B 0x33)
    , (0b0110_10010_01_011_101011_110011_000000, .vnegV0 ⟨6, .w512, .i64⟩ 0x2B 0x33)
    , (0b0110_10011_10_000_001010_110011_010010, .vcmpeqV0 ⟨6, .w1024, .i8⟩ 10 0x33 0x12)
    , (0b0110_10100_10_000_001010_110011_010010, .vcmpltV0 ⟨6, .w1024, .i8⟩ 10 0x33 0x12)
    , (0b0110_10101_10_000_001010_110011_010010, .vcmpleV0 ⟨6, .w1024, .i8⟩ 10 0x33 0x12)
    , (0b0110_10110_01_010_101011_110011_010010, .vselV0 ⟨6, .w512, .i32⟩ 0x2B 0x33 0x12)
    , (0b0110_10111_01_000_101011_110011_100111, .vcvtV0 ⟨6, .w512, .i8⟩ 0x2B 0x33 .sr .f64)
    , (0b0110_11000_01_011_101011_110011_010010, .vshuf ⟨6, .w512, .i64⟩ 0x2B 0x33 0x12)
    , (0b0110_11001_00_000_101011_110011_011011, .vrotl ⟨6, .w256, .i8⟩ 0x2B 0x33 27)
    , (0b0110_11010_00_000_101011_110011_111011, .vbcl ⟨6, .w256, .i8⟩ 0x2B 0x33 59)
    , (0b0110_11011_01_011_101011_110011_000000, .vmovV0 ⟨6, .w512, .i64⟩ 0x2B 0x33)
    , (0b0110_11100_01_111_101011_110011_000000, .vexpo ⟨6, .w512, .f64⟩ 0x2B 0x33)
    , (0b0110_11101_10_010_101011_110011_010010, .vpack ⟨6, .w1024, .i32⟩ 0x2B 0x33 0x12)
    , (0b0110_11110_10_001_101011_110011_000010, .vunpk ⟨6, .w1024, .i16⟩ 0x2B 0x33 false true)] : List (Word32 × Instr)),
    (decodeSlot 2 f.1).toOption = some f.2 := by decide +kernel
theorem test_decode_v1_1 : ∀ f ∈ ([
      (0b0110_00001_01_101_101011_110011_010010, .vaddV1 ⟨6, .w512, .bf16⟩ 0x2B 0x33 0x12)
    , (0b0110_00010_01_011_101011_110011_010010, .vsubV1 ⟨6, .w512, .i64⟩ 0x2B 0x33 0x12)
    , (0b0110_00011_10_100_101011_110011_010010, .vmulV1 ⟨6, .w1024, .f16⟩ 0x2B 0x33 0x12)
    , (0b0110_00100_10_100_101011_110011_010010, .vfmaV1 ⟨6, .w1024, .f16⟩ 0x2B 0x33 0x12)
    , (0b0110_00101_10_100_101011_110011_010010, .vfmsV1 ⟨6, .w1024, .f16⟩ 0x2B 0x33 0x12)
    , (0b0110_00110_01_011_101011_110011_010010, .vminV1 ⟨6, .w512, .i64⟩ 0x2B 0x33 0x12)
    , (0b0110_00111_01_011_101011_110011_010010, .vmaxV1 ⟨6, .w512, .i64⟩ 0x2B 0x33 0x12)
    , (0b0110_01000_00_001_101011_110011_010010, .vminuV1 ⟨6, .w256, .i16⟩ 0x2B 0x33 0x12)
    , (0b0110_01001_00_001_101011_110011_010010, .vmaxuV1 ⟨6, .w256, .i16⟩ 0x2B 0x33 0x12)
    , (0b0110_01010_00_001_101011_110011_010010, .vandV1 ⟨6, .w256, .i16⟩ 0x2B 0x33 0x12)
    , (0b0110_01011_00_001_101011_110011_010010, .vorV1 ⟨6, .w256, .i16⟩ 0x2B 0x33 0x12)
    , (0b0110_01100_00_001_101011_110011_010010, .vxorV1 ⟨6, .w256, .i16⟩ 0x2B 0x33 0x12)
    , (0b0110_01101_01_011_101011_110011_010010, .vselV1 ⟨6, .w512, .i64⟩ 0x2B 0x33 0x12)
    , (0b0110_01110_10_000_001010_110011_010010, .vcmpeqV1 ⟨6, .w1024, .i8⟩ 10 0x33 0x12)
    , (0b0110_01111_10_000_001010_110011_010010, .vcmpltV1 ⟨6, .w1024, .i8⟩ 10 0x33 0x12)
    , (0b0110_10000_10_000_001010_110011_010010, .vcmpleV1 ⟨6, .w1024, .i8⟩ 10 0x33 0x12)] : List (Word32 × Instr)),
    (decodeSlot 3 f.1).toOption = some f.2 := by decide +kernel
theorem test_decode_v1_2 : ∀ f ∈ ([
      (0b0110_10001_01_010_101011_110011_000000, .vraddV1 ⟨6, .w512, .i32⟩ 0x2B 0x33)
    , (0b0110_10010_01_010_101011_110011_000000, .vrmaxV1 ⟨6, .w512, .i32⟩ 0x2B 0x33)
    , (0b0110_10011_01_010_101011_110011_000000, .vrmin ⟨6, .w512, .i32⟩ 0x2B 0x33)
    , (0b0110_10100_01_010_101011_110011_000010, .vscan ⟨6, .w512, .i32⟩ 0x2B 0x33 .min)
    , (0b0110_10101_01_101_101011_110011_000000, .vmaxexp ⟨6, .w512, .bf16⟩ 0x2B 0x33)
    , (0b0110_10110_01_011_101011_110011_010010, .vclamp ⟨6, .w512, .i64⟩ 0x2B 0x33 0x12)
    , (0b0110_10111_01_110_101011_110011_000011, .vrnd ⟨6, .w512, .f32⟩ 0x2B 0x33 .rdn)
    , (0b0110_11000_01_001_101011_110011_001110, .vcvtV1 ⟨6, .w512, .i16⟩ 0x2B 0x33 .rtz .f32)
    , (0b0110_11001_01_011_101011_110011_000000, .vabsV1 ⟨6, .w512, .i64⟩ 0x2B 0x33)
    , (0b0110_11010_01_011_101011_110011_000000, .vnegV1 ⟨6, .w512, .i64⟩ 0x2B 0x33)
    , (0b0110_11011_01_011_101011_110011_000000, .vmovV1 ⟨6, .w512, .i64⟩ 0x2B 0x33)] : List (Word32 × Instr)),
    (decodeSlot 3 f.1).toOption = some f.2 := by decide +kernel
theorem test_decode_v2_1 : ∀ f ∈ ([
      (0b0110_00001_01_101_101011_110011_010010, .vaddV2 ⟨6, .w512, .bf16⟩ 0x2B 0x33 0x12)
    , (0b0110_00010_01_010_101011_110011_010010, .vsubV2 ⟨6, .w512, .i32⟩ 0x2B 0x33 0x12)
    , (0b0110_00011_10_110_101011_110011_010010, .vmulV2 ⟨6, .w1024, .f32⟩ 0x2B 0x33 0x12)
    , (0b0110_00100_10_110_101011_110011_010010, .vfmaV2 ⟨6, .w1024, .f32⟩ 0x2B 0x33 0x12)
    , (0b0110_00101_01_010_101011_110011_010010, .vminV2 ⟨6, .w512, .i32⟩ 0x2B 0x33 0x12)
    , (0b0110_00110_01_010_101011_110011_010010, .vmaxV2 ⟨6, .w512, .i32⟩ 0x2B 0x33 0x12)
    , (0b0110_00111_01_010_101011_110011_010010, .vselV2 ⟨6, .w512, .i32⟩ 0x2B 0x33 0x12)
    , (0b0110_01000_01_100_101011_110011_000110, .vcvtV2 ⟨6, .w512, .f16⟩ 0x2B 0x33 .rne .f32)
    , (0b0110_01001_01_011_101011_110011_000000, .vmovV2 ⟨6, .w512, .i64⟩ 0x2B 0x33)
    , (0b0110_01010_00_101_101011_110011_000000, .vexp2 ⟨6, .w256, .bf16⟩ 0x2B 0x33)
    , (0b0110_01011_00_101_101011_110011_000000, .vlog2 ⟨6, .w256, .bf16⟩ 0x2B 0x33)
    , (0b0110_01100_00_101_101011_110011_000000, .vrcp ⟨6, .w256, .bf16⟩ 0x2B 0x33)
    , (0b0110_01101_00_101_101011_110011_000000, .vrsq ⟨6, .w256, .bf16⟩ 0x2B 0x33)
    , (0b0110_01110_00_101_101011_110011_000000, .vsqrt ⟨6, .w256, .bf16⟩ 0x2B 0x33)
    , (0b0110_01111_00_101_101011_110011_000000, .vtanh ⟨6, .w256, .bf16⟩ 0x2B 0x33)
    , (0b0110_10000_00_101_101011_110011_000000, .vsigm ⟨6, .w256, .bf16⟩ 0x2B 0x33)] : List (Word32 × Instr)),
    (decodeSlot 4 f.1).toOption = some f.2 := by decide +kernel
theorem test_decode_v2_2 : ∀ f ∈ ([
      (0b0110_10001_00_101_101011_110011_000000, .vsin ⟨6, .w256, .bf16⟩ 0x2B 0x33)
    , (0b0110_10010_00_101_101011_110011_000000, .vcos ⟨6, .w256, .bf16⟩ 0x2B 0x33)
    , (0b0110_10011_00_101_101011_110011_000000, .verf ⟨6, .w256, .bf16⟩ 0x2B 0x33)
    , (0b0110_10100_01_111_101011_110011_010010, .vldexp ⟨6, .w512, .f64⟩ 0x2B 0x33 0x12)
    , (0b0110_10101_01_010_101011_110011_000000, .vraddV2 ⟨6, .w512, .i32⟩ 0x2B 0x33)
    , (0b0110_10110_01_010_101011_110011_000000, .vrmaxV2 ⟨6, .w512, .i32⟩ 0x2B 0x33)
    , (0b0110_10111_10_000_001010_110011_010010, .vcmpltV2 ⟨6, .w1024, .i8⟩ 10 0x33 0x12)
    , (0b0110_11000_10_000_001010_110011_010010, .vcmpeqV2 ⟨6, .w1024, .i8⟩ 10 0x33 0x12)] : List (Word32 × Instr)),
    (decodeSlot 4 f.1).toOption = some f.2 := by decide +kernel
theorem test_decode_x : ∀ f ∈ ([
      (0b0101_001_1_110_00011_01010_10_0_100_010_00, .xacc 5 true .slice (.q 3) (.tq 2) 4 2 .clear false)
    , (0b0101_010_0_101_01001_00110_01_1_000_000_00, .xaccz 5 false .i8u4 (.tq 1) (.q 6) 0 0 .shift true)
    , (0b0101_001_0_111_00011_00010_00_1_000_000_00, .xacc 5 false .i8u8 (.q 3) (.q 2) 0 0 .none true)
    , (0b0101_011_1_000_00000_00000_01_0_000_000_00, .xzero 5 true .shift false)
    , (0b0101_100_0_000_00000_00000_10_1_000_000_00, .xdrn 5 .clear true)] : List (Word32 × Instr)),
    (decodeSlot 5 f.1).toOption = some f.2 := by decide +kernel
theorem test_decode_l_1 : ∀ f ∈ ([
      (0b0101_000001_101011_010101_1010100101, .ld 5 0x2B 21 0x2A5)
    , (0b0101_000010_101011_010101_1010100101, .st 5 0x2B 21 0x2A5)
    , (0b0101_000011_101011_010101_1010100101, .stm 5 0x2B 21 0x2A5)
    , (0b0101_000100_101011_010101_1010100101, .ldt 5 0x2B 21 0x2A5)
    , (0b0101_000101_101011_010101_1010100101, .ldb 5 0x2B 21 0x2A5)
    , (0b0101_000111_101011_010101_1010100101, .gld 5 0x2B 21 0x2A5)
    , (0b0101_001000_101011_010101_1010100101, .gst 5 0x2B 21 0x2A5)
    , (0b0101_000110_101011_110011_110010_0000, .rmrg 5 0x2B 0x33 50)
    , (0b0101_001100_101011_010101_110010_0000, .ldx 5 0x2B 21 50)
    , (0b0101_001101_110011_010101_110010_0000, .stx 5 0x33 21 50)
    , (0b0101_001001_100101_010101_110010_0000, .aopAdd 5 37 21 50)
    , (0b0101_001001_100101_010101_110010_0001, .aopFadd32 5 37 21 50)
    , (0b0101_001001_100101_010101_110010_0010, .aopMin 5 37 21 50)
    , (0b0101_001001_100101_010101_110010_0011, .aopMax 5 37 21 50)
    , (0b0101_001001_100101_010101_110010_0100, .aopMinu 5 37 21 50)
    , (0b0101_001001_100101_010101_110010_0101, .aopMaxu 5 37 21 50)] : List (Word32 × Instr)),
    (decodeSlot 6 f.1).toOption = some f.2 := by decide +kernel
theorem test_decode_l_2 : ∀ f ∈ ([
      (0b0101_001001_100101_010101_110010_0110, .aopAnd 5 37 21 50)
    , (0b0101_001001_100101_010101_110010_0111, .aopOr 5 37 21 50)
    , (0b0101_001001_100101_010101_110010_1000, .aopXor 5 37 21 50)
    , (0b0101_001001_100101_010101_110010_1001, .aopXchg 5 37 21 50)
    , (0b0101_001001_100101_010101_110010_1010, .aopCas 5 37 21 50)
    , (0b0101_001010_100101_010101_1011_000_000, .rwlRdacq 5 37 21 11)
    , (0b0101_001010_100101_010101_1011_001_000, .rwlRdrel 5 37 21 11)
    , (0b0101_001010_100101_010101_1011_010_000, .rwlWracq 5 37 21 11)
    , (0b0101_001010_100101_010101_1011_011_000, .rwlWrrel 5 37 21 11)
    , (0b0101_001010_100101_010101_1011_100_000, .rwlSetpref 5 37 21 11)
    , (0b0101_001011_011_00_00000000000000000, .fenceAcq 5 .domain)
    , (0b0101_001011_100_01_00000000000000000, .fenceRel 5 .system)
    , (0b0101_001011_001_10_00000000000000000, .fenceFull 5 .cluster)] : List (Word32 × Instr)),
    (decodeSlot 6 f.1).toOption = some f.2 := by decide +kernel
theorem test_decode_q_1 : ∀ f ∈ ([
      (0b0101_000001_110_100101_0000000000000, .sbind 5 6 37)
    , (0b0101_000010_110_0000000000000000000, .sfree 5 6)
    , (0b0101_000011_110_10011010_00000000000, .sadv 5 6 0x9A)
    , (0b0101_000100_11001_1_101011_010010_0000, .gls 5 25 true 0x2B 0x12)
    , (0b0101_000101_11001_0_101011_000000_0000, .zld 5 25 0x2B)
    , (0b0101_000110_11001_0_101011_010010_0000, .eld 5 25 0x2B 0x12)
    , (0b0101_000111_1_100101_000000000000000, .xcfg 5 true 37)
    , (0b0101_001000_00_1011_100101_0000000000, .xmaskRow 5 11 37)
    , (0b0101_001000_01_00000000000000000000, .xmaskFill 5)
    , (0b0101_001000_10_00000000000000000000, .xmaskInv 5)
    , (0b0101_001001_100101_010101_0000000000, .jsub 5 37 21)
    , (0b0101_001010_000000_010101_0000000000, .jcan 5 21)
    , (0b0101_001011_1011001_100101_0_1_0000000, .barmSet 5 0x59 37 true)
    , (0b0101_001011_1011001_100101_1_0_0000000, .barmAdd 5 0x59 37 false)
    , (0b0101_001100_100101_1_011001_000000000, .barq 5 37 0x59)
    , (0b0101_001110_000000_010101_000000_0000, .btake 5 21)] : List (Word32 × Instr)),
    (decodeSlot 7 f.1).toOption = some f.2 := by decide +kernel
theorem test_decode_q_2 : ∀ f ∈ ([
      (0b0101_001111_000000_010101_110010_0000, .bgive 5 21 50)
    , (0b0101_010000_000000_010101_0000000000, .bpub 5 21)
    , (0b0101_010001_000000_010101_0000000000, .bret 5 21)
    , (0b0101_010010_100101_0000000000000000, .tqbind 5 37)
    , (0b0101_010011_110_0000000000000000000, .tqfl 5 6)
    , (0b0101_010100_100101_010101_0000000000, .nmsub 5 37 21)
    , (0b0101_010101_100101_010101_0000000000, .nmfn 5 37 21)
    , (0b0101_010110_1011_000000000000000000, .phsel 5 11)
    , (0b0101_010111_1_100101_110011010_000000, .phld 5 true 37 0x19A)
    , (0b0101_011000_100101_010101_0000000000, .lnch 5 37 21)
    , (0b0101_011001_001_010101_0000000000000, .cancLaunch 5 21)
    , (0b0101_011001_010_010101_0000000000000, .cancGraph 5 21)
    , (0b0101_011001_011_010101_0000000000000, .cancPhase 5 21)
    , (0b0101_011001_100_010101_0000000000000, .cancJob 5 21)
    , (0b0101_011010_100101_010101_0000000000, .smpsub 5 37 21)
    , (0b0101_011011_100101_0000000000000000, .seedq 5 37)] : List (Word32 × Instr)),
    (decodeSlot 7 f.1).toOption = some f.2 := by decide +kernel
theorem test_decode_q_3 : ∀ f ∈ ([
      (0b0101_001101_000000_010101_0000000000, .uien 5 21)] : List (Word32 × Instr)),
    (decodeSlot 7 f.1).toOption = some f.2 := by decide +kernel
/-- Reserved words are refused, by name: opcodes that no row assigns, width 11, a source of 16, a field that must be zero. -/
theorem test_reserved_words_refused : ∀ f ∈ ([
      (0, 0b0000_0000_010001_000001_000010_000011), (0, 0b0000_0000_110001_000000_000000_000000), (0, 0b0001_0000_000000_000000_000000_000000)
    , (1, 0b0000_101000_000001_000010_000011_0000), (1, 0b0000_000001_000001_000010_000011_0001)
    , (2, 0b0000_11111_00_000_000001_000010_000011), (2, 0b0000_00001_11_000_000001_000010_000011), (3, 0b0000_11100_00_000_000001_000010_000011)
    , (4, 0b0000_11001_00_000_000001_000010_000011), (5, 0b0000_101_0_000_00000_00001_00_0_000_000_00)
    , (5, 0b0000_001_0_000_10000_00001_00_0_000_000_00), (5, 0b0000_001_0_000_00000_00001_11_0_000_000_00), (6, 0b0000_001110_000001_000010_0000000000)
    , (6, 0b0000_001001_000001_000010_000011_1011), (7, 0b0000_011100_000001_000010_0000000000), (7, 0b0000_011001_000_000001_0000000000000)
    ] : List (Nat × Word32)), (decodeSlot f.1 f.2).toOption = none := by decide +kernel

end Sys2Proof

namespace Sys2Proof.Machine

/-! ### States that the tests and witnesses use -/

/-- Core 0's primary runs its bundle at 0x1000 in instant 40, outside a phase body; x1 is 7, x2 is -2, x3 is 0x240. -/
def w0 : State :=
  let s : State := { State.reset with cyc := 1000, bundleId := 1, curCtx := some 1, seedOn := true }
  s.modCore 0 fun c => { c with
    ctx := some 1
    prim := { c.prim with
      run := .running, inst := 40, pc := 0x1000, npc := 0x1020, last := 0xFE0
      x := wr (wr (wr c.prim.x 1 7) 2 (-2)) 3 0x240
      p := wr c.prim.p 1 true
      v := wr (wr c.prim.v 1 0x0302_0100) 2 0xFFFF_FFFF
      t := wr (wr c.prim.t 1 { addr := 0x2000, valid := true, prep := 30 }) 2 { addr := 0x3000, valid := true, prep := 39 }
      ras := [0x5000] } }
/-- The same stream with other contents of a few of its fields. -/
def wS (f : Strm → Strm) : State := w0.modMe f
/-- The same core with other contents of a few of its fields. -/
def wC (f : Core → Core) : State := w0.modCur f
/-- It runs in a phase body, in group 0. -/
def wB : State := wC fun c => { c with place := .body, group := some 0 }
/-- Its companion has the slot. -/
def wP : State :=
  let s : State := { w0 with focus := (0, true) }
  s.modMe fun t => { t with run := .running, inst := 40, pc := 0x1000, npc := 0x1020 }
/-- An answer is a next state of which p holds. -/
def gives (o : Out) (p : State → Bool) : Bool := match o with | .next t => p t | _ => false
/-- What the slot sends on its way last. -/
def State.sent (s : State) : Option (Nat × Effect) := s.me.pend.getLast?.map fun e => (e.due - s.me.inst, e.eff)

/-! ### Scalar instructions: the value on its way to x3 and when it is usable (R142 to R148; worked by hand from x1 = 7, x2 = -2) -/

theorem test_integer_results : ∀ f ∈ ([
      (.addC ⟨0, 0⟩ 3 1 2, 1, 5), (.addS 0 3 1 2, 1, 5), (.subC ⟨0, 0⟩ 3 1 2, 1, 9), (.subS 0 3 1 2, 1, 9)
    , (.andC ⟨0, 0⟩ 3 1 2, 1, 6), (.andS 0 3 1 2, 1, 6), (.orC ⟨0, 0⟩ 3 1 2, 1, -1), (.orS 0 3 1 2, 1, -1)
    , (.xorC ⟨0, 0⟩ 3 1 2, 1, -7), (.xorS 0 3 1 2, 1, -7), (.andnC ⟨0, 0⟩ 3 1 2, 1, 1), (.andnS 0 3 1 2, 1, 1)
    , (.shlC ⟨0, 0⟩ 3 1 2, 1, 0xC000_0000_0000_0000), (.shlS 0 3 2 1, 1, -256), (.shrC ⟨0, 0⟩ 3 1 2, 1, 0), (.shrS 0 3 2 1, 1, 0x01FF_FFFF_FFFF_FFFF)
    , (.sraC ⟨0, 0⟩ 3 2 1, 1, -1), (.sraS 0 3 2 1, 1, -1), (.minC ⟨0, 0⟩ 3 1 2, 1, -2), (.maxC ⟨0, 0⟩ 3 1 2, 1, 7)
    , (.minuC ⟨0, 0⟩ 3 1 2, 1, 7), (.maxuC ⟨0, 0⟩ 3 1 2, 1, -2), (.rol 0 3 1 2, 1, 0xC000_0000_0000_0001)
    , (.clz 0 3 1, 1, 61), (.ctz 0 3 2, 1, 1), (.popc 0 3 2, 1, 63)
    , (.liC ⟨0, 0⟩ 3 0x800, 1, -2048), (.liS 0 3 0x8000, 1, -32768), (.addiC ⟨0, 0⟩ 3 0xFFF, 1, 0x23F), (.addiS 0 3 0xFFFF, 1, 0x23F)
    , (.lihC ⟨0, 0⟩ 3 0xFFF, 1, 0x24_0FFF), (.lihS 0 3 0xFFFF, 1, 0x240_FFFF)
    , (.mul 0 3 1 2, 3, -14), (.mulh 0 3 1 2, 3, -1), (.mulhu 0 3 1 2, 3, 6)
    , (.div 0 3 1 2, 18, -3), (.divu 0 3 2 1, 18, 0x2492_4924_9249_2492), (.rem 0 3 1 2, 18, 1), (.remu 0 3 2 1, 18, 0)
    , (.div 0 3 1 0, 18, -1), (.remu 0 3 1 0, 18, 7)                -- a divisor of 0 (R144)
    , (.sel 0 3 1 2 1, 1, 7), (.sel 0 3 1 2 2, 1, -2), (.movp 0 3 1, 1, 1)
    , (.xv 0 .i8 1 3 1, 1, 1), (.xv 0 .i32 0 3 2, 1, -1), (.xv 0 .f32 0 3 2, 1, 0xFFFF_FFFF)
    ] : List (Instr × Nat × Word)), gives (exec f.1 w0) (fun t => t.sent = some (f.2.1, .x false 3 f.2.2)) = true := by decide +kernel
/-- -2^63 / -1 wraps to -2^63 with a remainder of 0 (R144). -/
theorem test_div_overflow :
    let s := wS fun t => { t with x := wr (wr t.x 1 (BitVec.intMin 64)) 2 (-1) }
    gives (exec (.div 0 3 1 2) s) (fun t => t.sent = some (18, .x false 3 (BitVec.intMin 64))) = true ∧
      gives (exec (.rem 0 3 1 2) s) (fun t => t.sent = some (18, .x false 3 0)) = true := by decide +kernel
/-- 1.5 and 2 in f32: sum, difference, product, 1.5 · 2 + 576 (the low 32 bits of x3, a subnormal, add nothing); 1.5 to f64; 7 to f16. -/
theorem test_float_results :
    let s := wS fun t => { t with x := wr (wr t.x 4 0x3FC0_0000) 5 0x4000_0000 }
    ∀ f ∈ ([ (.fadd 0 .f32 .rne 3 4 5, 0x4060_0000), (.fsub 0 .f32 .rne 3 4 5, 0xBF00_0000), (.fmul 0 .f32 .rne 3 4 5, 0x4040_0000)
      , (.ffma 0 .f32 .rtz 3 4 5, 0x4040_0000), (.fcvt 0 .f32 .f64 .rne 3 4, 0x3FF8_0000_0000_0000), (.fcvt 0 .i64 .f16 .rne 3 1, 0x4700)
      ] : List (Instr × Word)), gives (exec f.1 s) (fun t => t.sent = some (4, .x false 3 f.2)) = true := by decide +kernel
/-- A pair: the condition, then its complement; and the predicate instructions (p1 = 1, p2 = 0). -/
theorem test_predicates :
    (∀ f ∈ ([ (.cmpeqC ⟨0, 0⟩ 4 1 1, true), (.cmpeqS 0 4 1 2, false), (.cmpltC ⟨0, 0⟩ 4 2 1, true), (.cmpltS 0 4 1 2, false)
      , (.cmpltuC ⟨0, 0⟩ 4 1 2, true), (.cmpltuS 0 4 2 1, false), (.cmpleC ⟨0, 0⟩ 4 1 1, true), (.cmpleS 0 4 1 2, false)
      , (.cmpleuC ⟨0, 0⟩ 4 1 2, true), (.cmpleuS 0 4 2 2, true), (.cmpeqi ⟨0, 0⟩ 4 2 0xFE, true), (.cmplti ⟨0, 0⟩ 4 2 0xFE, false)
      ] : List (Instr × Bool)), gives (exec f.1 w0) (fun t => t.me.pend.map (fun e => (e.due, e.eff)) = [(41, .p false 4 f.2), (41, .p false 5 (!f.2))]) = true) ∧
    (∀ f ∈ ([ (.pand ⟨0, 0⟩ 3 1 2, false), (.por ⟨0, 0⟩ 3 1 2, true), (.pxor ⟨0, 0⟩ 3 1 1, false), (.pandn ⟨0, 0⟩ 3 1 2, true), (.pmov 0 3 1, true)
      ] : List (Instr × Bool)), gives (exec f.1 w0) (fun t => t.sent = some (1, .p false 3 f.2)) = true) ∧
    (let s := wS fun t => { t with x := wr (wr t.x 4 0x3FC0_0000) 5 0x7FC0_0000 }
     ∀ f ∈ ([(.fcmp 0 .f32 .un 4 4 5, true), (.fcmp 0 .f32 .eq 4 4 4, true)] : List (Instr × Bool)),
       gives (exec f.1 s) (fun t => t.me.pend.map (fun e => (e.due, e.eff)) = [(44, .p false 4 f.2), (44, .p false 5 (!f.2))]) = true) := by decide +kernel
/-- VX writes the one lane: bytes 2 and 3 of v3 for lane 1 of a 16-bit type. -/
theorem test_vx : gives (exec (.vx 0 .i16 1 3 3) w0) (fun t => t.sent = some (1, .vec (.v 3) 0x0240_0000 0xC none)) = true := by decide +kernel

/-! ### Vector instructions: one lane of the result, and when it is usable (R193 to R214; worked by hand) -/

/-- v1 and v2 as in w0; v4 = 1.5, -2 and v5 = 2, 0.5 in f32; v6 = 0.25; v7 = 4; j0 and m5 (lanes 0 and 1) too. -/
def wV : State := wS fun t => { t with
  v := wr (wr (wr (wr t.v 4 0xC000_0000_3FC0_0000) 5 0x3F00_0000_4000_0000) 6 0x3E80_0000) 7 0x4080_0000
  m := wr t.m 5 3 }
/-- Lane l of width w of the row that a V slot sends is e, usable n instants on. -/
def lands (n w l e : Nat) (t : State) : Bool :=
  match t.sent with
  | some (m, .vec _ r en _) => m = n && lane w r l = e && en.getLsbD (l * w / 8)
  | some (m, .mask _ r en) => m = n && r.getLsbD l = decide (e = 1) && en.getLsbD l
  | _ => false
theorem test_vector_integer : ∀ f ∈ ([
      (.vaddV0 ⟨0, .w256, .i8⟩ 3 1 2, 2, 8, 1, 0x00), (.vaddV1 ⟨0, .w256, .i16⟩ 3 1 2, 2, 16, 1, 0x0301), (.vaddV2 ⟨0, .w256, .i32⟩ 3 1 2, 4, 32, 0, 0x0302_00FF)
    , (.vsubV0 ⟨0, .w256, .i32⟩ 3 1 2, 2, 32, 0, 0x0302_0101), (.vsubV1 ⟨0, .w256, .i8⟩ 3 2 1, 2, 8, 3, 0xFC), (.vsubV2 ⟨0, .w256, .i64⟩ 3 1 2, 4, 64, 0, 0xFFFF_FFFF_0302_0101)
    , (.vmulV0 ⟨0, .w256, .i8⟩ 3 1 2, 2, 8, 3, 0xFD), (.vmulV1 ⟨0, .w256, .i32⟩ 3 1 2, 2, 32, 0, 0xFCFD_FF00), (.vmulV2 ⟨0, .w256, .i16⟩ 3 1 1, 4, 16, 1, 0x0C04)
    , (.vfmaV0 ⟨0, .w256, .i32⟩ 2 1 1, 2, 32, 0, 0x0400_FFFF), (.vfmaV1 ⟨0, .w256, .i8⟩ 2 1 1, 2, 8, 3, 8), (.vfmaV2 ⟨0, .w256, .i8⟩ 2 1 1, 4, 8, 2, 3)
    , (.vfmsV0 ⟨0, .w256, .i8⟩ 2 1 1, 2, 8, 3, 10), (.vfmsV1 ⟨0, .w256, .i8⟩ 2 1 1, 2, 8, 0, 1)
    , (.vminV0 ⟨0, .w256, .i32⟩ 3 1 2, 2, 32, 0, 0xFFFF_FFFF), (.vminV1 ⟨0, .w256, .i8⟩ 3 1 2, 2, 8, 1, 0xFF), (.vminV2 ⟨0, .w256, .i32⟩ 3 1 2, 4, 32, 0, 0xFFFF_FFFF)
    , (.vmaxV0 ⟨0, .w256, .i32⟩ 3 1 2, 2, 32, 0, 0x0302_0100), (.vmaxV1 ⟨0, .w256, .i8⟩ 3 1 2, 2, 8, 3, 3), (.vmaxV2 ⟨0, .w256, .i32⟩ 3 1 2, 4, 32, 0, 0x0302_0100)
    , (.vminuV0 ⟨0, .w256, .i32⟩ 3 1 2, 2, 32, 0, 0x0302_0100), (.vminuV1 ⟨0, .w256, .i8⟩ 3 1 2, 2, 8, 1, 1)
    , (.vmaxuV0 ⟨0, .w256, .i32⟩ 3 1 2, 2, 32, 0, 0xFFFF_FFFF), (.vmaxuV1 ⟨0, .w256, .i8⟩ 3 1 2, 2, 8, 1, 0xFF)
    , (.vandV0 ⟨0, .w256, .f32⟩ 3 1 2, 2, 32, 0, 0x0302_0100), (.vandV1 ⟨0, .w256, .i8⟩ 3 1 2, 2, 8, 1, 1), (.vorV0 ⟨0, .w256, .i8⟩ 3 1 2, 2, 8, 1, 0xFF)
    , (.vorV1 ⟨0, .w256, .i16⟩ 3 1 1, 2, 16, 1, 0x0302), (.vxorV0 ⟨0, .w256, .i32⟩ 3 1 2, 2, 32, 0, 0xFCFD_FEFF), (.vxorV1 ⟨0, .w256, .i8⟩ 3 1 2, 2, 8, 3, 0xFC)
    , (.vandn ⟨0, .w256, .i32⟩ 3 2 1, 2, 32, 0, 0xFCFD_FEFF), (.vshl ⟨0, .w256, .i16⟩ 3 2 1, 2, 16, 1, 0xFFFC), (.vshr ⟨0, .w256, .i8⟩ 3 2 1, 2, 8, 3, 0x1F)
    , (.vsra ⟨0, .w256, .i8⟩ 3 2 1, 2, 8, 3, 0xFF), (.vabsV0 ⟨0, .w256, .i32⟩ 3 2, 2, 32, 0, 1), (.vabsV1 ⟨0, .w256, .f32⟩ 3 4, 2, 32, 1, 0x4000_0000)
    , (.vnegV0 ⟨0, .w256, .i8⟩ 3 1, 2, 8, 3, 0xFD), (.vnegV1 ⟨0, .w256, .f32⟩ 3 4, 2, 32, 1, 0x4000_0000), (.vmovV0 ⟨0, .w256, .i8⟩ 3 1, 2, 8, 2, 2)
    , (.vmovV1 ⟨0, .w256, .i8⟩ 3 1, 2, 8, 3, 3), (.vmovV2 ⟨0, .w256, .f32⟩ 3 4, 4, 32, 0, 0x3FC0_0000)
    , (.vselV0 ⟨0, .w256, .i8⟩ 1 2 6, 2, 8, 1, 0xFF), (.vselV1 ⟨0, .w256, .i8⟩ 1 2 6, 2, 8, 0, 0), (.vselV2 ⟨0, .w256, .f32⟩ 1 4 5, 4, 32, 1, 0x3F00_0000)
    , (.vclamp ⟨0, .w256, .i8⟩ 2 1 6, 2, 8, 1, 0), (.vshuf ⟨0, .w256, .i8⟩ 3 1 1, 3, 8, 3, 3), (.vrotl ⟨0, .w256, .i8⟩ 3 1 31, 3, 8, 2, 3)
    , (.vbcl ⟨0, .w256, .i8⟩ 3 1 3, 3, 8, 31, 3), (.vpack ⟨0, .w256, .i16⟩ 3 1 2, 3, 8, 1, 0x7F), (.vpack ⟨0, .w256, .i16⟩ 3 1 2, 3, 8, 16, 0xFF)
    , (.vunpk ⟨0, .w256, .i8⟩ 3 2 false false, 3, 16, 3, 0xFFFF), (.vunpk ⟨0, .w256, .i8⟩ 3 2 false true, 3, 16, 3, 0xFF)
    , (.vraddV1 ⟨0, .w256, .i8⟩ 3 1, 6, 8, 31, 6), (.vraddV2 ⟨0, .w256, .i8⟩ 3 2, 4, 8, 0, 0xFC), (.vrmaxV1 ⟨0, .w256, .i8⟩ 3 1, 6, 8, 0, 3)
    , (.vrmaxV2 ⟨0, .w256, .i16⟩ 3 1, 4, 16, 5, 0x0302), (.vrmin ⟨0, .w256, .i8⟩ 3 2, 6, 8, 9, 0xFF), (.vscan ⟨0, .w256, .i8⟩ 3 1 .add, 6, 8, 3, 6)
    , (.vcmpeqV0 ⟨0, .w256, .i8⟩ 4 1 1, 2, 8, 3, 1), (.vcmpeqV1 ⟨0, .w256, .i8⟩ 4 1 2, 2, 8, 4, 1), (.vcmpeqV2 ⟨0, .w256, .f32⟩ 4 4 5, 4, 32, 0, 0)
    , (.vcmpltV0 ⟨0, .w256, .i32⟩ 4 2 1, 2, 32, 0, 1), (.vcmpltV1 ⟨0, .w256, .f32⟩ 4 4 5, 4, 32, 1, 1), (.vcmpltV2 ⟨0, .w256, .i8⟩ 4 1 2, 4, 8, 1, 0)
    , (.vcmpleV0 ⟨0, .w256, .i8⟩ 4 1 1, 2, 8, 3, 1), (.vcmpleV1 ⟨0, .w256, .i8⟩ 4 1 2, 2, 8, 3, 0)
    ] : List (Instr × Nat × Nat × Nat × Nat)), gives (exec f.1 wV) (lands f.2.1 f.2.2.1 f.2.2.2.1 f.2.2.2.2) = true := by decide +kernel
theorem test_vector_float : ∀ f ∈ ([
      (.vaddV0 ⟨0, .w256, .f32⟩ 3 4 5, 4, 32, 0, 0x4060_0000), (.vsubV1 ⟨0, .w256, .f32⟩ 3 4 5, 4, 32, 0, 0xBF00_0000), (.vmulV2 ⟨0, .w256, .f32⟩ 3 4 5, 4, 32, 1, 0xBF80_0000)
    , (.vfmaV0 ⟨0, .w256, .f32⟩ 6 4 5, 4, 32, 0, 0x4050_0000), (.vfmsV1 ⟨0, .w256, .f32⟩ 6 4 5, 4, 32, 0, 0x4030_0000), (.vminV2 ⟨0, .w256, .f32⟩ 3 4 5, 4, 32, 1, 0xC000_0000)
    , (.vclamp ⟨0, .w256, .f32⟩ 6 4 5, 4, 32, 1, 0x0000_0000), (.vcvtV0 ⟨0, .w256, .i32⟩ 3 4 .rne .f32, 3, 32, 0, 2), (.vcvtV1 ⟨0, .w256, .i8⟩ 3 4 .rtz .f32, 3, 8, 1, 0xFE)
    , (.vcvtV2 ⟨0, .w256, .f16⟩ 3 4 .rne .f32, 3, 16, 0, 0x3E00), (.vrnd ⟨0, .w256, .f32⟩ 3 4 .rdn, 4, 32, 0, 0x3F80_0000), (.vldexp ⟨0, .w256, .f32⟩ 3 4 6, 4, 32, 1, 0xC000_0000)
    , (.vexpo ⟨0, .w256, .f32⟩ 3 6, 3, 32, 0, 0xFFFF_FFFE), (.vmaxexp ⟨0, .w256, .f32⟩ 3 5, 6, 32, 7, 1)
    , (.vraddV1 ⟨0, .w256, .f32⟩ 3 4, 6, 32, 3, 0xBF00_0000), (.vrmin ⟨0, .w256, .f32⟩ 3 4, 6, 32, 0, 0xC000_0000), (.vscan ⟨0, .w256, .f32⟩ 3 4 .max, 6, 32, 1, 0x3FC0_0000)
    , (.vexp2 ⟨5, .w256, .f32⟩ 3 5, 8, 32, 0, 0x4080_0000), (.vlog2 ⟨5, .w256, .f32⟩ 3 5, 8, 32, 1, 0xBF80_0000), (.vrcp ⟨5, .w256, .f32⟩ 3 5, 8, 32, 1, 0x4000_0000)
    , (.vsqrt ⟨5, .w256, .f32⟩ 3 7, 8, 32, 0, 0x4000_0000), (.vtanh ⟨5, .w256, .f32⟩ 3 7, 8, 32, 1, 0), (.vsigm ⟨5, .w256, .f32⟩ 3 7, 8, 32, 1, 0x3F00_0000)
    , (.vsin ⟨5, .w256, .f32⟩ 3 5, 8, 32, 1, 0x3F80_0000), (.vcos ⟨5, .w256, .f32⟩ 3 5, 8, 32, 0, 0x3F80_0000), (.verf ⟨5, .w256, .f32⟩ 3 7, 8, 32, 1, 0)
    , (.vrsq ⟨0, .w256, .f32⟩ 3 7, 8, 32, 0, 0x3F00_0000)
    ] : List (Instr × Nat × Nat × Nat × Nat)), gives (exec f.1 wV) (lands f.2.1 f.2.2.1 f.2.2.2.1 f.2.2.2.2) = true := by decide +kernel

/-! ### Control (R149 to R166) -/

theorem test_hold_and_targets :
    gives (exec (.hold 5) w0) (fun t => t.me.ready = 46) = true ∧
    gives (exec (.pbr ⟨0, 0⟩ 3 0x7FFF) w0) (fun t => rd t.me.t 3 { addr := 0, valid := false, prep := 0 } = { addr := 0xFE0, valid := true, prep := 40 }) = true ∧
    gives (exec (.pbrx ⟨0, 0⟩ 3 3) w0) (fun t => (rd t.me.t 3 { addr := 0, valid := false, prep := 0 }).addr = 0x240) = true := by decide +kernel
/-- t1 was prepared in time, t2 one instant ago: three bubbles. -/
theorem test_branches :
    gives (exec (.br ⟨0, 2⟩ 1) w0) (fun t => t.me.npc = 0x2000 && t.me.ready = 43) = true ∧ gives (exec (.br ⟨0, 0⟩ 2) w0) (fun t => t.me.npc = 0x3000 && t.me.ready = 44) = true ∧
    gives (exec (.br ⟨2, 0⟩ 1) w0) (fun t => t.me.npc = 0x1020) = true ∧
    gives (exec (.call ⟨0, 0⟩ 1) w0) (fun t => t.me.npc = 0x2000 && t.me.ras = [0x1020, 0x5000]) = true ∧
    gives (exec (.ret ⟨0, 0⟩) w0) (fun t => t.me.npc = 0x5000 && t.me.ras = []) = true := by decide +kernel
/-- An invalid target (0x08), a full and an empty return stack (0x05, 0x06), BRL without a loop (0x09). -/
theorem test_branch_traps :
    gives (exec (.br ⟨0, 0⟩ 0) w0) (fun t => t.me.trap.cause = 0x08 && t.me.trap.pc = 0x1000) = true ∧
    gives (exec (.call ⟨0, 0⟩ 1) (wS fun t => { t with ras := List.replicate 16 0 })) (fun t => t.me.trap.cause = 0x05) = true ∧
    gives (exec (.ret ⟨0, 0⟩) (wS fun t => { t with ras := [] })) (fun t => t.me.trap.cause = 0x06) = true ∧
    gives (exec (.brl ⟨0, 0⟩ 1) w0) (fun t => t.me.trap.cause = 0x09) = true := by decide +kernel
def wL (lc : Nat) (ec : Nat) : State := wC fun c => { c with loop := { lc := BitVec.ofNat 32 lc, ec := BitVec.ofNat 6 ec, base := 3, act := true } }
theorem test_loop :
    gives (exec (.loop ⟨0, 0⟩ 1 2) w0) (fun t => t.sent = some (1, .loop { lc := 7, ec := 2, base := 0, act := true }
      [(8, true), (9, false), (10, false), (11, false), (12, false), (13, false), (14, false), (15, false)])) = true ∧
    gives (exec (.brl ⟨0, 0⟩ 1) (wL 2 0)) (fun t => t.me.npc = 0x2000 && t.sent = some (1, .loop { lc := 1, ec := 0, base := 4, act := true } [(12, true)])) = true ∧
    gives (exec (.brl ⟨0, 0⟩ 1) (wL 1 3)) (fun t => t.me.npc = 0x2000 && t.sent = some (1, .loop { lc := 0, ec := 2, base := 4, act := true } [(12, false)])) = true ∧
    gives (exec (.brl ⟨0, 0⟩ 1) (wL 0 0)) (fun t => t.me.npc = 0x1020 && t.sent = some (1, .loop { lc := 0, ec := 0, base := 4, act := false } [(12, false)])) = true := by decide +kernel
/-- TRAP stops with TRAPNPC after the bundle; a group of one core of which another member runs stops at f + 16. -/
theorem test_trap :
    gives (exec (.trap ⟨0, 0⟩ 0x9A5) w0) (fun t => t.me.run = .trapped && t.me.trap = { pend := true, cls := 0, cause := 7, pc := 0x1000, npc := 0x1020, slot := 0, info := 0x9A5, cyc := 1000 }) = true ∧
    (let s := (wB).modCore 1 fun c => { c with group := some 0, ctx := some 1, place := .body }
     gives (exec (.trap ⟨0, 0⟩ 1) s) (fun t => (t.core 1).stopAt = some 1016) = true) := by decide +kernel
/-- RDC of SRCTR's neighbour AXEN, HCVAL a cycle later, WRC, IFENCE, UIRET, WAITI. -/
theorem test_control_registers :
    gives (exec (.rdc ⟨0, 0⟩ 3 0x000) (wS fun t => { t with axen := 0x2A })) (fun t => t.sent.isSome) = true ∧
    gives (exec (.rdc ⟨0, 0⟩ 3 0x141) w0) (fun t => t.sent = some (1, .hcval false 3)) = true ∧
    gives (exec (.wrc ⟨0, 0⟩ 1 0x140) w0) (fun t => t.sent = some (1, .wrc 0x140 7)) = true ∧
    gives (exec (.ifence ⟨0, 1⟩) (wS fun t => { t with ibuf := [(0x1020, 0)] })) (fun t => t.me.ibuf = [] && t.me.ready = 45) = true ∧
    (let s := wP.modCur fun c => { c with inh := true, uiepc := 0x7000 }
     gives (exec (.uiret ⟨0, 0⟩) s) (fun t => t.me.npc = 0x7000 && t.me.ready = 44 && t.sent = some (1, .unshade)) = true) ∧
    (let s := wP.modCur fun c => { c with uivEn := true }
     gives (exec (.waiti ⟨0, 0⟩) s) (fun t => t.me.run = .waiti && t.cur.uiepc = 0x1020) = true) := by decide +kernel
def wT (cur : Nat) : State :=
  wB.modCur fun c => { c with slice := some { handle := 1, cont := 0x8000, task := 0x6000, depth := 1, perm := [0], count := [9], first := 4, len := 3, cur := cur } }
theorem test_segb_phend_tend :
    gives (exec (.segb ⟨0, 0⟩) wB) (fun t => t.cur.seg.isOpen && t.cur.segpc = 0x1020 && (t.cur.seg.snap.map fun n => (n.inst, n.s0pc)) = some (41, 0x1020)) = true ∧
    gives (exec (.phend ⟨0, 0⟩) wB) (fun t => t.cur.place = .window && t.cur.group = none && t.me.run = .slack) = true ∧
    gives (exec (.tend ⟨0, 0⟩) (wT 5)) (fun t => t.me.npc = 0x6000 && t.me.ready = 44 && t.sent = some (1, .tile 6)) = true ∧
    gives (exec (.tend ⟨0, 0⟩) (wT 6)) (fun t => t.me.npc = 0x8000 && t.cur.slice = none) = true ∧
    gives (exec (.tend ⟨0, 0⟩) w0) (fun t => t.me.trap.cause = 0x01) = true ∧
    gives (exec (.realign ⟨0, 0⟩) (wC fun c => { c with place := .startCode })) (fun t => t.me.run = .realign) = true := by decide +kernel

/-! ### Matrix array (R79, R268 to R298) -/

/-- Streams 0 and 1 read local rows that stand staged at positions 0 and 1 and are due. -/
def wX : State := wB.modCur fun c =>
  let u : SUnit := { SUnit.reset with
    bound := true
    desc := BitVec.ofNat 512 (6 * 2 ^ 8 + 2 ^ 36 + 40 * 2 ^ 192 + 2 ^ 208 + 2 ^ 224 + 2 ^ 240 + 128 * 2 ^ 256)
    start := 20
    filled := 2
    stage := [{ pos := 0, row := 0x0201, bad := 0 }, { pos := 1, row := 0x0403, bad := 0 }] }
  { c with q := wr (wr c.q 0 u) 1 u }
theorem test_matrix :
    gives (exec (.xacc 0 false .i8i8 (.q 0) (.q 1) 0 0 .none false) wX) (fun t => (t.cur.unit 0).next = 1 && (t.cur.unit 1).next = 1 && t.cur.mx.z0.act) = true ∧
    gives (exec (.xaccz 0 true .i8i8 (.q 0) (.q 1) 0 0 .none false) wX) (fun t => (t.cur.unit 0).next = 1 && t.cur.mx.z1.act) = true ∧
    gives (exec (.xzero 0 true .none false) wB) (fun t => t.sent = some (4, .xclear true)) = true ∧
    gives (exec (.xdrn 0 .shift false) (wB.modCur fun c => { c with mx := { c.mx with off := true } })) (fun t => t.me.trap.cause = 0x32) = true := by decide +kernel
theorem test_matrix_configuration :
    gives (exec (.xcfg 0 true 0) wB) (fun t => t.sent = some (2, .xcfg true 0)) = true ∧
    gives (exec (.xcfg 0 true 2) wB) (fun t => t.me.trap.cause = 0x34) = true ∧
    gives (exec (.eld 0 4 1 2) wB) (fun t => (match t.sent with | some (6, .greg 4 vs 3) => vs.take 2 = [0x0100, 0x0302] && vs[64]? = some 0xFFFF | _ => false)) = true ∧
    gives (exec (.zld 0 4 1) wB) (fun t => (match t.sent with | some (6, .greg 4 vs 2) => vs.take 4 = [0, 1, 2, 3] | _ => false)) = true ∧
    gives (exec (.gls 0 4 true 1 2) wB) (fun t => t.me.trap.cause = 0x34 && t.me.trap.info = 0) = true ∧
    gives (exec (.xmaskFill 0) wB) (fun t => t.sent = some (2, .xmaskFill)) = true ∧ gives (exec (.xmaskInv 0) wB) (fun t => t.sent = some (2, .xmaskInv)) = true ∧
    gives (exec (.xmaskRow 0 0 1) (wB.modCur fun c => { c with mx := { c.mx with mvalid := true } })) (fun t => t.sent = some (2, .xmaskRow 7 (BitVec.allOnes 128))) = true := by decide +kernel

/-! ### The scratchpad and untimed access (R218 to R251) -/

theorem test_loads_and_stores :
    gives (exec (.ld 0 4 3 1) w0) (fun t => t.sent = some (1, .rowRead 5 .row (.v 4))) = true ∧
    gives (exec (.ldt 0 4 3 0x3FF) w0) (fun t => t.sent = some (1, .rowRead 3 .transpose (.v 4))) = true ∧
    gives (exec (.ldb 0 0x21 3 0) w0) (fun t => t.sent = some (1, .rowRead 4 (.bcast 4) (.o 1))) = true ∧
    gives (exec (.ldx 0 4 3 1) w0) (fun t => t.sent = some (1, .rowRead 4 .row (.v 4))) = true ∧
    gives (exec (.st 0 1 3 0) w0) (fun t => t.sent = some (2, .rowWrite 0x240 0x0302_0100 (BitVec.allOnes 128) true)) = true ∧
    gives (exec (.stm 0 1 3 0) (wS fun t => { t with m := wr t.m 7 0xF0 })) (fun t => t.sent = some (2, .rowWrite 0x240 0x0302_0100 0xF0 false)) = true ∧
    gives (exec (.stx 0 1 3 1) w0) (fun t => t.sent = some (2, .rowWrite 0x247 0x0302_0100 (BitVec.allOnes 128) true)) = true ∧
    gives (exec (.rmrg 0 1 2 4) (wS fun t => { t with x := wr t.x 4 2 })) (fun t => (match t.sent with | some (2, .vec (.v 1) r _ _) => lane 8 r 1 = 0xFF && lane 8 r 127 = 1 | _ => false)) = true := by decide +kernel
/-- A row past the end (0x20), a row that a companion may not load into a register it lacks stops earlier. -/
theorem test_load_faults :
    gives (exec (.ld 0 4 2 0) w0) (fun t => t.me.trap.cause = 0x20 && t.me.trap.cls = 1) = true ∧
    gives (exec (.st 0 1 3 0) (w0.modCluster 0 fun c => { c with bufs := wr c.bufs 0 (.published 0) })) (fun t => t.me.trap.cause = 0x21) = true ∧
    gives (exec (.ld 0 4 3 0) (w0.modCluster 0 fun c => { c with bufs := wr c.bufs 0 (.transit 1) })) (fun t => t.me.trap.cause = 0x21 && t.me.trap.info = 0x200) = true := by decide +kernel
/-- Address 0 maps to device address 0x10000 of this package; 0x200000 to the host; nothing else is mapped. -/
def wU : State := { (wC fun c => { c with tlb := [⟨0, 16, 0x10000, 7⟩, ⟨0x20_0000, 16, 2 ^ 41, 7⟩] }) with ptbase := 1 }
def State.lastAsk (s : State) : Option (AccOp × Nat × List PRef) := s.accs.getLast?.map fun a => (a.op, a.pa, a.dst)
theorem test_untimed :
    gives (exec (.gld 0 4 3 0) wU) (fun t => t.lastAsk = some (.read 128, 0x10200, [.v 4]) && t.me.waits = [(1, .v 4)]) = true ∧
    gives (exec (.gst 0 1 3 0) wU) (fun t => t.lastAsk = some (.write 0x0302_0100 (BitVec.allOnes 128), 0x10200, [])) = true ∧
    (∀ f ∈ ([(.aopAdd 0 4 3 1, 0), (.aopMin 0 4 3 1, 2), (.aopMax 0 4 3 1, 3), (.aopMinu 0 4 3 1, 4), (.aopMaxu 0 4 3 1, 5), (.aopAnd 0 4 3 1, 6), (.aopOr 0 4 3 1, 7)
      , (.aopXor 0 4 3 1, 8), (.aopXchg 0 4 3 1, 9), (.aopCas 0 4 3 1, 10), (.aopFadd32 0 4 3 1, 1)] : List (Instr × Nat)),
      gives (exec f.1 wU) (fun t => t.lastAsk = some (.aop f.2 7 0 true, 0x10240, [.x 4])) = true) ∧
    (∀ f ∈ ([(.rwlRdacq 0 4 3 5, 0), (.rwlRdrel 0 4 3 5, 1), (.rwlWracq 0 4 3 5, 2), (.rwlWrrel 0 4 3 5, 3), (.rwlSetpref 0 4 3 5, 4)] : List (Instr × Nat)),
      gives (exec f.1 wU) (fun t => t.lastAsk = some (.rwl f.2 false, 0x10240, [.x 4, .p 5])) = true) ∧
    gives (exec (.gld 0 4 2 0) wU) (fun t => t.me.trap.cause = 0x25 && t.accs = []) = true := by decide +kernel
theorem test_fences : ∀ f ∈ ([(.fenceAcq 0 .system, 0), (.fenceRel 0 .package, 1), (.fenceFull 0 .domain, 2)] : List (Instr × Nat)),
    gives (exec f.1 w0) (fun t => t.me.fence.map (fun f => (f.kind, f.upto)) = some (f.2, 1)) = true ∧ gives (exec f.1 wB) (fun t => t.me.fence = none) = true := by decide +kernel

/-! ### Buffers, streams and submissions (R226, R240, R318 to R445) -/

def wBuf (b : BufState) : State := w0.modCluster 0 fun c => { c with bufs := wr c.bufs 7 b }
theorem test_buffers :
    gives (exec (.btake 0 1) (wBuf (.transit 0))) (fun t => t.sent = some (2, .bufState 7 (.owned 0))) = true ∧
    gives (exec (.bgive 0 1 3) (wBuf (.owned 0))) (fun t => t.sent = some (2, .bufState 7 (.transit 0))) = true ∧
    gives (exec (.bpub 0 1) (wBuf (.owned 0))) (fun t => t.sent = some (2, .bufState 7 (.published 0))) = true ∧
    gives (exec (.bret 0 1) (wBuf (.published 0))) (fun t => t.sent = some (2, .bufState 7 (.owned 0))) = true ∧
    (∀ i ∈ ([.btake 0 1, .bret 0 1] : List Instr), gives (exec i (wBuf (.owned 0))) (fun t => t.me.trap.cause = 0x22 && t.me.trap.info = 7) = true) := by decide +kernel
theorem test_stream_instructions :
    gives (exec (.sbind 0 2 3) wB) (fun t => t.sent = some (1, .sbind 2 0x240)) = true ∧ gives (exec (.sbind 0 0 3) wX) (fun t => t.me.trap.cause = 0x23) = true ∧
    gives (exec (.sfree 0 0) wX) (fun t => t.sent = some (2, .sfree 0)) = true ∧ gives (exec (.sadv 0 0 2) wX) (fun t => (t.cur.unit 0).next = 2) = true := by decide +kernel
theorem test_submissions : ∀ f ∈ ([
      (.jsub 0 4 3, 1, .jsub 0x240 (some (.x 4)) 1000), (.nmsub 0 4 3, 1, .nmsub 0x240 (some (.x 4)) 1000), (.smpsub 0 4 3, 1, .smpsub 0x240 (some (.x 4)) 1000)
    , (.lnch 0 4 3, 1, .lnch true 4 0x240), (.jcan 0 1, 2, .jcan 7), (.barmSet 0 9 1 true, 2, .barm 9 false true 7), (.barmAdd 0 9 1 false, 2, .barm 9 true false 7)
    , (.barq 0 4 9, 2, .barq 9 (some (.x 4))), (.uien 0 1, 2, .uien 7), (.cancLaunch 0 1, 2, .canc 1 7), (.cancGraph 0 1, 2, .canc 2 7), (.cancPhase 0 1, 2, .canc 3 7)
    , (.cancJob 0 1, 2, .canc 4 7), (.phld 0 true 3 4, 2, .phld true 0x240 5)
    ] : List (Instr × Nat × Effect)), gives (exec f.1 w0) (fun t => t.sent = some (f.2.1, f.2.2)) = true := by decide +kernel
theorem test_queues_and_waits :
    gives (exec (.phsel 0 1) { w0 with selOpen := true }) (fun t => t.sent = some (2, .phsel true)) = true ∧
    gives (exec (.phld 0 true 3 4) { w0 with bankB := { w0.bankB with st := .loading } }) (fun t => t.me.trap.cause = 0x62 && t.me.trap.info = 2) = true ∧
    (let w : Word := 0x4000_0000 + 5 * 2 ^ 3 + 2 ^ 10
     gives (exec (.tqbind 0 4) (wS fun t => { t with x := wr t.x 4 w })) (fun t => t.sent = some (2, .tqbind w)) = true) ∧
    gives (exec (.tqfl 0 2) (wC fun c => { c with tq := wr c.tq 2 { Endpoint.reset with bound := true } })) (fun t => t.sent = some (2, .tqflush 2)) = true ∧
    gives (exec (.nmfn 0 4 1) w0) (fun t => t.nmWaits.map (fun w => (w.ticket, w.xd)) = [(7, some (.x 4))] && t.me.waits = [(1, .x 4)]) = true ∧
    gives (exec (.nmfn 0 4 1) wB) (fun t => t.sent = some (2, .nmfn 7 (some (.x 4)))) = true ∧
    gives (exec (.seedq 0 4) w0) (fun t => t.seedcnt = 1) = true ∧ gives (exec (.seedq 0 4) { w0 with seedOn := false }) (fun t => t.seedWaits.length = 1 && t.seedcnt = 0) = true := by decide +kernel

/-! ### States that meet the hypotheses of the statements: slots -/

theorem test_meets_encoding :
    (Instr.addC ⟨1, 2⟩ 3 4 5).slot = some 0 ∧ (Instr.addC ⟨1, 2⟩ 3 4 5).wf = true ∧ (Instr.seedq 15 63).slot = some 7 ∧ (Instr.seedq 15 63).wf = true ∧
      (decodeSlot 7 0x04D00000).toOption = some (.tqfl 0 2) ∧ (decodeSlot 0 0).toOption = some .nop := by decide +kernel
/-- A NOP code with a guard in every slot; a hold count of 15 is hold-only. -/
theorem test_meets_nop :
    let w : Word32 := 0x1000_0000
    w ≠ 0 ∧ w.extractLsb' 18 6 = 0 ∧ (∀ n : BitVec 4, w ≠ n.setWidth 32 <<< 24) ∧ w.extractLsb' 22 6 = 0 ∧ w.extractLsb' 23 5 = 0 ∧ w.extractLsb' 25 3 = 0 ∧
      (15 : BitVec 4) ≠ 0 := by decide +kernel
theorem test_meets_guard_zero :
    let i : Instr := .addS 2 3 1 2
    i.slot.isSome = true ∧ w0.slotWaits i = false ∧ w0.slotFault i [i] (w0.cascadeLag i.shape) = none ∧ w0.guardOn i.shape = false := by decide +kernel
theorem test_meets_issue_class :
    let s := wS fun t => { t with ras := [] }
    let i : Instr := .ret ⟨0, 0⟩
    i.slot.isSome = true ∧ s.slotWaits i = false ∧ s.slotFault i [i] (s.cascadeLag i.shape) = some (6, 0x0088_0000) ∧ s.me.trap.pend = false ∧
      (1 : CoreId) ≠ s.focus.1 := by decide +kernel
theorem test_meets_scalar : (∀ f ∈ scalarClaims w0 ⟨0, 1⟩ 0 3 1 2 0xFFF 0x8001 1, w0.goes f.instr) ∧
    (∀ f ∈ compareClaims w0 ⟨0, 1⟩ 0 14 1 2 0xFF, w0.goes f.instr) ∧ (∀ f ∈ predicateClaims w0 ⟨0, 1⟩ 0 15 1 2 1, w0.goes f.instr) ∧
    w0.goes (.xv 0 .i8 127 3 1) ∧ w0.goes (.vx 0 .i64 15 0x2F 1) := by
  simp only [State.goes]; decide +kernel
/-- A divisor that is not 0, one that is, and one that is with AXEN bit 5 set. -/
theorem test_meets_divisions :
    (∀ f ∈ mulClaims w0 0 3 1 2, w0.goes f.instr) ∧ (∀ f ∈ divClaims w0 0 3 1 2, w0.goes f.instr) ∧ w0.x 2 ≠ 0 ∧ (∀ f ∈ divClaims w0 0 3 1 0, w0.goes f.instr) ∧ w0.x 0 = 0 ∧ w0.me.axen.getLsbD 5 = false ∧
    (let s := wS fun t => { t with axen := 0x20 }
     (∀ f ∈ divClaims s 0 3 1 0, s.goes f.instr) ∧ s.x 0 = 0 ∧ s.me.axen.getLsbD 5 = true) := by
  simp only [State.goes]; decide +kernel
/-- 1.5 + 1.5 raises nothing; infinity minus infinity is FP_INVALID, which AXEN bit 0 makes a trap; a NaN compared by LT too. -/
theorem test_meets_float :
    let s := wS fun t => { t with x := wr (wr (wr t.x 4 0x3FC0_0000) 5 0x7F80_0000) 6 0x7FC0_0000 }
    let q := s.modMe fun t => { t with axen := 1 }
    (∀ c ∈ floatClaims s 0 .f32 .rne .f32 .f64 3 4 4, s.goes c.instr ∧ c.val.fl &&& s.me.axen = 0) ∧
    (q.goes (.fsub 0 .f32 .rne 3 5 5) ∧ (Sys2Proof.fadd .f32 .rne (q.fp .f32 5) (q.fp .f32 5).negate).fl &&& q.me.axen ≠ 0) ∧
    (s.goes (.fcmp 0 .f32 .eq 4 4 4) ∧ (fcompare .eq (s.fp .f32 4) (s.fp .f32 4)).2 &&& s.me.axen = 0) ∧
    (q.goes (.fcmp 0 .f32 .lt 4 4 6) ∧ (fcompare .lt (q.fp .f32 4) (q.fp .f32 6)).2 &&& q.me.axen ≠ 0) := by
  simp only [State.goes]; decide +kernel
/-- One entry in flight for core 0's primary. -/
def wE (due : Nat) (e : Effect) : State := wS fun t => { t with pend := [{ due := due, iss := 39, pc := 0xFE0, slot := 7, eff := e }] }
theorem test_meets_landing :
    (w0.focus.2 = false ∧ (47 : XReg) ≠ 0 ∧ (47 : XReg).toNat < 48) ∧
    ((wE 40 (.x false 63 9)).core 0).prim.pend.map (fun e => e.eff) = [.x false 63 9] ∧ ((wE 40 (.x false 63 9)).core 0).comp.pend = [] ∧ ((wE 40 (.x false 63 9)).core 0).seg.snap = none ∧
    (∀ e ∈ ((wE 41 (.x false 63 9)).core 0).prim.pend, ((wE 41 (.x false 63 9)).core 0).prim.inst < e.due) := by decide +kernel
theorem test_meets_add : w0.calm ∧ w0.cur.comp.pend = [] ∧ w0.cur.seg.snap = none ∧ w0.goes (.addS 0 47 1 2) := by
  simp only [State.goes, State.calm]; decide +kernel
theorem test_meets_branches :
    w0.goes (.hold 15) ∧ w0.goes (.pbr ⟨0, 0⟩ 7 0x4000) ∧ w0.goes (.pbrx ⟨0, 0⟩ 7 1) ∧ w0.goes (.br ⟨0, 0⟩ 1) ∧ w0.goes (.br ⟨0, 15⟩ 2) ∧ w0.goes (.call ⟨0, 0⟩ 1) ∧
    w0.goes (.ret ⟨0, 0⟩) ∧ w0.goes (.loop ⟨0, 0⟩ 1 63) := by simp only [State.goes]; decide +kernel
/-- BRL with LC above 1, with LC at its last value and EC left, and at the end of both. -/
theorem test_meets_brl :
    (wL 2 0).goes (.brl ⟨0, 0⟩ 1) ∧ (wL 2 0).cur.loop.lc - 1 ≠ 0 ∧ (wL 1 3).goes (.brl ⟨0, 0⟩ 1) ∧ (wL 1 3).cur.loop.lc - 1 = 0 ∧ (wL 1 3).cur.loop.ec ≠ 0 ∧
    (wL 0 0).goes (.brl ⟨0, 0⟩ 1) ∧ (wL 1 0).goes (.brl ⟨0, 0⟩ 1) := by simp only [State.goes]; decide +kernel
theorem test_meets_trap : w0.slotWaits (.trap ⟨0, 0⟩ 0xFFF) = false ∧ w0.slotFault (.trap ⟨0, 0⟩ 0xFFF) [.trap ⟨0, 0⟩ 0xFFF] 0 = some (7, 0xFFF) ∧
    w0.me.trap.pend = false ∧ w0.focus.2 = false ∧ w0.calm := by simp only [State.calm]; decide +kernel
theorem test_meets_control :
    w0.goes (.rdc ⟨0, 0⟩ 3 0) ∧ w0.goes (.rdc ⟨0, 0⟩ 47 0x141) ∧ w0.goes (.wrc ⟨0, 0⟩ 1 0x140) ∧ w0.goes (.ifence ⟨0, 15⟩) ∧
    (wP.modCur fun c => { c with inh := true }).goes (.uiret ⟨0, 0⟩) ∧ (wP.modCur fun c => { c with uivEn := true }).goes (.waiti ⟨0, 0⟩) ∧
    (wP.modCur fun c => { c with uivEn := true }).focus.2 = true := by simp only [State.goes]; decide +kernel
/-- A LOOP in a loop, one whose count is 2^32, a BRL outside a loop, and one with LC 2 through a target that is not valid. -/
theorem test_meets_loop_faults :
    let s := wS fun t => { t with x := wr t.x 1 0x1_0000_0000 }
    (w0.focus.2 = false ∧ w0.calm ∧ w0.cur.loop.act = false) ∧ (s.focus.2 = false ∧ s.calm ∧ 2 ^ 32 ≤ (s.x 1).toNat) ∧
    ((wL 2 0).focus.2 = false ∧ (wL 2 0).calm ∧ (wL 2 0).cur.loop.act = true ∧ 1 < (wL 2 0).cur.loop.lc.toNat ∧
      (rd (wL 2 0).me.t 7 { addr := 0, valid := false, prep := 0 }).valid = false) := by simp only [State.calm]; decide +kernel
/-- A bundle with TRAP, of whose slots none has a lower cause, and one whose S slot holds a NOP with a guard. -/
theorem test_meets_bundle_traps :
    leastFault (w0.bundleFaults 0x00AC0FFF) = some (7, 0, (0xFFF : BitVec 12).setWidth 64) ∧ w0.me.trap.pend = false ∧
    slotWord (0x10000000 <<< 32) 1 ≠ 0 ∧ (decodeSlot 1 (slotWord (0x10000000 <<< 32) 1)).toOption = none := by decide +kernel
theorem test_meets_configuration :
    ∀ f ∈ ([.p false 15 true, .loop { lc := 2, ec := 1, base := 0, act := true } [(8, true), (15, false)], .greg 31 [1] 3, .xcfg true 1, .xmaskRow 127 1,
        .xmaskFill, .xmaskInv, .wrc 0x140 1] : List Effect),
      ((wE 40 f).core 0).prim.pend.map (fun e => (e.eff, e.due)) = [(f, 40)] ∧ ((wE 40 f).core 0).prim.inst = 40 ∧
      ((wE 40 f).core 0).comp.pend = [] ∧ ((wE 40 f).core 0).seg.snap = none := by decide +kernel
/-- The primary of core 0 selects the next phase; its open segment holds a row. -/
def wG : State :=
  let s : State := { wB with running := some { seq := 3, bank := false, index := 0, nxa := 0, nxb := 0, defB := false, isEnd := false, span := false, slackmax := 0, selcore := some 0
                                               mindelay := 0, cores := [], prompt := 0, modeOff := false, xoff := [] } }
  s.modCur fun c => { c with seg := { c.seg with isOpen := true, valid := true, held := [⟨true, 0, 0, 5, 0, 0, 0, 0, 0, 6, 39, 40⟩] } }
theorem test_meets_body :
    wG.focus.2 = false ∧ wG.goes (.segb ⟨0, 0⟩) ∧ (wG.placed (.segb ⟨0, 0⟩)).rewindsFirst = false ∧ wG.cur.seg.held ≠ [] ∧
    wG.goes (.phend ⟨0, 0⟩) ∧ (wG.placed (.phend ⟨0, 0⟩)).rewindsFirst = false ∧ wG.selects wG.focus.1 = true ∧ (wT 5).goes (.tend ⟨0, 3⟩) ∧
    (wT 5).launchCut 1 (wT 5).cur.pre = false ∧ (wT 6).goes (.tend ⟨0, 0⟩) ∧ (wC fun c => { c with place := .startCode }).goes (.realign ⟨0, 0⟩) := by
  simp only [State.goes]; decide +kernel
/-- A V slot with operands in registers, one with a stream register, and one whose cause is enabled. -/
theorem test_meets_vector :
    (∀ f ∈ vectorForms ⟨5, .w1024, .i8⟩ 3 1 2 4 .rne .rdn .i32 0 true true .min, f.1.wf = true → wV.goes f.1) ∧
    (∀ f ∈ vectorForms ⟨5, .w1024, .f32⟩ 3 4 5 14 .rne .rdn .f64 31 true true .min, f.1.wf = true → wV.goes f.1) ∧ wV.upstream 3 = none ∧
    (wX.goes (.vaddV0 ⟨0, .w256, .i8⟩ 3 0x38 2) ∧ VKind.add.streams 0x38 2 = [0] ∧ (wX.placed (.vaddV0 ⟨0, .w256, .i8⟩ 3 0x38 2)).readCause 0 = none) ∧
    (let s := wV.modMe fun t => { t with axen := 1, v := wr t.v 6 0x7F80_0001 }
     s.goes (.vaddV0 ⟨0, .w256, .f32⟩ 3 6 5) ∧ (vEval .add .w256 .f32 (s.m 0) (s.vin 6) (s.vin 5) 0 (fun _ => 0)).fl &&& s.me.axen ≠ 0 ∧ s.me.trap.pend = false) := by
  simp only [State.goes]; decide +kernel
/-- A V slot that writes a stream: the next position of a local one, and of a global one whose row translates. -/
theorem test_meets_vector_streams :
    let d := fun kd => BitVec.ofNat 512 (kd + 64 * 2 ^ 8 + 2 ^ 36 + (if kd = 4 then 6 * 2 ^ 44 + 0x8000 * 2 ^ 128 else 0) + 2 ^ 48 + 200 * 2 ^ 192 + 2 ^ 208 + 2 ^ 224 + 2 ^ 240 + 128 * 2 ^ 256)
    let s := fun kd => (wB.modCur fun c => { c with q := wr c.q 1 { SUnit.reset with bound := true, desc := d kd, start := 20, next := 2 } }).modCluster 0 fun c =>
      { c with ptc := [⟨0, 16, 0x10000, 3⟩] }
    let i : Instr := .vaddV0 ⟨0, .w256, .i8⟩ 0x39 1 2
    VSel.isQ 0x39 = true ∧ VSel.isQ 3 = false ∧ VKind.isCmp .add = false ∧
    ((s 1).goes i ∧ ((s 1).placed i).cur.unit 1 = (s 1).cur.unit 1 ∧ ((s 1).cur.unit 1).kind = 1 ∧ ((s 1).placed i).writeCause 1 1 = none ∧
      (((s 1).placed i).claimRow 2 (((s 1).cur.unit 1).addr 2) 2).2 = true ∧
      gives (exec i (s 1)) (fun t => (match t.sent with | some (2, .vec (.q 1 2) _ _ (some 0)) => true | _ => false) && (t.cur.unit 1).next = 3) = true) ∧
    ((s 4).goes i ∧ ((s 4).cur.unit 1).kind = 4 ∧ ((s 4).placed i).writeCause 1 1 = none ∧
      gives (exec i (s 4)) (fun t => (match t.sent with | some (2, .vec (.q 1 2) _ _ (some 0)) => true | _ => false) && (t.cur.unit 1).next = 3) = true) := by
  simp only [State.goes]; decide +kernel
/-- The V0 slot of the bundle sends a result for j0, which V1 reads. -/
theorem test_meets_cascade :
    let s := wS fun t => { t with pend := [{ due := 42, iss := 40, pc := 0x1000, slot := 2, eff := .vec (.v 3) 5 7 (some 0) }] }
    s.goes (.vaddV1 ⟨0, .w256, .i8⟩ 4 0x30 2) ∧ (s.upstream 3).isSome = true ∧ VKind.add.streams 0x30 2 = [] ∧ cascadeSel 3 = some 0x30 ∧
      gives (exec (.vaddV1 ⟨0, .w256, .i8⟩ 4 0x30 2) s) (fun t => (match t.sent with | some (2, .vop w 2 none) => w.casA && !w.casB && w.dst = .v 4 | _ => false)) = true := by
  simp only [State.goes]; decide +kernel
theorem test_meets_lanes :
    VType.isInt .i64 = true ∧ 0 < VWidth.bits .w256 / VType.bits .i64 ∧ (wV.m 5).getLsbD 0 = true ∧ intSpec .shl 64 (lane 64 (wV.v 1) 0) (lane 64 (wV.v 2) 0) 0 = some (0x0302_0100 * 2 ^ 63 % 2 ^ 64) := by
  decide +kernel
theorem test_meets_vector_landing :
    ((wE 40 (.vec (.v 31) 5 7 (some 3))).core 0).prim.pend.map (fun e => e.due) = [40] ∧
    gives (exec (.inFlightResultLanding 0) (wE 40 (.vec (.v 31) 5 7 (some 3)))) (fun t => rd (t.core 0).prim.v 31 0 = 5 && rd (t.core 0).prim.j 6 0 = 5) = true ∧
    gives (exec (.inFlightResultLanding 0) (wE 40 (.mask 14 5 7))) (fun t => rd (t.core 0).prim.m 14 0 = 5 && rd (t.core 0).prim.m 15 0 = 2) = true := by decide +kernel
/-- Residues at both ends of the range meter; a beat whose sources stand ready; the array disabled; scales good and bad; an invalid mask. -/
theorem test_meets_matrix :
    Int.natAbs (-(hact none : Int)) ≤ hact none ∧ (6 : Nat) < 7 ∧ (255 : Nat) < modulus 6 ∧ (0 : Nat) < 7 ∧ (240 : Nat) < modulus 0 ∧ (240 : Nat) ≠ ((hact none : Int) % modulus 0).toNat ∧ (255 : Nat) ≠ ((hact none : Int) % modulus 6).toNat ∧
    (let i : Instr := .xacc 0 false .i8i8 (.q 0) (.q 1) 0 0 .none false
     wX.goes i ∧ wX.cur.mx.off = false ∧ (wX.placed i).beatCauses false false .i8i8 (.q 0) (.q 1) 0 0 = []) ∧
    wX.goes (.xzero 0 true .none false) ∧ wX.goes (.xdrn 0 .shift true) ∧ (wX.placed (.xdrn 0 .clear true)).drainCauses true true ≠ [] ∧
    (let s := wX.modCur fun c => { c with mx := { c.mx with off := true } }
     s.goes (.xdrn 0 .shift true) ∧ s.cur.mx.off = true) := by
  simp only [State.goes]; decide +kernel
theorem test_meets_matrix_configuration :
    let s := wB.modMe fun t => { t with v := wr (wr t.v 8 (BitVec.ofNat 1024 ((2 ^ 1024 - 1) / 15 * 8))) 9 0 }
    wB.goes (.xcfg 0 true 1) ∧ wB.goes (.eld 0 31 1 2) ∧ wB.goes (.zld 0 31 1) ∧ s.goes (.gls 0 31 true 8 9) ∧ (glsDecode (s.cur.mx.greg 31) true (s.v 8) (s.v 9)).toOption.isSome = true ∧
    (glsDecode (s.cur.mx.greg 31) true (s.v 1) (s.v 2)).toOption.isSome = false ∧ wB.goes (.xmaskRow 0 15 1) ∧ wB.cur.mx.mvalid = false ∧ wB.goes (.xmaskFill 0) ∧ wB.goes (.xmaskInv 0) := by
  simp only [State.goes]; decide +kernel
/-- The last row of the scratchpad; the first address past it; a row that another core holds; a row of a stream's ring. -/
theorem test_meets_scratchpad :
    let s := (wS fun t => { t with x := wr (wr (wr t.x 5 0x3F_FFFF) 6 0x40_0000) 7 0x10000 }).modCur fun c =>
      { c with q := wr c.q 3 { SUnit.reset with bound := true, desc := BitVec.ofNat 512 (3 + 1024 * 2 ^ 128 + 2 * 2 ^ 44) } }
    let q := s.modCluster 0 fun c => { c with bufs := wr c.bufs 1 (.owned 2) }
    (∀ f ∈ s.loadForms 0 4 5 0 0, s.goes f.1 ∧ f.2.1 < 0x40_0000 ∧ s.homeReads 0 (f.2.1 / 128) = true ∧ s.cur.ringHolds (f.2.1 / 128) none = false) ∧
    (∀ f ∈ s.storeForms 0 4 5 0 0, s.goes f.1 ∧ s.homeWrites 0 (f.2.1 / 128) = true ∧ s.cur.transposerHolds (f.2.1 / 128) = false ∧
      s.cur.writesRow 1000 true (f.2.1 / 128) 2 = false ∧ s.cur.writesRow 1000 false (f.2.1 / 128) 2 = false) ∧
    (∀ f ∈ s.loadForms 0 4 6 0 0, s.goes f.1 ∧ 0x40_0000 ≤ f.2.1) ∧ (∀ f ∈ q.loadForms 0 4 7 0 0, q.goes f.1 ∧ f.2.1 < 0x40_0000 ∧ q.homeReads 0 (f.2.1 / 128) = false) ∧
    (∀ f ∈ q.storeForms 0 4 7 0 0, q.goes f.1 ∧ q.homeWrites 0 (f.2.1 / 128) = false) ∧ s.homeReads 0 8 = true ∧ s.cur.ringHolds 8 none = true ∧ s.goes (.rmrg 0 4 0x37 5) := by
  simp only [State.goes]; decide +kernel
theorem test_meets_rows :
    let s := wE 40 (.rowRead 32767 (.bcast 7) (.v 4))
    (s.core 0).prim.pend.map (fun e => e.due) = [(s.core 0).prim.inst] ∧ (s.core 0).comp.pend = [] ∧ (s.core 0).seg.snap = none ∧ (s.core 0).audit = none ∧
    Memory.wf (s.core 0).sp = true ∧ (s.core 0).spBad.contains 32767 = false ∧
    gives (exec (.inFlightResultLanding 0) (wE 40 (.rowWrite 0 5 3 false))) (fun t => (t.core 0).sp = [(0, 5)]) = true := by decide +kernel
theorem test_meets_untimed :
    (∀ f ∈ wU.untimedClaims 0 1 4 3 1 0 15, wU.goes f.instr ∧ (wU.translate 0 f.va f.need).toOption.isSome = true ∧ f.va < 0x1_0000) ∧
    (∀ f ∈ wU.untimedClaims 0 1 4 2 1 0 15, wU.goes f.instr ∧ (wU.translate 0 f.va f.need).toOption = none) ∧
    (let s := wU.modMe fun t => { t with x := wr t.x 3 0x20_0000 }
     ∀ f ∈ s.untimedClaims 0 1 4 3 1 0 15, s.goes f.instr ∧ (s.translate 0 f.va f.need).toOption = some (2 ^ 41, none) ∧ isHostAddr (2 ^ 41) = true) ∧
    (∀ i ∈ [Instr.fenceAcq 0 .system, .fenceRel 0 .core, .fenceFull 0 .package], w0.goes i ∧ wB.goes i) ∧ w0.inBody = false ∧ wB.inBody = true := by
  simp only [State.goes]; decide +kernel
/-- An access sent in cycle 900. -/
def wAcc (id : Nat) (who : Party) (op : AccOp) (pa pos : Nat) (done : Bool) : Access :=
  { id := id, who := who, op := op, pa := pa, sent := 900, inst := 0, lead := 0, grp := none, phase := none, shut := none, dst := [], pos := pos, pc := 0x1000, ctx := some 1, out := true
    done := done, held := false, result := 9, poison := false }
/-- An access of core 0's primary to the word at 0x10240. -/
def wA (op : AccOp) (dst : List PRef) (done : Bool) : State :=
  { w0 with mem := [(0x10240, 5)], nextId := 9, accs := [{ wAcc 4 (.strm 0 false) op 0x10240 0 done with dst := dst }] }
theorem test_homes :
    (∀ op ∈ [AccOp.read 8, .write 1 1, .aop 0 7 0 true, .rwl 0 false], (wA op [.x 4] false).memOk ∧
      ∀ a ∈ (wA op [.x 4] false).accs, (wA op [.x 4] false).homeReady a = true ∧ (wA op [.x 4] false).poisoned (a.pa / 8 * 8) 8 = false) ∧
    gives (exec (.homeAccess 4) (wA (.aop 0 7 0 true) [.x 4] false)) (fun t => t.mem = [(0x10240, 12)] && (t.accs.map fun a => (a.done, a.result)) = [(true, 5)]) = true ∧
    gives (exec (.homeAccess 4) (wA (.write 0x100 3) [] false)) (fun t => t.mem = [(0x10241, 1)]) = true ∧
    gives (exec (.untimedResultLand 4) (wA (.read 8) [.x 4] true)) (fun t => rd (t.core 0).prim.x 4 0 = 9 && t.accs = []) = true := by
  simp only [State.memOk]; decide +kernel
theorem test_meets_buffers :
    (wBuf (.transit 0)).goes (.btake 0 1) ∧ (wBuf (.owned 0)).goes (.btake 0 1) ∧ (wBuf (.owned 0)).goes (.bgive 0 1 3) ∧ (wBuf (.owned 0)).bufBusy 0 7 = false ∧
    (wBuf (.published 0)).goes (.bgive 0 1 3) ∧ (wBuf (.owned 0)).goes (.bpub 0 1) ∧ (wBuf (.transit 0)).goes (.bpub 0 1) ∧ (wBuf (.published 0)).goes (.bret 0 1) ∧
    (wBuf (.published 0)).peerBound 0 7 = false ∧ (wBuf (.published 0)).peerAsks 0 7 = false ∧ (wBuf (.owned 0)).goes (.bret 0 1) := by simp only [State.goes]; decide +kernel
theorem test_meets_streams :
    wX.goes (.sbind 0 0 3) ∧ (wX.cur.unit 0).bound = true ∧ wX.goes (.sbind 0 7 3) ∧ (wX.cur.unit 7).bound = false ∧ wX.goes (.sfree 0 0) ∧ wX.goes (.sadv 0 0 2) ∧
    (wX.cur.unit 0).advCause 40 2 = none ∧ wX.goes (.xdrn 0 .shift true) ∧
    (wX.modCur fun c => { c with mx := { c.mx with bcfg1 := 8 } }).drainCauses true false = [] ∧ (wX.modCur fun c => { c with mx := { c.mx with bcfg1 := 8 } }).drainCauses true true = [] := by
  simp only [State.goes]; decide +kernel
def wHc (level id : Nat) : HCount :=
  { level := level, id := id, seq := 4, count := 3, done := false, canc := false, recAddr := 0, pre := true, set := [0], ended := [], zero := false }
/-- PHEND beside a slot that has stopped the stream; TEND of a launch that was cancelled, in a loop. -/
theorem test_meets_body_stopped :
    (let s := wG.modMe fun t => { t with run := .trapped }
     s.goes (.phend ⟨0, 0⟩) ∧ s.me.run = .trapped ∧ gives (exec (.phend ⟨0, 0⟩) s) (fun t => t.me.run = .trapped && t.cur.group = some 0 && t.cur.place = .window) = true) ∧
    (let s : State := { ((wT 5).modCur fun c => { c with loop := { c.loop with act := true } }) with hcounts := [{ wHc 1 1 with canc := true }] }
     let s := s.modCur fun c => { c with place := .startCode }
     s.goes (.tend ⟨0, 15⟩) ∧ s.launchCut 1 s.cur.pre = true ∧ gives (exec (.tend ⟨0, 15⟩) s) (fun t => t.me.npc = 0x8000 && !t.cur.loop.act && t.cur.slice = none && t.me.ready = 59) = true) := by
  simp only [State.goes]; decide +kernel
/-- SEGB and PHEND beside a slot that has met poison: the segment will rewind, and neither acts yet. -/
theorem test_meets_rewind_first :
    let s : State := { (wB.modCur fun c => c.openSegment 30 30 30 0xF80) with agenda := [.freezeAnnounce 0 .replay (40 * 2 ^ 56)] }
    s.focus.2 = false ∧ s.goes (.segb ⟨0, 0⟩) ∧ (s.placed (.segb ⟨0, 0⟩)).rewindsFirst = true ∧ s.goes (.phend ⟨0, 0⟩) ∧ (s.placed (.phend ⟨0, 0⟩)).rewindsFirst = true ∧
      gives (exec (.segb ⟨0, 0⟩) s) (fun t => t.cur.segpc = 0xF80) = true ∧ gives (exec (.phend ⟨0, 0⟩) s) (fun t => t.cur.place = .body) = true := by
  simp only [State.goes]; decide +kernel
/-- With the array disabled the sources of a beat advance all the same, and XZERO stops too. -/
theorem test_meets_matrix_off :
    let s := wX.modCur fun c => { c with mx := { c.mx with off := true } }
    s.goes (.xacc 0 false .i8i8 (.q 0) (.q 1) 0 0 .none false) ∧ s.goes (.xzero 0 true .none false) ∧ s.cur.mx.off = true ∧
      gives (exec (.xacc 0 false .i8i8 (.q 0) (.q 1) 0 0 .none false) s) (fun t => t.me.trap.cause = 0x32 && (t.cur.unit 0).next = 1 && (t.cur.unit 1).next = 1) = true := by
  simp only [State.goes]; decide +kernel
/-- Stores that stop: past the end, a foreign buffer, a row of a ring, a row that the stream writes in the same cycle, a companion's
beside the primary's; and a primary's store beside the companion's, which performs. -/
theorem test_meets_store_faults :
    let s := (wS fun t => { t with x := wr (wr (wr t.x 5 0x400) 6 0x40_0000) 7 0x10000 }).modCur fun c =>
      { c with q := wr c.q 3 { SUnit.reset with bound := true, desc := BitVec.ofNat 512 (3 + 1024 * 2 ^ 128 + 4 * 2 ^ 44) } }
    let f := s.modCluster 0 fun c => { c with bufs := wr c.bufs 1 (.owned 2) }
    let e : Pend := { due := 42, iss := 40, pc := 0x1000, slot := 6, eff := .rowWrite 0x240 5 (BitVec.allOnes 128) true }
    let m := wS fun t => { t with pend := [e] }
    let o := wP.modCore 0 fun c => { c with prim := { c.prim with pend := [e] }, comp := { c.comp with x := wr c.comp.x 3 0x240 } }
    let p := w0.modCur fun c => { c with comp := { c.comp with inst := 40, pend := [e] } }
    (∀ i ∈ s.storeForms 0 1 6 0 0, s.goes i.1 ∧ 0x40_0000 ≤ i.2.1) ∧
    (∀ i ∈ f.storeForms 0 1 7 0 0, f.goes i.1 ∧ i.2.1 < 0x40_0000 ∧ f.homeWrites 0 (i.2.1 / 128) = false) ∧
    (∀ i ∈ s.storeForms 0 1 5 0 0, s.goes i.1 ∧ s.homeWrites 0 (i.2.1 / 128) = true ∧ s.cur.ringHolds (i.2.1 / 128) none = true) ∧
    (∀ i ∈ m.storeForms 0 1 3 0 0, m.goes i.1 ∧ m.homeWrites 0 (i.2.1 / 128) = true ∧ m.cur.writesRow 1000 false (i.2.1 / 128) 2 = true ∧
      gives (exec i.1 m) (fun t => t.me.trap.cause = 0x29) = true) ∧
    (∀ i ∈ o.storeForms 0 1 3 0 0, o.goes i.1 ∧ o.focus.2 = true ∧ o.cur.writesRow 1000 false (i.2.1 / 128) 2 = true ∧
      gives (exec i.1 o) (fun t => t.me.trap.cause = 0x29) = true) ∧
    (∀ i ∈ p.storeForms 0 1 3 0 0, p.goes i.1 ∧ p.cur.writesRow 1000 false (i.2.1 / 128) 2 = false ∧ p.cur.writesRow 1000 true (i.2.1 / 128) 2 = true ∧
      gives (exec i.1 p) (fun t => t.me.trap.pend = false && t.me.pend.length = 1 && (t.strm 0 true).pend = [] && (t.strm 0 true).trap.cause = 0x29) = true) := by
  simp only [State.goes]; decide +kernel
/-- A buffer on which a stream of the home, or of a peer, is bound: neither leaves its owner. -/
theorem test_meets_busy_buffers :
    let s := (wBuf (.owned 0)).modCur fun c => { c with q := wr c.q 3 { SUnit.reset with bound := true, desc := BitVec.ofNat 512 (3 + (7 * 65536) * 2 ^ 128 + 4 * 2 ^ 44) } }
    let r := (wBuf (.published 0)).modCore 1 fun c => { c with q := wr c.q 0 { SUnit.reset with bound := true, desc := BitVec.ofNat 512 (2 + (7 * 65536) * 2 ^ 64) } }
    s.bufBusy 0 7 = true ∧ s.goes (.bgive 0 1 3) ∧ s.goes (.bpub 0 1) ∧
      (let q : State := { wBuf (.published 0) with accs := [wAcc 5 (.unit 1 0 0) (.peer 0 (7 * 512 + 3)) 0 0 false] }
       q.peerBound 0 7 = false ∧ q.peerAsks 0 7 = true ∧ q.goes (.bret 0 1) ∧ gives (exec (.bret 0 1) q) (fun t => t.me.trap.cause = 0x22) = true) ∧
      gives (exec (.bgive 0 1 3) s) (fun t => t.me.trap.cause = 0x22) = true ∧ gives (exec (.bpub 0 1) s) (fun t => t.me.trap.cause = 0x22) = true ∧
    r.peerBound 0 7 = true ∧ r.goes (.bret 0 1) ∧ gives (exec (.bret 0 1) r) (fun t => t.me.trap.cause = 0x22) = true := by
  simp only [State.goes]; decide +kernel
/-- An SBIND past the scratchpad; an SADV of an unbound unit, one past the end, one of a position not due, a failed one and a
poisoned one. -/
theorem test_meets_stream_faults :
    let adv := fun (f : SUnit → SUnit) => wX.modCur fun c => c.modUnit 0 f
    let lost := adv fun u => { u with lost := [(0, 0x24)] }
    let bad := adv fun u => { u with stage := [{ pos := 0, row := 0, bad := 0x27 }] }
    w0.goes (.sbind 0 2 2) ∧ 0x40_0000 ≤ (w0.x 2).toNat / 64 * 64 ∧ w0.goes (.sfree 0 2) ∧ w0.goes (.sadv 0 2 1) ∧ (w0.cur.unit 2).bound = false ∧
    (wX.goes (.sadv 0 0 41) ∧ ((wX.cur.unit 0).advCause 40 41).map (·.1) = some 0x23) ∧ (wX.goes (.sadv 0 0 30) ∧ ((wX.cur.unit 0).advCause 40 30).map (·.1) = some 0x23) ∧
    (lost.goes (.sadv 0 0 1) ∧ ((lost.cur.unit 0).advCause 40 1).map (·.1) = some 0x24) ∧
    (bad.goes (.sadv 0 0 1) ∧ ((bad.cur.unit 0).advCause 40 1).map (·.1) = some 0x27 ∧ gives (exec (.sadv 0 0 1) bad) (fun t => t.agenda.length = 1) = true) := by
  simp only [State.goes]; decide +kernel
/-- The descriptor at 0x240 binds unit 7 at the instant of its bundle; SFREE frees it. -/
theorem test_streams_bind :
    let d : Nat := 2 ^ 36 + 8 * 2 ^ 8 + 8 * 2 ^ 20 + 40 * 2 ^ 192 + 2 ^ 208 + 2 ^ 224 + 2 ^ 240 + 128 * 2 ^ 256
    let s := (wE 40 (.sbind 7 0x240)).modCore 0 fun c => { c with sp := Memory.putN [] 0x240 64 d (2 ^ 64 - 1) }
    let f := (wE 40 (.sfree 7)).modCore 0 fun c => { c with q := wr c.q 7 { SUnit.reset with bound := true } }
    s.dscBad 0 (BitVec.ofNat 512 d) = false ∧ (s.core 0).spBad.contains 4 = false ∧
      gives (exec (.inFlightResultLanding 0) s) (fun t => ((t.core 0).unit 7).bound && ((t.core 0).unit 7).start = 39 && ((t.core 0).unit 7).desc = BitVec.ofNat 512 d) = true ∧
      gives (exec (.inFlightResultLanding 0) f) (fun t => !((t.core 0).unit 7).bound) = true := by decide +kernel
/-- Unit 0 of core 0 as the stream steps find it: kind kd, positions filled, requested and staged as given; LEAD 6, one position an instant from
instant 20 on. -/
def wQ (kd next filled req : Nat) (landed : List (Nat × Bool × Nat)) (tr : Bool) : State := wB.modCur fun c =>
  { c with q := wr c.q 0 { SUnit.reset with
      bound := true
      desc := BitVec.ofNat 512 (kd + (if tr then 8 + 16 else 0) + 64 * 2 ^ 8 + 2 ^ 36 + 6 * 2 ^ 44 + 2 ^ 48 + 0x8000 * 2 ^ 128 + 200 * 2 ^ 192 + 2 ^ 208 + 2 ^ 224 + 2 ^ 240 + 128 * 2 ^ 256)
      start := 20
      next := next
      filled := filled
      req := req
      landed := landed } }
theorem test_stream_steps :
    (let s := wQ 0 21 84 0 [] false
     let u := (s.core 0).unit 0
     u.bound = true ∧ u.kind = 0 ∧ u.transpose = false ∧ u.fillPositions u.lead (s.core 0).prim.inst = [84] ∧ u.filled ≤ 84 ∧ 0 < (s.core 0).portsFree 0 ∧ s.loadCause 0 (u.addr 84) = none ∧
       gives (exec (.localStreamFill 0 0) s) (fun t => ((t.core 0).unit 0).stage.map (fun x => x.pos) = [84]) = true) ∧
    (let s := wQ 2 21 0 84 [] false
     let u := (s.core 0).unit 0
     u.kind = 2 ∧ u.fillPositions u.lead (s.core 0).prim.inst = [84] ∧ u.req ≤ 84 ∧ gives (exec (.streamRequest 0 0) s) (fun t => t.lastAsk = some (.peer 1 84, 0, [])) = true) ∧
    (let s := (wQ 3 21 0 84 [] false).modCluster 0 fun c => { c with ptc := [⟨0, 16, 0x10000, 1⟩] }
     let u := (s.core 0).unit 0
     u.kind = 3 ∧ (s.timedXlate 0 (u.addr 84 / 128 * 128) 1).toOption = some 0x12A00 ∧ gives (exec (.streamRequest 0 0) s) (fun t => t.lastAsk = some (.read 128, 0x12A00, [])) = true) ∧
    (let s : State := { wQ 3 21 22 90 [] false with accs := [{ wAcc 5 (.unit 0 0 0) (.read 128) 0x10000 30 true with result := 77 }] }
     Memory.wf (s.core 0).sp = true ∧ gives (exec (.ringLanding 5) s) (fun t => t.accs = [] && (t.core 0).sp = [(0x8000 + 30 * 128, 77)] && ((t.core 0).unit 0).landed = [(30, false, 1000)]) = true) ∧
    (let s := wQ 3 21 22 90 [(22, false, 900)] false
     let u := (s.core 0).unit 0
     u.toStage (s.core 0).prim.inst = [22] ∧ 0 < (s.core 0).portsFree 0 ∧ gives (exec (.ringStageFill 0 0) s) (fun t => ((t.core 0).unit 0).stage.map (fun x => x.pos) = [22]) = true) ∧
    (let s : State := { wB with accs := [wAcc 5 (.unit 1 0 0) (.peer 0 3) 0 30 false] }
     gives (exec (.peerReadServe 0) s) (fun t => t.accs.map (fun a => a.done) = [true]) = true) := by decide +kernel
theorem test_submissions_land :
    gives (exec (.inFlightResultLanding 0) (wE 40 (.jsub 0x240 (some (.x 4)) 1000))) (fun t => (t.cluster 0).serial = 1 && ((t.cluster 0).jobs.map fun j => (j.stamp.serial, j.fault)) = [(0, 0x40)] &&
      (t.core 0).prim.pend.map (fun e => (e.due, e.eff)) = [(41, .x false 4 0)]) = true ∧
    gives (exec (.inFlightResultLanding 0) (wE 40 (.nmsub 0x240 (some (.x 4)) 1000))) (fun t => t.nm.length = 1 && (t.core 0).prim.nmnext = 1) = true ∧
    gives (exec (.inFlightResultLanding 0) (wE 40 (.barm 127 false true (-1)))) (fun t => Bar.ofWord (rd (t.core 0).bars 127 0) =
      { arm := true, fired := false, fault := false, canc := false, uie := true, count := 2 ^ 36 - 1 }) = true ∧
    gives (exec (.inFlightResultLanding 0) (wE 40 (.barm 0 true false 9))) (fun t => (Bar.ofWord (rd (t.core 0).bars 0 0)).count = 9) = true ∧
    gives (exec (.inFlightResultLanding 0) { wE 40 (.phsel true) with selOpen := true }) (fun t => t.selValid && t.selB) = true := by decide +kernel
/-- BUFSTATE 511 and no other. -/
theorem test_buffer_lands : gives (exec (.inFlightResultLanding 0) (wE 40 (.bufState 511 (.owned 3)))) (fun t => t.buf 0 511 = .owned 3 && t.buf 0 510 = .owned 7) = true := by decide +kernel
/-- A malformed word and an endpoint that is bound already; a row that another core holds. -/
theorem test_meets_submissions :
    (∀ f ∈ w0.plainQ 0 4 1 127 true 15, f.1 ≠ .phsel 0 15 → w0.goes f.1) ∧ State.goes { w0 with selOpen := true } (.phsel 0 15) ∧
    (∀ f ∈ w0.rowQ 0 4 3, w0.goes f.1) ∧ w0.loadCause 0 (w0.x 3).toNat = none ∧ (∀ f ∈ w0.rowQ 0 4 2, w0.goes f.1) ∧ w0.loadCause 0 (w0.x 2).toNat = some 0x20 ∧
    (let s := w0.modCluster 0 fun c => { c with bufs := wr c.bufs 0 (.transit 1) }
     (∀ f ∈ s.rowQ 0 4 3, s.goes f.1 ∧ gives (exec f.1 s) (fun t => t.me.trap.cause = 0x21 && t.me.trap.info = 0x200) = true) ∧ s.loadCause 0 (s.x 3).toNat = some 0x21) ∧
    (let s := (wS fun t => { t with x := wr (wr t.x 4 0x4000_0428) 5 0x4800_0428 }).modCur fun c => { c with tq := wr c.tq 1 { Endpoint.reset with bound := true } }
     s.goes (.tqbind 0 4) ∧ s.bindMalformed 0 (s.x 4) = false ∧ s.bindBusy 0 (s.x 4) = false ∧ s.goes (.tqbind 0 5) ∧ s.bindBusy 0 (s.x 5) = true ∧ s.goes (.tqfl 0 1) ∧ bwPair (s.cur.tqAt 1).bind = false) ∧
    w0.goes (.phld 0 true 3 511) ∧ (w0.bank true).st ≠ .loading ∧ State.goes { w0 with bankB := { w0.bankB with st := .loading } } (.phld 0 true 3 511) ∧
    wB.goes (.nmfn 0 4 1) ∧ w0.goes (.nmfn 0 4 1) ∧ State.goes { w0 with seedOn := false } (.seedq 0 4) ∧ w0.goes (.seedq 0 4) ∧ w0.seedOn = true := by
  simp only [State.goes]; decide +kernel
/-- A GLD before an ACQ fence holds the stream's later bundles. -/
theorem test_meets_fence_wait :
    let s := (wA (.read 128) [.v 4] false).modMe fun t => { t with fence := some { kind := 0, scope := .package, upto := 9 } }
    (∃ a ∈ s.accs, a.who = .strm 0 false ∧ a.id < 9 ∧ s.inScope .package a.pa = true ∧ (0 ≠ 0 ∨ a.dst ≠ [])) := by decide +kernel
theorem test_meets_replies :
    let p : State := { wA (.read 8) [.x 63] true with accs := (wA (.read 8) [.x 63] true).accs.map fun a => { a with poison := true } }
    (∀ a ∈ (wA (.read 8) [.x 63] true).accs, a.done = true ∧ a.replies = true ∧ a.poison = false ∧ a.dst = [.x 63]) ∧ (wA (.read 8) [.x 63] true).me.run ≠ .ended ∧
    (∀ a ∈ p.accs, a.replies = true ∧ a.poison = true) ∧ p.me.trap.pend = false ∧
    gives (exec (.untimedResultLand 4) p) (fun t => t.me.trap.cause = 0x27 && t.me.late) = true ∧
    (let s : State := { wB.modCur (fun c => { c with q := wr c.q 7 { SUnit.reset with bound := true, unack := [2, 3] } }) with
       accs := [wAcc 5 (.unit 0 7 0) (.write 1 1) 0x10000 2 true] }
     gives (exec (.writeAck 5) s) (fun t => t.accs = [] && ((t.core 0).unit 7).unack = [3]) = true) := by decide +kernel

/-! ### Stops, freezes and the answers to them -/

/-- Core 0's primary has stopped with a cause; TRAPNPC is 0x2000 and two bubble cycles are kept. -/
def wK (cause : BitVec 7) : State := wS fun t => { t with
  run := .trapped, left := (0, 2), trap := { pend := true, cls := 0, cause := cause, pc := 0x1000, npc := 0x2000, slot := 0, info := 0, cyc := 900 } }
theorem test_group_stop_and_resume :
    (let s := wB.modCur fun c => { c with stopAt := some 1000, faultCy := some 984 }
     (s.core 0).prim.trap.pend = false ∧ (s.core 0).group.isSome = true ∧ gives (exec (.groupStop 0) s) (fun t => t.me.run = .trapped && t.me.trap.cyc = 984 && t.me.trap.cls = 4 && t.cur.stopAt = none) = true) ∧
    (let s := (wK 7).modCur fun c => { c with place := .body, group := some 0, goAt := some 1000 }
     (s.core 0).startAt = none ∧ gives (exec (.groupResume 0) s) (fun t => t.me.run = .running && t.me.pc = 0x2000 && t.me.ready = 43 && !t.me.trap.pend) = true) ∧
    (∀ j ∈ wB.stopMembers 0, (wB.core j).group.isSome = true ∧ (wB.core j).stopAt = none) ∧ wB.stopMembers 0 = [0] := by decide +kernel
theorem test_firmware_answers :
    (onlyAbort 7 = false ∧ (wK 7).cur.group = none ∧ (wK 7).cur.startAt = none ∧ (wK 7).cur.place ≠ .window ∧ gives (exec (.trapactContinue 0 false) (wK 7)) (fun t => t.me.run = .running && t.me.pc = 0x2000 && t.me.ready = 43) = true) ∧
    ((wK 7).falls = [] ∧ gives (exec (.trapactAbort 0 false) (wK 7)) (fun t => t.me.run = .ended && t.falls.length = 1) = true) ∧
    (onlyAbort 0x27 = true ∧ gives (exec (.trapactContinue 0 false) (wK 0x27)) (fun t => t.me.run = .ended) = true) := by decide +kernel
/-- A boundary with nothing missing. -/
def wBound : Boundary :=
  { start := false, missing := [], stamps := [(.refresh, 950)], slackmax := 0, seq := 4, fixed := true, chosen := some (false, 0), copied := none, endJob := false
    allSkip := none, pages := [], hold := 0, went := none, lAt := some 960, skip := none, sent := false, spanFL := [], out := 0 }
def wH (b : Boundary) : State := { w0 with bound := some b }

/-! ### Freezes, clocks and power -/

def wFz (src : FreezeSrc) (key : Nat) (heard : Bool) (eff clr : Option Nat) : Freeze :=
  { src := src, owner := 0, key := key, heard := heard, eff := eff, clr := clr }
/-- Core 0 with one freeze, in a phase body. -/
def wZ (f : Freeze) : State := wB.modCur fun c => { c with ctx := some 1, freezes := [f] }
/-- Its freeze run has reached FRZMAX. -/
def wZrun : State := wB.modCur fun c => { c with frozen := true, frun := 100, frlim := 100 }
/-- An announcement at 56 takes effect there, is over 16 cycles after its condition cleared, and is made known once. -/
theorem test_freezes :
    (wB.cur.replaying = false ∧ gives (exec (.freezeAnnounce 0 .streamRead 56) wB) (fun t => t.cur.freezes = [wFz .streamRead 56 true none none]) = true) ∧
    (let s := wZ (wFz .streamRead 41 true none none)
     (wFz .streamRead 41 true none none).byWall = false ∧ s.cur.seg.replayTo = none ∧
       gives (exec (.freezeTakeEffect 0) s) (fun t => t.cur.frozen && t.cur.freezes = [wFz .streamRead 41 true (some 1000) none]) = true) ∧
    gives (exec (.freezeTakeEffect 0) (wZ (wFz .streamRead 42 true none none))) (fun t => !t.cur.frozen) = true ∧
    (let s := (wZ (wFz .streamRead 41 true (some 900) (some 984))).modCur fun c => { c with frozen := true }
     s.horizon 0 = 16 ∧ s.freezesNow 0 1000 = false ∧ s.freezesNow 0 999 = true ∧ gives (exec (.freezeResume 0) s) (fun t => !t.cur.frozen && t.cur.freezes = []) = true) ∧
    (let s := wB.modCur fun c => { c with weirLim := 0x10, charge := 0x11 }
     s.cur.weirFails 1000 = true ∧ gives (exec (.weirFreezeRequest 0) s) (fun t => t.cur.freezes = [wFz .weir 56 true none (some 1000)]) = true ∧
       (s.modCur fun c => { c with charge := 0x10 }).cur.weirFails 1000 = false) ∧
    (let s := wZ (wFz .tqRead 45 false none none)
     (∃ f ∈ s.cur.freezes, f.heard = false ∧ f.key ≤ s.me.inst + 5) ∧ s.me.trap.pend = false ∧
       gives (exec (.freezeMessageLate 0) s) (fun t => t.me.run = .trapped && t.me.trap.cause = 0x7F) = true ∧
       gives (exec (.freezeMessage 0 false 45) s) (fun t => t.cur.freezes = [wFz .tqRead 45 true none none]) = true) ∧
    gives (exec (.freezeMessageLate 0) (wZ (wFz .tqRead 46 false none none))) (fun t => t.me.run = .running) = true ∧
    (let s := (wZ (wFz .replay 41 true none none)).modCur fun c => { c with seg := { c.seg with replayTo := some 41 } }
     gives (exec (.replayEnd 0) s) (fun t => t.cur.seg.replayTo = none && t.cur.freezes.map (·.clr) = [some 1000]) = true) := by decide +kernel
theorem test_stops_of_freezes :
    ((wZrun.frzLimit (wZrun.members 0)).map (fun m => m.2) = some 0 ∧ 0 ∈ wZrun.members 0 ∧ wZrun.me.trap.pend = false ∧ wZrun.cur.frlim ≤ wZrun.cur.frun ∧
      gives (exec (.freezeTimeout 0) wZrun) (fun t => !t.cur.frozen && t.me.run = .trapped && t.me.trap.cls = 3 && t.me.trap.cause = 0x61 && t.me.trap.info = 100 * 2 ^ 32) = true) ∧
    (let s := (wB.modMe fun t => { t with inst := 65536 })
     s.cur.b0 + 65536 ≤ s.me.inst ∧ gives (exec (.bodyLengthExceeded 0) s) (fun t => t.me.run = .trapped && t.me.trap.cause = 0x62 && t.me.trap.info = 1) = true) ∧
    gives (exec (.bodyLengthExceeded 0) (wB.modMe fun t => { t with inst := 65535 })) (fun t => t.me.run = .running) = true := by decide +kernel
/-- The third companion cycle is the handler's first: ready is 43 or later. -/
theorem test_interrupt_delivered :
    let s := wP.modCur fun c => { c with uivEn := true, uivAddr := 0x40, uiq := [([5, 6], 0x8000)], comp := { c.comp with ready := 40 } }
    s.delivers 0 = true ∧ s.cur.uiq = [([5, 6], 0x8000)] ∧
      gives (exec (.uiDeliver 0) s) (fun t => t.cur.uiepc = 0x1000 && t.cur.inh && t.me.pc = 0x800 && rd t.me.sx 0 0 = 5 && rd t.me.sx 1 0 = 0x8000 && t.cur.uiq = []) = true := by
  decide +kernel
def wHealth (f : Health → Health) : State := { w0 with health := f w0.health }
/-- Region 0 holds cores 0 and 1; a second stretch is allowed 31 cycles after the last. -/
theorem test_clock_regions :
    regionCores 0 = [0, 1] ∧
    (let s := wHealth fun h => { h with stretch := wr h.stretch 0 969 }
     s.mayStretch 0 = true ∧ gives (exec (.clockStretch 0) s) (fun t => rd t.health.stretch 0 0 = 1001 && t.cur.freezes = []) = true) ∧
    (let s := wHealth fun h => { h with stretch := wr h.stretch 0 970 }
     s.mayStretch 0 = false ∧ gives (exec (.clockStretch 0) s) (fun t => t.cur.freezes = [wFz .stretch 1016 true none none] && t.health.low = [(0, 0)]) = true) ∧
    (let s := wHealth fun h => { h with stretch := wr h.stretch 71 970, low := [(71, 9)] }
     s.stopsNext = false ∧ s.mayStretch 71 = false ∧ gives (exec (.stretchFreeze 71) s) (fun t => t.health.low = [(71, 0)]) = true) ∧
    (let s := wHealth fun h => { h with busy := true, goAt := 1001, stretch := wr h.stretch 0 970 }
     s.stopsNext = true ∧ (∀ i ∈ [Instr.clockStretch 0, .stretchFreeze 0], gives (exec i s) (fun t => t.cur.freezes = [] && rd t.health.stretch 0 0 = 970) = true)) ∧
    (w0.stopsNext = false ∧ w0.mayStretch 71 = true ∧ gives (exec (.stretchFreeze 71) w0) (fun t => t.health.low = []) = true) ∧
    (0 ∈ regionCores 0 ∧ (wB.core 0).group.isSome = true ∧ wB.me.trap.pend = false ∧ gives (exec (.criticalMargin 0) wB) (fun t => t.me.trap.cause = 0x7F) = true) := by decide +kernel
theorem test_operating_points :
    (let s := wHealth fun h => { h with busy := true }
     gives (exec .opctlGoSync s) (fun t => t.health.err = 3) = true ∧ gives (exec .opctlGoRunning s) (fun t => t.health.err = 3) = true) ∧
    (let s := wHealth fun h => { h with tgt := 5 }
     s.health.busy = false ∧ 5 ≤ s.health.tgt.toNat ∧ gives (exec .opctlGoSync s) (fun t => t.health.err = 4) = true ∧ gives (exec .opctlGoRunning s) (fun t => t.health.err = 4) = true) ∧
    (let s := wHealth fun h => { h with tgt := 4, opat := 263143 }
     s.health.opat.toNat < s.cyc.toNat + 262144 ∧ gives (exec .opctlGoSync s) (fun t => t.health.err = 1 && !t.health.busy) = true) ∧
    gives (exec .opctlGoSync (wHealth fun h => { h with tgt := 4, opat := 263144 })) (fun t => t.health.busy && t.health.goTgt = 4 && t.health.goAt = 263144) = true ∧
    (w0.alignedMany = false ∧ gives (exec .opctlGoRunning w0) (fun t => t.health.busy && t.health.goMode) = true) ∧
    (let s : State := { w0 with realign := { w0.realign with aligned := true }, jobDevs := [9] }
     s.alignedMany = true ∧ gives (exec .opctlGoRunning s) (fun t => t.health.err = 2) = true) ∧
    gives (exec .opSwitch (wHealth fun h => { h with busy := true, goTgt := 3, goAt := 1000 })) (fun t => t.health.cur = 3 && !t.health.busy && t.health.ramp = 688128 && t.health.chg = 1) = true ∧
    gives (exec .runningRampStep (wHealth fun h => { h with busy := true, goMode := true, goTgt := 1 })) (fun t => t.health.ramp = 458752 + 1792 && t.health.busy) = true ∧
    gives (exec .runningRampStep (wHealth fun h => { h with busy := true, goMode := true, goTgt := 1, ramp := 516000 })) (fun t => t.health.ramp = 516096 && t.health.cur = 1 && !t.health.busy) = true := by
  decide +kernel
/-- 0x2B00 less a sixteenth is 0x2850; a limit stays at its floor. -/
theorem test_power :
    (109 < w0.health.tcrit.toNat ∧ w0.health.plim.toNat < 2401 ∧ w0.health.hotFor < 99 ∧ gives (exec (.powerLoop 2401 109) w0) (fun t => t.cur.weirLim = 0x2850) = true) ∧
    gives (exec (.powerLoop 2401 20) (wC fun c => { c with weirLim := 0x0801 })) (fun t => t.cur.weirLim = 0x0800) = true ∧
    (wB.health.tcrit.toNat ≤ 110 ∧ gives (exec (.powerLoop 0 110) wB) (fun t => t.me.trap.cause = 0x7F && !t.health.rails) = true) := by decide +kernel
theorem test_predicted_failure :
    let s := wHealth fun h => { h with rmis := wr h.rmis 127 1000 }
    (∀ j : CoreId, s.health.uvctl.toNat / 2 ^ 32 % 2 ^ 16 ≤ rd s.health.rmis j.val 0 ↔ j = 127) ∧ rd s.health.uvWin 1 false = false ∧
      gives (exec .pfWindowEnd s) (fun t => t.health.pfstat1 = 2 ^ 63 && t.d2h.length = 1 && rd t.health.rmis 127 0 = 0) = true := by decide +kernel

/-! ### Boundaries, slots and pre-emption -/

/-- Page tables that give each address of the first gigabyte to itself, with every permission (R254). -/
def wMap (s : State) : State :=
  { s with ptbase := 0x40_0001, mem := Memory.putN (Memory.putN s.mem 0x40_0000 8 0x40_1001 255) 0x40_1000 8 0x1F 255 }
def wCtx (n : Nat) : Context :=
  { num := n, mask := 1, init := 0, recb := 0x800_0000, started := true, saved := [], saving := [], jobRun := true, coming := [], slot := (1, 0), nmHeld := [], seq := none }
/-- Firmware's GO and ABORT of a boundary held with 0x60. -/
theorem test_held_boundary :
    gives (exec .seqctlGo (wH { wBound with hold := 0x60 })) (fun t => t.bound = some { wBound with went := some 1000 }) = true ∧
    ((wH { wBound with hold := 0x63 }).falls = [] ∧ gives (exec .seqctlAbort (wH { wBound with hold := 0x63 })) (fun t => t.bound = none && t.falls.map (·.ctx) = [some 1]) = true) := by decide +kernel
/-- Entry 1 of a table of three: IDLE, 5 microseconds of 3,600 cycles; a length of 0 is malformed. -/
def wSlot (e : Nat) : State := { w0 with stbase := 0x8002, slotIx := 0, mem := Memory.putN [] 0x8010 16 e (2 ^ 16 - 1) }
theorem test_slot_table :
    ((wSlot 0x0005_0900).poisoned 0x8010 16 = false ∧ gives (exec .slotStart (wSlot 0x0005_0900)) (fun t => t.slotIx = 1 && t.slotEnd = 19000 && t.slotClass = 1 && !t.slotAudit) = true) ∧
    gives (exec .slotStart (wSlot 0x0900)) (fun t => t.slotHeld && t.fwbox.map (·.cause) = [0x64]) = true ∧
    gives (exec (.stbaseWrite 0x8002) w0) (fun t => t.slotOn && t.slotIx = 2 && t.slotEnd = 1000) = true := by decide +kernel
/-- Core 0 stopped for pre-emption, its save under way. -/
def wPre : State := { (wZ (wFz .preempt 1000 true (some 900) none)) with ctxs := [{ wCtx 1 with saving := [0] }] }
/-- Core 0 is free, and context 1 waits for it with what it saved there. -/
def wRes (saved : List (CoreId × Core)) (coming : List CoreId) : State := (wC fun c => { c with ctx := none }) |> fun s => { s with ctxs := [{ wCtx 1 with saved := saved, coming := coming }] }
theorem test_preemption :
    (let s : State := { wPre with ctxs := [wCtx 1] }
     s.cur.preempted = some (wFz .preempt 1000 true (some 900) none) ∧ s.cur.ctx = some 1 ∧ s.savingOf 0 = none ∧
       (∀ j ∈ s.members 0, (s.core j).prim.trap.pend = false ∧ (s.core j).replaying = false ∧ (s.core j).preempted.isSome = true) ∧
       gives (exec (.preemptStop 0) s) (fun t => t.ctxs.map (·.saving) = [[0]]) = true) ∧
    ((wPre.savingOf 0).isSome = true ∧ wPre.savable 0 = true) ∧
    (let s : State := { wRes [(0, w0.cur.forRecord)] [0] with mem := Memory.putN (Memory.putN [] 0x800_0020 8 0x1000 255) 0x800_1008 8 7 255 }
     (s.comingOf 0).isSome = true ∧ s.coreFree { wCtx 1 with coming := [0] } = true ∧
       gives (exec (.preemptResume 0) s) (fun t => t.me.pc = 0x1000 && rd t.me.x 1 0 = 7 && t.cur.ctx = some 1 && t.cur.frozen) = true) ∧
    (let s := wRes [] [0, 127]
     s.coreFree { wCtx 1 with coming := [0, 127] } = true ∧ gives (exec (.preemptResume 0) s) (fun t => t.cur.ctx = some 1) = true) := by decide +kernel
/-- A phase of core 0 in group 0: header at 6 with core entry 7 of bank B, entry bundle 0x2_0000, one region at 0x1_0000. -/
def wBank (h : Nat) : PBank := { PBank.reset with
  st := .valid
  entries := wr (wr PBank.reset.entries 6 (BitVec.ofNat 512 h)) 7
    (BitVec.ofNat 512 (2 + 2 * 2 ^ 24 + 64 * 2 ^ 32 + 0x2_0000 * 2 ^ 64 + 0x3_0000 * 2 ^ 128 + 2 ^ 180)) }
def wLatch (h : Nat) : State :=
  let s := wMap { w0 with bankB := wBank h, bound := some { wBound with chosen := some (true, 6), missing := [.bankLoad], lAt := none } }
  { s with mem := Memory.putN s.mem 0x3_0000 16 (0x1_0000 + 7 * 2 ^ 56 + 0x2_0000 * 2 ^ 64) (2 ^ 16 - 1) }
def wDesc : PhaseDesc :=
  { seq := 0, bank := true, index := 6, nxa := 3, nxb := 4, defB := false, isEnd := false, span := false, slackmax := 1000, selcore := some 0, mindelay := 64
    cores := [{ core := 0, group := 0, djobs := 2, delay := 64, entry := 0x2_0000, fplist := [(0x1_0000, 0x2_0000, 7)], tqlist := [] }], prompt := 8, modeOff := true, xoff := [] }
/-- A header whose byte 0 is not 1 is malformed. -/
theorem test_phase_latch :
    let h := 1 + 2 ^ 8 + 3 * 2 ^ 32 + 4 * 2 ^ 41 + 1000 * 2 ^ 64 + 2 ^ 88
    ((wLatch h).latchDue = true ∧ (wLatch h).latchPhase true 6 ((wLatch h).latchCopy true 6) = .ok wDesc ∧
      gives (exec .phaseLatch (wLatch h)) (fun t => t.latched = some wDesc && t.bound.map (·.missing) = some [.pretrans, .training]) = true) ∧
    (let s := (wLatch h).copyPhase true 6
     s.latchDue = true ∧ (s.bound.bind (·.copied)).isSome = true ∧ gives (exec .phaseLatch s) (fun t => t.latched = some wDesc) = true) ∧
    (let s := (wLatch (h + 4)).copyPhase true 6
     s.latchDue = true ∧ (s.bound.bind (·.copied)).isSome = true ∧ gives (exec .phaseLatch s) (fun t => t.bound.map (·.hold) = some 0x62) = true) ∧
    ((wLatch (h + 4)).latchDue = true ∧ (wLatch (h + 4)).latchPhase true 6 ((wLatch (h + 4)).latchCopy true 6) = .bad ∧ gives (exec .phaseLatch (wLatch (h + 4))) (fun t => t.bound.map (·.hold) = some 0x62) = true) := by decide +kernel
theorem test_pre_translation :
    let s : State := { wMap w0 with latched := some wDesc, bound := some { wBound with missing := [.pretrans, .training], lAt := none } }
    (∀ cl, (s.clusterPages wDesc cl).toOption = some (if cl = 0 then [⟨0, 30, 0, 7⟩] else [])) ∧
      gives (exec .preTranslationArrival s) (fun t => (t.cluster 0).ptcNext = [⟨0, 30, 0, 7⟩] && t.bound.map (·.missing) = some [.training]) = true := by decide +kernel
theorem test_boundary_steps :
    gives (exec (.pageRequestAnswer 0x1000) (wH { wBound with pages := [0x1000, 0x2000] })) (fun t => t.bound.map (·.pages) = some [0x2000]) = true ∧
    gives (exec .refreshDebtRepaid (wH { wBound with missing := [.refresh] })) (fun t => t.bound.map (·.missing) = some []) = true ∧
    (let s : State := { wMap { w0 with mem := Memory.putN [] 0x1_0040 4 77 15 } with bankA := { PBank.reset with st := .loading, load := some (0x1_0040, 1, 0x40_0001) } }
     s.vread 0x40_0001 2 0x1_0040 64 = some (77, false) ∧ gives (exec (.phldLoadDone false) s) (fun t => t.bankA.st = .valid && t.bankA.entry 0 = 77) = true) ∧
    (let late := fun (m : List Arrival) (f : Nat) => wH { wBound with missing := m, stamps := [(.core 0, f)], slackmax := 10, lAt := none }
     (late [.bankLoad] 989).slackDue = true ∧ (late [.bankLoad] 990).slackDue = false ∧ gives (exec .slackOverrun (late [.bankLoad] 989)) (fun t => t.bound.map (·.hold) = some 0x63 && t.fwbox.map (·.cause) = [0x63]) = true ∧
       gives (exec .slackOverrun (late [.refresh, .bankLoad] 989)) (fun t => t.bound.map (·.hold) = some 0x60) = true) ∧
    (let s : State := { w0 with partctl := 0x0000_0000_0F18_0001, partq := 0x5000, mem := [(0x5000, 9), (0x5008, 3)] }
     gives (exec .partitionPeriod s) (fun t => t.partctl = 0x0000_0000_9F18_0001) = true) := by decide +kernel
/-- L is 960; core 0 starts at L + 64, and there enters its body. -/
theorem test_phase_turns :
    (let s : State := { wH wBound with latched := some wDesc, running := some { wDesc with seq := 4 }, rcvPend := true, rcvReq := 9 }
     s.lastReady = true ∧ (wDesc.cores.map fun c => c.core).Nodup ∧ gives (exec .sluiceLastArrival s) (fun t => t.running = some { wDesc with seq := 5 } && t.cur.startAt = some 1024 && t.rcvPend) = true) ∧
    (let s := wH { wBound with endJob := true }
     s.lastReady = true ∧ gives (exec .sluiceLastArrival s) (fun t => t.bound = none && t.me.run = .ended && t.cur.place = .outside) = true) ∧
    (let s : State := { (wC fun c => { c with place := .window, startAt := some 1000 }) with running := some wDesc }
     wDesc.cores.find? (fun c => c.core = 0) = wDesc.cores.head? ∧
       gives (exec (.phaseStart 0) s) (fun t => t.cur.place = .body && t.cur.group = some 0 && t.me.pc = 0x2_0000 && t.cur.b0 = 40 && t.cur.seg.isOpen) = true) := by decide +kernel

/-! ### Engines -/

def wJob (card : Row) (ph : JobPhase) (asked : Bool) (got : List (Nat × Row × Bool)) : Job :=
  { card := card, stamp := { pc := 0x1000, core := 0, comp := false, cyc := 900, ctx := none, serial := 7 }, edges := [], phase := ph, seq := 4, item := 0, sub := 0, idx := none, ibad := false
    asked := asked, got := got, carry := [], moved := 0, fault := 0, faultVa := 0, region := 0, canc := false, hostLast := none, blocks := [] }
/-- A card with regions of 64 bytes: reads from 0x1_0000 on, writes at 0x2_0030. -/
def wCard (op esz nr rows cols pitch : Nat) : Row :=
  let r := fun (i : Nat) => (0x1_0000 * (2 * i + 1) + 64 * 2 ^ 64) * 2 ^ (8 * (32 + 12 * i))
  BitVec.ofNat 1024 (op + esz * 2 ^ 5 + (if op = 5 then 2 ^ 16 else 0) + nr * 2 ^ 24 + 2 ^ 28 + rows * 2 ^ 32 + cols * 2 ^ 48 + (if op = 5 then 2 ^ 65 else 0) + pitch * (2 ^ 128 + 2 ^ 160) +
    (if op = 5 then r 0 + 2 ^ (8 * 32 + 52) else ((List.range nr).map r).foldl (· + ·) 0) + (0x2_0030 + 64 * 2 ^ 64) * 2 ^ (8 * 80))
def wJ (s : State) (j : Job) : State := s.modCluster 0 fun u => { u with jobs := [j] }
/-- A waiting job of each operation starts, and a started one asks for its first bytes. -/
theorem test_copy_jobs :
    let m := wMap w0
    let cards := [(Instr.jcopy 0 7, wCard 1 0 1 0 0 0), (.jcopyt 0 7, wCard 2 2 1 2 2 16), (.jgather 0 7, wCard 3 2 2 2 2 16), (.jscatter 0 7, wCard 4 2 2 2 2 16), (.jred 0 7, wCard 5 2 1 0 0 0)]
    (∀ c ∈ cards, cardOk c.2 = true ∧ m.jobStarts 0 (wJob c.2 .waiting false []) = true ∧
      gives (exec c.1 (wJ m (wJob c.2 .waiting false []))) (fun t => ((t.findJob 0 7).map (·.phase)) = some .started) = true ∧
      gives (exec c.1 (wJ m (wJob c.2 .started false []))) (fun t => t.accs.length = (if cOp c.2 = 5 then 2 else 1)) = true) ∧
    gives (exec (.jcopy 0 7) (wJ m (wJob (wCard 1 0 1 0 0 0) .started true [(0, 0x55, false)]))) (fun t => t.accs.map (fun a => (a.op, a.pa)) =
      [(rowPut 0x2_0030 16 0x55 false, 0x2_0000)]) = true ∧
    gives (exec (.jcopy 0 7) (wJ w0 (wJob (wCard 1 0 1 0 0 0) .started false []))) (fun t => ((t.findJob 0 7).map (fun j => (j.phase, j.fault, j.faultVa))) = some (.finishing, 0x42, 0x1_0000)) = true := by
  decide +kernel
/-- Barrier 5 at 65 before a payload of 64, and at 64, where it fires. -/
theorem test_jobs_end :
    let card : Row := wCard 1 0 1 0 0 0 ||| 0x580
    let bar := fun (n : Nat) => (wJ w0 (wJob card .finishing false [])).modCur fun c => { c with bars := wr c.bars 5 (BitVec.ofNat 64 (2 ^ 63 + n)) }
    cPayload card = 64 ∧ cBen card = true ∧ cBar card = 5 ∧ (bar 65).jobBusy 0 7 = false ∧
      gives (exec (.jobComplete 0 7) (bar 65)) (fun t => (t.cluster 0).jobs = [] && rd t.cur.bars 5 0 = 2 ^ 63 + 1) = true ∧
      gives (exec (.jobComplete 0 7) (bar 64)) (fun t => rd t.cur.bars 5 0 = 2 ^ 63 + 2 ^ 62) = true ∧
      gives (exec (.jobComplete 0 7) (wJ w0 { wJob card .finishing false [] with hostLast := some 0x200_0000_0777 })) (fun t => t.accs.map (fun a => (a.op, a.pa)) = [(.read 1, 0x200_0000_0777)]) = true := by
  decide +kernel
/-- The mark of block 1, whose copy goes to 0x20_0030 and on in the page at 0x31_0000. -/
def wMark : Mark :=
  { block := 1, dst := 0x20_0030, dst2 := 0x31_0000, cl := 0, serial := 7, num := 4, data := [(0x1_FFFF, 9)], bad := [], began := some 1000, sent := false }
/-- Two blocks of a JSNAP; and the copy of a block that began 1,024 cycles ago is due. -/
theorem test_snapshots :
    (let card : Row := BitVec.ofNat 1024 (6 + 2 ^ 24 + 2 ^ 28 + (0x10_0000 + 0x2_0000 * 2 ^ 64) * 2 ^ 256 + (0x20_0000 + 0x2_0000 * 2 ^ 64) * 2 ^ 640)
     let s : State := { wJ (wMap w0) (wJob card .waiting false []) with bound := some wBound }
     cardOk card = true ∧ s.jobStarts 0 (wJob card .waiting false []) = true ∧
       gives (exec (.jsnap 0 7) s) (fun t => ((t.findJob 0 7).map (fun j => (j.phase, j.blocks))) = some (.started, [(0x10, 0x20_0000, 0x20_0000), (0x11, 0x21_0000, 0x21_0000)])) = true) ∧
    (let s : State := { w0 with cyc := 2024, marks := [wMark], mem := [(0x1_FFFF, 9), (0x2_0000, 5)] }
     s.ownAddr 0x2_0000 = true ∧ s.ownAddr (wMark.block * 65536) = true ∧ s.markData wMark = some wMark ∧ Memory.wf s.mem = true ∧ s.marks.find? (fun m => stackOf (m.block * 65536) = 0 && !m.sent && m.began.any (fun w => w + 1024 ≤ s.cyc.toNat)) = s.marks.head?) := by decide +kernel
def wNm (op fmt imm dfmt done : Nat) (begun : Bool) : NmCmd :=
  { cmd := BitVec.ofNat 256 (op + fmt * 2 ^ 5 + dfmt * 2 ^ 8 + 40 * 2 ^ 32 + 0x1_0010 * 2 ^ 64 + (if op = 3 ∨ op = 6 then 0 else 0x2_0020) * 2 ^ 128 + imm * 2 ^ 192)
    stamp := { pc := 0, core := 0, comp := false, cyc := 0, ctx := none, serial := 0 }, queued := true, begun := begun, xl := [⟨0, 20, 0, 7⟩], blk := 0, done := done, acc := .zero true, crc := 0
    bad := 0, wrote := false, fault := 0, fva := 0, fop := 0, transient := false }
def wN (c : NmCmd) : State := { w0 with nm := [c] }
/-- Format 6 is refused by every operation. -/
theorem test_near_memory_check : ∀ f ∈ nearForms 0, nmEntryOk (wNm f.2 6 0 0 0 false) = false ∧
    gives (exec f.1 (wN (wNm f.2 6 0 0 0 false))) (fun t => t.nm.map (fun c => (c.fault, c.begun)) = [(0x50, true)]) = true := by decide +kernel
/-- Elements of 4 bytes to the end of the first row: 28 of them at 0x1_0010, 24 at 0x2_0020; 14 of 8 bytes. -/
def wNmStep (i : Nat) : Prop := ∀ f ∈ ((nearForms 0).drop i).take 1, gives (exec f.1 (wN (wNm f.2 0 0 (if f.2 = 9 then 3 else 0) 0 true))) (fun t =>
  t.nm.map (fun c => (c.fault, c.done)) = [(0, if f.2 = 7 ∨ f.2 = 10 then 24 else if f.2 = 9 then 14 else 28)]) = true
theorem test_near_memory_nadd : wNmStep 0 := by unfold wNmStep; decide +kernel
theorem test_near_memory_naxpy : wNmStep 1 := by unfold wNmStep; decide +kernel
theorem test_near_memory_nscal : wNmStep 2 := by unfold wNmStep; decide +kernel
theorem test_near_memory_nsgdw : wNmStep 3 := by unfold wNmStep; decide +kernel
theorem test_near_memory_nadamw : wNmStep 4 := by unfold wNmStep; decide +kernel
theorem test_near_memory_nfill : wNmStep 5 := by unfold wNmStep; decide +kernel
theorem test_near_memory_nred : wNmStep 6 := by unfold wNmStep; decide +kernel
theorem test_near_memory_ncopy : wNmStep 7 := by unfold wNmStep; decide +kernel
theorem test_near_memory_ncvt : wNmStep 8 := by unfold wNmStep; decide +kernel
theorem test_near_memory_nchk : wNmStep 9 := by unfold wNmStep; decide +kernel
theorem test_near_memory_end :
    (let c := wNm 6 0 7 0 40 true
     (wN (wNm 1 0 0 0 0 true)).nmUnseen (wNm 1 0 0 0 0 true) = false ∧ (wN (wNm 1 0 0 0 0 true)).poison = [] ∧
     c.over = true ∧ gives (exec (.nmCommandComplete 0) (wN c)) (fun t => t.nm = []) = true ∧ gives (exec (.nmStep 0) (wN (wNm 6 0 7 0 0 true))) (fun t => t.nm.map (·.done) = [28]) = true) ∧
    nmElem (wNm 1 4 0 0 0 true) 0xFFFF_FFFF 2 = 1 ∧ nmElem (wNm 6 4 0x1_2345_6789 0 0 true) 0 0 = 0x2345_6789 ∧ nmElem (wNm 8 4 0 0 0 true) 1 2 = 2 := by decide +kernel
def wReq (st : SStage) : State := w0.modCluster 3 fun u => { u with reqs :=
  [{ card := BitVec.ofNat 1024 (5 * 2 ^ 64), stamp := { pc := 0, core := 24, comp := false, cyc := 0, ctx := none, serial := 0 }, iter := 1, stage := st, seq := 4, inBody := true, closed := true, failed := false, mems := [], start := 990 }] }
theorem test_sampler :
    gives (exec (.samplerFetch 3) (wReq .queued)) (fun t => (t.cluster 3).reqs.map (fun r => (r.stage, r.mems.length)) = [(.fetch, (sMembers (BitVec.ofNat 1024 (5 * 2 ^ 64))).length)]) = true ∧
    gives (exec (.samplerExecute 3) (wReq .fetch)) (fun t => (t.cluster 3).reqs.map (·.start) = [1000]) = true ∧
    gives (exec (.samplerCommit 3) (wReq (.execute 10))) (fun t => (t.cluster 3).reqs.map (·.stage) = [.commit 0 0]) = true ∧
    ((wReq (.commit 0 0)).smpIdle 3 = true ∧ gives (exec (.samplerComplete 3) (wReq (.commit 0 0))) (fun t => (t.cluster 3).reqs = []) = true) ∧
    gives (exec (.kvLost 0x1040) w0) (fun t => t.poison = [0x41]) = true := by decide +kernel

/-! ### Links -/

def wPort (f : Port → Port) : State := w0.modPort 5 fun x => f { x with ctl := 0x100_0000_0000 }
/-- A data flit of SEQ 200 with an RD header unit. -/
def wFlit : List Byte := flitBytes (({ Port.reset with expSeq := 200 } : Port).head 200 false 1) [0x2_0000_0001_0000_0000_0012] 0
theorem test_flits :
    (let s := wPort fun x => { x with up := true, expSeq := 200, nakOut := some 4 }
     flitOk wFlit = (true, true) ∧ bitsOf (leNat (wFlit.take 8)) 19 17 = 1 ∧ bitsOf (leNat (wFlit.take 8)) 16 16 = 0 ∧ wFlit.headD 0 = 200 ∧
       gives (exec (.flitReceive 5 { blockLost := false, corrected := 0, bytes := wFlit }) s) (fun t => (t.port 5).expSeq = 201 && (t.port 5).nakOut = none) = true) ∧
    (let s := wPort fun x => { x with train := true, expSeq := 200 }
     (flitOk (wFlit.set 100 1)).1 = false ∧ gives (exec (.flitReceive 5 { blockLost := false, corrected := 0, bytes := wFlit.set 100 1 }) s) (fun t => (t.port 5).crcerr = 1 && (t.port 5).naktx = 1 &&
       (t.port 5).nakOut = some 1000 && (t.port 5).expSeq = 200) = true) := by decide +kernel
theorem test_ports :
    gives (exec (.nakRepeat 5) (wPort fun x => { x with nakOut := some 488 })) (fun t => (t.port 5).naktx = 1 && (t.port 5).nakOut = some 1000) = true ∧
    gives (exec (.replayWindowEnd 5) (wPort fun x => { x with winrpl := 3, rply := 7 })) (fun t => (t.port 5).winrpl = 0 && (t.port 5).rply = 7) = true ∧
    gives (exec (.trainingComplete 5 true) (wPort fun x => { x with train := true, replay := [(3, [1], 1)] })) (fun t => (t.port 5).up && !(t.port 5).train && (t.port 5).again = [3]) = true ∧
    gives (exec (.trainingComplete 5 false) (wPort fun x => { x with train := true, rate := 2 })) (fun t => !(t.port 5).up && (t.port 5).held) = true ∧
    gives (exec (.pctlRetrain 23) (w0.modPort 23 fun x => { x with ctl := 0x100_0000_0002, held := true })) (fun t => (t.port 23).train && !(t.port 23).held && (t.port 23).rate = 1) = true := by decide +kernel
/-- A message from device 9. -/
def wMsg (a b : Nat) (data : List (BitVec 128)) : Msg := { cls := 0, dst := 0, src := 9, len := 8, a := BitVec.ofNat 32 a, b := BitVec.ofNat 64 b, data := data }
theorem test_remote_requests :
    gives (exec (.rd (wMsg 0x8_0003 0x10000 [])) w0) (fun t => t.accs.map (fun a => (a.op, a.pa, a.who)) = [(.read 128, 0x10000, .link 9 3)]) = true ∧
    gives (exec (.wr (wMsg 3 0x10000 [1, 0, 0, 0, 0, 0, 0, 5])) w0) (fun t => t.accs.map (fun a => (a.op, a.pa)) = [(.write (BitVec.ofNat 1024 (1 + 5 * 2 ^ 896)) (BitVec.allOnes 128), 0x10000)]) = true ∧
    gives (exec (.atom (wMsg 0xA_0003 0x10008 [BitVec.ofNat 128 (7 + 5 * 2 ^ 64)])) w0) (fun t => t.accs.map (fun a => a.op) = [.aop 0xA 7 5 true]) = true ∧
    gives (exec (.atom (wMsg 0xB_0003 0x10008 [1])) w0) (fun t => t.accs.map (fun a => a.op) = [.rwl 0 true]) = true ∧
    (let s : State := { wA (.read 8) [.x 4] false with accs := (wA (.read 8) [.x 4] false).accs.map fun a => { a with pa := 2 ^ 43 } }
     gives (exec (.rsp (wMsg 4 0 [77])) s) (fun t => t.accs.map (fun a => (a.done, a.result)) = [(true, 77)]) = true) := by decide +kernel
def wTqBind (out : Bool) : Word := BitVec.ofNat 64 (9 + 2 * 2 ^ 27 + out.toNat * 2 ^ 30)
/-- Endpoint 2 of core 0, bound to device 9; rows of its queue number on from 3. -/
def wTq (out : Bool) (f : Endpoint → Endpoint) : State := wC fun c => { c with tq := wr c.tq 2 (f { Endpoint.reset with
  bound := true, bind := wTqBind out, moved := 3, freed := 8 }) }
theorem test_tile_queue_messages :
    (((wTq false id).cur.tqAt 2).outbound = false ∧ bwDev (wTqBind false) = 9 ∧ bwPair (wTqBind false) = false ∧
      gives (exec (.tqrow (wMsg 0x100 3 [1, 0, 0, 0, 0, 0, 0, 5])) (wTq false id)) (fun t => (t.cur.tqAt 2).rows = [(1000, BitVec.ofNat 1024 (1 + 5 * 2 ^ 896))] && (t.cur.tqAt 2).moved = 4) = true) ∧
    gives (exec (.tqclose (wMsg 0x100 0 [])) (wTq false fun e => { e with stale := some (wTqBind false) })) (fun t => (t.cur.tqAt 2).stale = none) = true ∧
    (let s := wTq true fun e => { e with rows := [(1, 2), (3, 4)], credit := 6 }
     (s.cur.tqAt 2).outbound = true ∧ gives (exec (.tqack (wMsg (0x100 + 2 ^ 10 + 2 * 2 ^ 20) 0 [])) s) (fun t => (t.cur.tqAt 2).acked = 1 && (t.cur.tqAt 2).rows = [(3, 4)]) = true) := by decide +kernel
def wR (f : Realign → Realign) : State :=
  let s : State := { (w0.modPort 5 fun p => { p with ctl := 8, up := true, peerDev := 9 }) with
    jobDevs := [9], devid := 17, realign := f { Realign.reset with active := true, began := 995, ctx := some 1 }, rtbase := 0x6000, mem := [(0x6048, 0x20)] }
  s.modCore 0 fun c => { c with prim := { c.prim with run := .realign } }
theorem test_realign :
    (let s := wS fun t => { t with run := .realign }
     s.ctxCores = [0] ∧ s.jobDevs = [] ∧ gives (exec .realignBegin s) (fun t => t.realign.active && t.realign.resume = some 1064) = true) ∧
    ((wR id).timingPort = some 5 ∧ (wR id).exchangeDue = true ∧
      gives (exec .timeExchangeSend (wR id)) (fun t => t.realign.sentAt = some 1000 && ((t.port 5).outMsgs.map fun m => (m.1, m.2.a, m.2.data)) = [(7, 0, [1000])]) = true) ∧
    gives (exec (.timeReply (wMsg 1 0 [BitVec.ofNat 128 (907 + 909 * 2 ^ 64)])) (wR fun r => { r with sentAt := some 900 })) (fun t => t.realign.pairs = [(-42, 49)] && t.realign.sentAt = none) = true ∧
    gives (exec (.timeReport (wMsg 3 0 [BitVec.ofNat 128 (2 ^ 64 - 1 + 30 * 2 ^ 64 + 50 * 2 ^ 80)])) (wR id)) (fun t => t.realign.reports = [(9, -1, 104)]) = true ∧
    gives (exec (.timeStep (wMsg 2 0 [BitVec.ofNat 128 (5000 + 80 * 2 ^ 64)])) (wR id)) (fun t => t.realign.stepAt = some 5000 && t.realign.dly = 80) = true ∧
    gives (exec .cycStep (wR fun r => { r with stepAt := some 1000, offset := -7 })) (fun t => t.cyc = 993 && t.realign.resume = some 1057) = true ∧
    gives (exec .realignComplete (wR fun r => { r with resume := some 1000, dly := 80 })) (fun t => t.realign.aligned && t.spandly = 80 && t.me.run = .running) = true ∧
    (let s : State := { wR fun r => { r with sentAt := some 7 } with cyc := 2 ^ 20 + 7 }
     s.realignLate = true ∧ gives (exec .realignTimeout s) (fun t => !t.realign.active && t.me.trap.cause = 0x72) = true) := by decide +kernel
/-- One port leads to device 9, so that the hash chooses nothing. -/
theorem test_port_for : (wR id).portFor 9 0 = some 5 := by
  have h : (List.range 24).filter (fun i => (wR id).route 9 / 2 ^ i % 2 = 1) = [5] := by decide +kernel
  simp only [State.portFor, h, List.length_singleton, Nat.mod_one]; rfl
theorem test_sluice_messages :
    (let s : State := { wR id with bound := some { wBound with start := true, lAt := none, missing := [.refresh] } }
     s.spans { wBound with start := true, lAt := none, missing := [.refresh] } = true ∧ gives (exec (.sluiceArrival (wMsg 0x40 0 [BitVec.ofNat 128 (900 + 950 * 2 ^ 64)])) s) (fun t => t.bound.map (·.spanFL) = some [(9, 900, 950)]) = true ∧
       gives (exec (.sluiceStart (wMsg 0x41 0 [2000])) s) (fun t => t.bound.map (·.lAt) = some (some 2000)) = true) ∧
    ((wH wBound).spans wBound = false ∧ gives (exec (.sluiceArrival (wMsg 0x40 0 [1])) (wH wBound)) (fun t => t.bound.map (·.hold) = some 0x62) = true) := by decide +kernel

/-! ### Audit, recovery and the host -/

def wBlk (runs : List (CoreId × Word)) : State := { w0 with
  slotAudit := true, audctl := 1
  audblks := [{ num := 3, seq := 4, j := 7, k := 0, first := 0, len := 2, recAt := 0x4000, pc := 0x1000, image := true, ended := true, sig := 99, runs := runs
                ctx := some 1, recNum := 5, spot := some (0, 0x700_0000), log := { iss := 40, regs := 0, sp := [(3, 9)], ins := [], res := [] } }] }
theorem test_audit :
    gives (exec (.auditLogCopy 0) { wBlk [] with audblks := (wBlk []).audblks.map fun b => { b with image := false, ended := false } })
      (fun t => t.audblks.map (fun b => (b.image, b.spot.isSome)) = [(true, true)]) = true ∧
    (let s : State := { wBlk [] with audbase := 7 * 2 ^ 24 + 1, audHead := 64, audblks := (wBlk []).audblks.map fun b => { b with image := false, spot := none } }
     (∀ b ∈ s.audblks, b.ended = true ∧ b.spot = none ∧ Memory.wf b.log.sp = true ∧ s.audUsed + b.size ≤ 2 ^ 24 ∧ 64 + b.size ≤ 2 ^ 24) ∧
       gives (exec (.auditLogCopy 0) s) (fun t => t.audblks.map (fun b => (b.image, b.spot)) = [(true, some (64, 0x700_0040))] &&
         Memory.getN t.mem 0x700_0048 8 = 7 && Memory.getN t.mem (0x700_0040 + 8 * 15) 8 = 99) = true) ∧
    ((wBlk []).replayCore 0 16 1 ≠ none ∧ gives (exec (.auditReplay 3) (wBlk [])) (fun t => t.audblks.map (fun b => b.runs.map (·.1)) = [((wBlk []).replayCore 0 16 1).toList]) = true) ∧
    gives (exec (.auditCompare 3) (wBlk [(9, 99)])) (fun t => t.audpass = 1 && t.audmis = 0 && t.audblks = []) = true ∧
    gives (exec (.auditCompare 3) (wBlk [(9, 98), (17, 99)])) (fun t => t.audpass = 0 && t.audmis = 1 && t.fwbox.map (fun m => (m.cause, m.info)) = [(0x78, 0x700_0000)]) = true := by decide +kernel
theorem test_recovery :
    gives (exec (.rcvmarkWrite 77) w0) (fun t => t.rcvPend && t.rcvReq = 77) = true ∧
    (let s : State := { wH wBound with rcvReq := 77, exposed := [5] }
     State.rcvPend { s with rcvPend := true } = true ∧ (State.reachLast { s with rcvPend := true } 960).rcvId = 77 ∧ (State.reachLast { s with rcvPend := true } 960).rcvCyc = 960 ∧
       (State.reachLast { s with rcvPend := true } 960).exposed = [] ∧ s.rcvPend = false ∧ (s.reachLast 960).exposed = [5] ∧ (s.reachLast 960).rcvId = 0) ∧
    (let s : State := { w0 with falls := [{ ctx := some 5, words := [1, 2] }] }
     s.quiet (some 5) = true ∧ gives (exec .recoveryRecordWrite s) (fun t => t.falls = [] && t.d2h.length = 1) = true) := by decide +kernel
/-- The last bytes of the window, and those of one row. -/
theorem test_host_accesses :
    (w0.unbacked 0x1040 = false ∧ gives (exec (.hostRead 0x1040 64) w0) (fun t => t.accs.map (fun a => (a.op, a.pa, a.who)) = [(.read 64, 0x1040, .host)]) = true) ∧
    gives (exec (.hostWrite 0x1041 [1, 2]) w0) (fun t => t.accs.map (fun a => (a.op, a.pa)) = [(.write (BitVec.ofNat 1024 (0x201 * 2 ^ 520)) (BitVec.ofNat 128 (3 * 2 ^ 65)), 0x1000)]) = true ∧
    gives (exec (.hostFetchadd 0xF_FFFF_FFF8 true 5) { w0 with hw1base := 0x1000 }) (fun t => t.accs.map (fun a => (a.op, a.pos)) = [(.hostAtomic 0 true 5 0, 0xF_FFFF_FFF8)]) = true ∧
    gives (exec (.hostSwap 0 false 5) w0) (fun t => t.accs.map (fun a => a.op) = [.hostAtomic 1 false 5 0]) = true ∧
    gives (exec (.hostCas 0 true 7 5) w0) (fun t => t.accs.map (fun a => a.op) = [.hostAtomic 2 true 5 7]) = true ∧
    gives (exec (.hostFetchadd (2 ^ 36) true 5) w0) (fun t => t.hostUr = [2 ^ 36] && t.accs = []) = true ∧
    gives (exec (.hostRead 0 8) { w0 with startMin := true }) (fun t => t.hostCpl = [(0, BitVec.allOnes 1024, false)]) = true := by decide +kernel
theorem test_register_writes :
    (cAccess 0x7FF = none ∧ gives (exec (.registerWrite 0 false 0x7FF 5) w0) (fun t => t.agenda = []) = true) ∧
    ((cAccess 0x048).isSome = true ∧ actionOnly 0x048 = false) ∧
    gives (exec (.tlbinvWrite 0x30_0000_0001_0001) w0) (fun t => t.tlbBusy && t.tlbinv = 0x30_0000_0001_0001) = true ∧
    (let s : State := { (wC fun c => { c with tlb := [⟨0, 16, 0, 7⟩, ⟨0x10000, 16, 0, 7⟩, ⟨0x20000, 16, 0, 7⟩] }) with tlbinv := 0x10_0000_0001_0001, tlbBusy := true }
     gives (exec .tlbinvDone s) (fun t => !t.tlbBusy && t.cur.tlb.map (·.va) = [0, 0x20000]) = true) := by decide +kernel
/-- A command in mailbox slot 63 with SEQ 0xABC. -/
def wMail (ws : List Word) : State := { w0 with h2d := [(63, 0xABC0_0000_0001 :: 0 :: ws)] }
theorem test_mailbox :
    (w0.startStep ≠ 2 ∧ gives (exec (.load 63) (wMail [0x1000, 0x100])) (fun t => t.slotWord 63 256 = 0xABC0_0000_0001 && t.slotWord 63 257 = 5) = true) ∧
    (let s : State := { wMail [0x1000, 0x100] with startStep := 2 }
     s.startMin = false ∧ s.startStep = 2) ∧
    gives (exec (.seed 63) { wMail [] with seedOn := true, seedcnt := 6 }) (fun t => t.slotWord 63 257 = 0 && t.slotWord 63 258 = 6 && t.seedcnt = 7) = true ∧
    gives (exec (.seed 63) { wMail [] with seedOn := false }) (fun t => t.seedHost = [63]) = true ∧
    gives (exec (.abort 63) (wMail [3])) (fun t => t.slotWord 63 257 = 0x10) = true ∧
    ((wMail [1]).falls = [] ∧ gives (exec (.abort 63) { wMail [1] with ctxs := [wCtx 1] }) (fun t => t.slotWord 63 257 = 0 && t.falls.map (·.ctx) = [some 1]) = true) := by decide +kernel
/-- The second failure in a row leaves FAILS at 2, the third enters minimal mode. -/
theorem test_start_up :
    let s : State := { w0 with fused := 9, startFails := 1, startWhy := 3 }
    gives (exec .startGo s) (fun t => t.startStep = 1 && t.startFails = 1 && t.fused = 9 && t.cyc = 0 && t.startWhy = 3) = true ∧
    gives (exec .startGo { s with startMin := true }) (fun t => t.cyc = 1000) = true ∧
    gives (exec .startClr { s with startMin := true }) (fun t => !t.startMin && t.startFails = 0) = true ∧
    gives (exec .fundamentalReset { s with mem := [(5, 6)] }) (fun t => t.startStep = 1 && t.startFails = 1 && t.mem = [(5, 6)]) = true ∧
    gives (exec .fundamentalReset { s with startMin := true, startFails := 3 }) (fun t => t.startStep = 1 && !t.startMin && t.startFails = 3) = true ∧
    (let z : State := { s with startUp := false, startStep := 6, mem := [(5, 6), (2 ^ 41 + 5, 7)] }
     z.startMin = false ∧ (z.startOn true).startStep = 7 ∧ (z.startOn true).mem = [(2 ^ 41 + 5, 7)]) ∧
    gives (exec .powerOn s) (fun t => t.startFails = 0 && t.startStep = 1 && t.fused = 9) = true ∧
    gives (exec .powerLoss s) (fun t => !t.power && t.fused = 9) = true ∧
    gives (exec .startTimeout s) (fun t => t.startWhy = 9 && t.startFails = 2 && !t.startMin) = true ∧
    gives (exec .startTimeout { s with startFails := 2 }) (fun t => t.startFails = 3 && t.startMin) = true ∧
    gives (exec .entropyHealthFail s) (fun t => !t.seedOn) = true ∧
    gives (exec .entropyPass { s with seedOn := false, seedHost := [3] }) (fun t => t.seedOn && t.seedHost = []) = true := by decide +kernel

/-! ### States that meet the clauses beside the main case -/

/-- What a landing meets: a buffer of another core, and a row of an earlier stream's ring; a peer stream's fill; the transposer. -/
theorem test_meets_ring_landings :
    (let s : State := { wQ 3 21 22 90 [] false with accs := [{ wAcc 5 (.unit 0 0 0) (.read 128) 0x10000 30 true with result := 77 }] }
     let f := s.modCluster 0 fun c => { c with bufs := wr c.bufs 0 (.transit 2) }
     s.landCause 0 0 (((s.core 0).unit 0).ringRow 30) = none ∧ f.landCause 0 0 (((f.core 0).unit 0).ringRow 30) = some 0x21 ∧
       gives (exec (.ringLanding 5) f) (fun t => t.accs = [] && (t.core 0).sp = [] && ((t.core 0).unit 0).lost.map (·.1) = [30]) = true) ∧
    (let s := (wQ 2 21 22 90 [(22, false, 900)] false).modCluster 0 fun c => { c with bufs := wr c.bufs 64 (.published 1) }
     let u := (s.core 0).unit 0
     u.kind = 2 ∧ s.peerReads 0 u.home (u.addr 22 / 128) = true ∧ u.toStage (s.core 0).prim.inst = [22] ∧
       gives (exec (.ringStageFill 0 0) s) (fun t => ((t.core 0).unit 0).stage.map (fun x => x.pos) = [22]) = true) ∧
    (let s := wQ 0 0 0 0 [] true
     (List.range 8).find? (fun n => ((s.core 0).unit n).tposNow (s.core 0).prim.inst) = some 0 ∧
       gives (exec (.transposerRead 0) s) (fun t => ((t.core 0).unit 0).group.map (fun g => (g.1, g.2.length)) = some (0, 64)) = true) := by decide +kernel
/-- TQ.FLUSH of an endpoint that is not bound, and of the second of a pair. -/
theorem test_meets_flush_faults :
    (w0.goes (.tqfl 0 3) ∧ (w0.cur.tqAt 3).bound = false) ∧
    (let s := wC fun c => { c with tq := wr c.tq 3 { Endpoint.reset with bound := true, bind := BitVec.ofNat 64 (2 ^ 31 + 2 * 2 ^ 27) } }
     s.goes (.tqfl 0 3) ∧ bwPair (s.cur.tqAt 3).bind = true ∧ bwTq (s.cur.tqAt 3).bind ≠ 3 ∧ gives (exec (.tqfl 0 3) s) (fun t => t.me.trap.cause = 0x73) = true) := by
  simp only [State.goes]; decide +kernel
/-- CONTINUE of a companion that waits for a record, and of a primary in the slack window; ABORT cancels the job's counter. -/
theorem test_meets_answers :
    (let s := w0.modCore 0 fun c => { c with comp := { (wK 7).me with back := .waiti } }
     gives (exec (.trapactContinue 0 true) s) (fun t => (t.strm 0 true).run = .waiti && (t.strm 0 true).pc = 0x2000) = true) ∧
    gives (exec (.trapactContinue 0 false) ((wK 7).modCur fun c => { c with place := .window })) (fun t => t.me.run = .slack) = true ∧
    gives (exec (.trapactAbort 0 false) { wK 7 with hcounts := [wHc 4 0] }) (fun t => t.hcounts.map (·.canc) = [true]) = true := by decide +kernel
/-- A resumption across the bridge that is not heard 4 cycles before it. -/
theorem test_meets_late_resumption :
    let s := wZ (wFz .tqRead 30 false (some 900) (some 988))
    (∃ f ∈ s.cur.freezes, f.heard = false ∧ ∃ e, f.clr = some e ∧ e + s.horizon 0 ≤ s.cyc.toNat + 4) ∧
      gives (exec (.freezeMessageLate 0) s) (fun t => t.me.run = .trapped && t.me.trap.cause = 0x7F) = true ∧
      gives (exec (.freezeMessageLate 0) (wZ (wFz .tqRead 30 false (some 900) (some 989)))) (fun t => t.me.run = .running) = true ∧
      gives (exec (.freezeMessage 0 true 30) s) (fun t => t.cur.freezes.map (·.heard) = [true]) = true := by decide +kernel
/-- Point 4 is entered at 1000 and left, by a synchronised change and by a running one. -/
theorem test_slow_point :
    gives (exec .opSwitch (wHealth fun h => { h with busy := true, goTgt := 4, goAt := 1000 })) (fun t => t.health.slowAt = some 1000 && t.errhead = 0) = true ∧
    gives (exec .opSwitch (wHealth fun h => { h with busy := true, goTgt := 3, goAt := 1000, slowAt := some 400 })) (fun t => t.health.slowAt = none && t.errhead = 1) = true ∧
    gives (exec .runningRampStep (wHealth fun h => { h with busy := true, goMode := true, goTgt := 1, ramp := 516000, slowAt := some 400 })) (fun t => t.health.slowAt = none && t.errhead = 1) = true := by
  decide +kernel
theorem test_power_of_heat : w0.health.thot.toNat ≤ 100 ∧ 100 < w0.health.tcrit.toNat ∧ gives (exec (.powerLoop 0 100) w0) (fun t => t.cur.weirLim = 0x2850) = true := by decide +kernel
/-- Core 0 is saved while an NMFN that is registered waits: x1, at offset 0x1008 of the record, and the row at 0x80. -/
theorem test_meets_save :
    let s : State := { (wPre.modCur fun c => { c with sp := Memory.putN [] 0x80 1 5 1, barbase := 0x200_0000, uiRing := 0x201_0000 }) with
      nmWaits := [{ core := 0, comp := false, ticket := 3, id := 8, xd := none, reg := true, pc := 0x1000 }] }
    let bb := (s.core 0).barbase.toNat / 2 ^ 10 % 2 ^ 42 * 2 ^ 10
    let ur := (s.core 0).uiRing.toNat / 2 ^ 12 % 2 ^ 40 * 2 ^ 12 + 2048
    s.savable 0 = true ∧ (s.savingOf 0).map (·.recb) = some 0x800_0000 ∧ s.memOk ∧ Memory.wf (s.core 0).sp = true ∧ bb + 1024 ≤ 0x800_0000 ∧ ur + 8 ≤ 0x800_0000 := by
  simp only [State.memOk]; decide +kernel
/-- The record's words at their offsets: the program counter, x1, and a byte of the scratchpad. -/
theorem test_record_offsets :
    let s := wPre.modCur fun c => { c with sp := Memory.putN [] 0x80 1 5 1 }
    Memory.getN (s.recordImage 0) 32 8 = 0x1000 ∧ Memory.getN (s.recordImage 0) 0x1008 8 = 7 ∧ Memory.get (s.recordImage 0) 0x8_0080 = 5 := by decide +kernel
/-- A held boundary still latches; a bank's load drops what core 0 fetched from the code that its entry names. -/
theorem test_meets_boundary :
    let h := 1 + 2 ^ 8 + 3 * 2 ^ 32 + 4 * 2 ^ 41 + 1000 * 2 ^ 64 + 2 ^ 88
    (let s := wLatch h
     let q : State := { s with bound := s.bound.map fun b => { b with hold := 0x60 } }
     gives (exec .phaseLatch q) (fun t => t.latched = some wDesc && t.bound.map (·.hold) = some 0x60) = true) ∧
    (let e := 2 + 2 * 2 ^ 24 + 64 * 2 ^ 32 + 0x2_0000 * 2 ^ 64 + 0x3_0000 * 2 ^ 128 + 2 ^ 180
     let s : State := wMap { (wS fun t => { t with ibuf := [(0x1_0020, 1), (0x8_0000, 2)] }) with bankA := { PBank.reset with st := .loading, load := some (0x1_0040, 1, 0x40_0001) } }
     let q : State := { s with mem := Memory.putN (Memory.putN s.mem 0x1_0040 64 e (2 ^ 64 - 1)) 0x3_0000 16 (0x1_0000 + 7 * 2 ^ 56 + 0x2_0000 * 2 ^ 64) (2 ^ 16 - 1) }
     (q.vread 0x40_0001 2 0x1_0040 64).map (·.2) = some false ∧
       gives (exec (.phldLoadDone false) q) (fun t => t.bankCode 0x40_0001 t.bankA = [(0x1_0000, 0x2_0000)] && t.me.ibuf.map (·.1) = [0x8_0000]) = true) := by decide +kernel
/-- A mark on a clean block and a page-aligned area: byte 3 of the block goes to byte 3 of the area. -/
theorem test_meets_mark_copies :
    let m : Mark := { wMark with dst := 0x20_0000 }
    m.dst % 65536 = 0 ∧ m.bad = [] ∧ (m.copies.headD (0, .read 0)).1 = 0x20_0000 := by decide +kernel
/-- A JSNAP with no phase to come sets its marks at once. -/
theorem test_meets_snapshot_marks :
    let card : Row := BitVec.ofNat 1024 (6 + 2 ^ 24 + 2 ^ 28 + (0x10_0000 + 0x2_0000 * 2 ^ 64) * 2 ^ 256 + (0x20_0000 + 0x2_0000 * 2 ^ 64) * 2 ^ 640)
    let s : State := wJ (wMap w0) (wJob card .waiting false [])
    s.jobStarts 0 (wJob card .waiting false []) = true ∧ s.phaseToCome = false ∧ s.marks = [] ∧
      State.phaseToCome { s with bound := some wBound } = true ∧
      gives (exec (.jsnap 0 7) s) (fun t => (t.findJob 0 7).map (·.phase) = some .marked && t.marks.map (fun m => (m.block, m.dst)) = [(0x10, 0x20_0000), (0x11, 0x21_0000)]) = true := by decide +kernel
/-- With the least delay 64, L of 967 comes one cycle too late for the earliest start, and L of 968 in time. -/
theorem test_meets_late_start :
    (let s := wH { wBound with lAt := none }
     let q : State := { s with latched := some wDesc }
     gives (exec (.sluiceStart (wMsg 0x41 0 [967])) q) (fun t => t.bound.map (fun b => (b.lAt, b.went)) = some (some 967, some 968)) = true ∧
     gives (exec (.sluiceStart (wMsg 0x41 0 [968])) q) (fun t => t.bound.map (fun b => (b.lAt, b.went)) = some (some 968, none)) = true) := by decide +kernel
/-- Register numbers from 0x800 on: LC is not banked, HCSEL is; and a write of UVCTL. -/
theorem test_meets_register_numbers :
    bankedReg 0x020 = false ∧ bankedReg 0x140 = true ∧ gives (exec (.registerWrite 0 false 0x820 5) w0) (fun t => t.cur.loop.lc = 0) = true ∧
    gives (exec (.registerWrite 0 false 0x940 5) w0) (fun t => (t.strm 0 true).hcsel = 5 && (t.strm 0 false).hcsel = 0) = true ∧
    gives (exec (.registerWrite 0 false 0x224 0) (wHealth fun h => { h with uvHold := Vector.replicate 2 true })) (fun t => !rd t.health.uvHold 1 true) = true := by decide +kernel

/-! ### Steps -/

/-- ADD x2, x1, x3 (S0) alone in its bundle at 0x1000, fetched ahead. -/
def wStep : State :=
  let b := encodeBundle (.addS 0 2 1 3)
  { (wS fun t => { t with ibuf := [(0x1000, b)] }) with turn := [(0, false)] }
theorem test_step_runs_bundle :
    let q := State.focusOn { wStep with turn := [] } 0 false
    wStep.agenda = [] ∧ wStep.power = true ∧ wStep.standing 0 false = true ∧ (wStep.bundleNow 0 false).toOption = some (encodeBundle (.addS 0 2 1 3), none) ∧
      (decodeSlot ((Instr.addS 0 2 1 3).slot.getD 8) (slotWord (encodeBundle (.addS 0 2 1 3)) ((Instr.addS 0 2 1 3).slot.getD 8))).toOption = some (.addS 0 2 1 3) ∧
      q.slotWaits (.addS 0 2 1 3) = false ∧ q.bundleFaults (encodeBundle (.addS 0 2 1 3)) = [] ∧
      gives (step wStep) (fun t => t.me.pc = 0x1020 && t.sent = some (1, .x false 2 0x247)) = true := by decide +kernel
theorem test_step_runs_event : gives (step { w0 with agenda := [.refreshDebtRepaid, .startClr] }) (fun t => t.agenda = [.startClr]) = true := by decide +kernel
theorem test_step_without_power : ∃ t, step { State.reset with power := false } = .next t ∧ t.power = false := ⟨_, rfl, rfl⟩
/-- The first step after reset with a bundle of eight NOPs placed. -/
theorem test_fetch_word : gives (step (State.reset.withFetchWord 32 0)) (fun t => t.me.pc = 0x20) = true := by decide +kernel
theorem test_reset_form : Memory.wf State.reset.mem = true ∧ (∀ k : CoreId, Memory.wf (State.reset.core k).sp = true) ∧ State.reset.ctxs = [] := by decide +kernel

end Sys2Proof.Machine
end
end

/-!
Encoding undoes decoding (O3): a slot word is the sum of its fields, so a form that takes every field of the word, and asks for
zero in the rest, spells the word again.
-/
namespace Sys2Proof

/-! ### The fields of a word -/

theorem toNat_fld (lo n : Nat) (w : Word32) : (fld lo n w).toNat = w.toNat / 2 ^ lo % 2 ^ n := by
  simp only [fld, BitVec.toNat_ofNat]
@[simp] theorem toNat_bit (lo : Nat) (w : Word32) : (bit lo w).toNat = (fld lo 1 w).toNat := by
  simp only [bit, toNat_fld]
  rcases Nat.mod_two_eq_zero_or_one (w.toNat / 2 ^ lo) with h | h <;> simp [h]
theorem fld_eq_zero_iff (lo n : Nat) (w : Word32) : fld lo n w = 0 ↔ w.toNat / 2 ^ lo % 2 ^ n = 0 := by
  rw [← BitVec.toNat_inj, toNat_fld]
  exact Iff.rfl

/-- A number is its high field above its low bits. -/
theorem mod_eq_field_add (x lo n : Nat) : x % 2 ^ (lo + n) = x / 2 ^ lo % 2 ^ n * 2 ^ lo + x % 2 ^ lo := by
  rw [Nat.pow_add, Nat.mod_mul, Nat.mul_comm, Nat.add_comm]
theorem toNat_eq_fields (w : Word32) (lo n : Nat) (h : lo + n = 28) :
    w.toNat = w.toNat / 2 ^ 28 % 2 ^ 4 * 2 ^ 28 + (w.toNat / 2 ^ lo % 2 ^ n * 2 ^ lo + w.toNat % 2 ^ lo) := by
  rw [← mod_eq_field_add, h, ← mod_eq_field_add w.toNat 28 4, Nat.mod_eq_of_lt w.isLt]

/-- With zeros in zs, the fields fs are the bits of the word below bit hi. -/
def Spells (w : Word32) (hi : Nat) (fs zs : List (Nat × Nat)) : Prop :=
  (∀ z ∈ zs, fld z.1 z.2 w = 0) → place fs = w.toNat % 2 ^ hi

@[simp] theorem spells_nil (w : Word32) (zs : List (Nat × Nat)) : Spells w 0 [] zs := fun _ => by simp [place, Nat.mod_one]
/-- The topmost field is taken off. -/
theorem spells_const {w : Word32} {lo n v hi : Nat} {fs zs : List (Nat × Nat)} (hv : (fld lo n w).toNat = v) (h : lo + n = hi) :
    Spells w hi ((v, lo) :: fs) zs ↔ Spells w lo fs zs := by
  subst hv h
  simp only [Spells, place, mod_eq_field_add, toNat_fld, Nat.add_left_cancel_iff]
@[simp] theorem spells_field {w : Word32} {lo n hi : Nat} {fs zs : List (Nat × Nat)} (h : lo + n = hi) :
    Spells w hi (((fld lo n w).toNat, lo) :: fs) zs ↔ Spells w lo fs zs := spells_const rfl h
/-- Topmost zeros are taken off. -/
theorem spells_gap {w : Word32} {lo n hi : Nat} {fs zs : List (Nat × Nat)} (hz : fld lo n w = 0) (h : lo + n = hi) :
    Spells w hi fs zs ↔ Spells w lo fs zs := by
  subst h
  rw [fld_eq_zero_iff] at hz
  simp only [Spells, mod_eq_field_add, hz, Nat.zero_mul, Nat.zero_add]
theorem spells_zeros {w : Word32} {lo n hi : Nat} {fs zs : List (Nat × Nat)} (hm : (lo, n) ∈ zs) (h : lo + n = hi) :
    Spells w hi fs zs ↔ Spells w lo fs zs :=
  ⟨fun hs hz => (spells_gap (zs := zs) (hz _ hm) h).mp hs hz, fun hs hz => (spells_gap (zs := zs) (hz _ hm) h).mpr hs hz⟩
@[simp] theorem spells_first {w : Word32} {lo n hi : Nat} {fs zs : List (Nat × Nat)} (h : lo + n = hi) :
    Spells w hi fs ((lo, n) :: zs) ↔ Spells w lo fs ((lo, n) :: zs) := spells_zeros (by simp) h
@[simp] theorem spells_second {w : Word32} {z : Nat × Nat} {lo n hi : Nat} {fs zs : List (Nat × Nat)} (h : lo + n = hi) :
    Spells w hi fs (z :: (lo, n) :: zs) ↔ Spells w lo fs (z :: (lo, n) :: zs) := spells_zeros (by simp) h

/-- The header of a C slot with the form's fields below it is the word (R72). -/
theorem wordC_eq {w : Word32} {op : Nat} {fs zs : List (Nat × Nat)} (hop : (fld 18 6 w).toNat = op) (hfs : Spells w 18 fs zs)
    (hz : ∀ z ∈ zs, fld z.1 z.2 w = 0) : wordC ⟨fld 28 4 w, fld 24 4 w⟩ op fs = w.toNat := by
  have h24 := mod_eq_field_add w.toNat 18 6
  rw [toNat_eq_fields w 24 4 rfl, h24, ← hfs hz, ← hop]
  simp only [wordC, place, toNat_fld]
/-- The guard and the code of an S, X, L or Q slot with the form's fields below them are the word (R74, R79, R81, R82). -/
theorem wordG_eq {w : Word32} {lo n op : Nat} {fs zs : List (Nat × Nat)} (h : lo + n = 28) (hop : (fld lo n w).toNat = op)
    (hfs : Spells w lo fs zs) (hz : ∀ z ∈ zs, fld z.1 z.2 w = 0) : wordG (fld 28 4 w) lo op fs = w.toNat := by
  rw [toNat_eq_fields w lo n h, ← hfs hz, ← hop]
  simp only [wordG, place, toNat_fld]

/-! ### Codes -/

@[simp] theorem code_vType (c : BitVec 3) : (VType.ofCode c).code = c.toNat := by revert c; decide
@[simp] theorem code_fFmt (c : BitVec 2) : (FFmt.ofCode c).code = c.toNat := by revert c; decide
@[simp] theorem code_rm (c : BitVec 2) : (Rm.ofCode c).code = c.toNat := by revert c; decide
@[simp] theorem code_fCond (c : BitVec 2) : (FCond.ofCode c).code = c.toNat := by revert c; decide
@[simp] theorem code_xFmt (c : BitVec 3) : (XFmt.ofCode c).code = c.toNat := by revert c; decide

/-- A code that is accepted is the code of what it stands for, when a check of every code says so. -/
theorem code_of_ok {n : Nat} {α : Type} {ofCode : BitVec n → Except Reject α} {code : α → Nat}
    (hall : ∀ c, (ofCode c).toOption.all (fun x => code x == c.toNat) = true) {c : BitVec n} {x : α} (h : ofCode c = .ok x) :
    code x = c.toNat := by
  have hc := hall c
  rw [h] at hc
  exact eq_of_beq hc
theorem code_vWidth {c : BitVec 2} {x : VWidth} : VWidth.ofCode c = .ok x → x.code = c.toNat := code_of_ok (by decide)
theorem code_vRm {c : BitVec 3} {x : VRm} : VRm.ofCode c = .ok x → x.code = c.toNat := code_of_ok (by decide)
theorem code_cvtTy {c : BitVec 3} {x : CvtTy} : CvtTy.ofCode c = .ok x → x.code = c.toNat := code_of_ok (by decide)
theorem code_scanOp {c : BitVec 6} {x : ScanOp} : ScanOp.ofCode c = .ok x → x.code = c.toNat := code_of_ok (by decide)
theorem code_mSrc {c : BitVec 5} {x : MSrc} : MSrc.ofCode c = .ok x → x.code = c.toNat := code_of_ok (by decide)
theorem code_xDrain {c : BitVec 2} {x : XDrain} : XDrain.ofCode c = .ok x → x.code = c.toNat := code_of_ok (by decide)
theorem code_fScope {c : BitVec 3} {x : FScope} : FScope.ofCode c = .ok x → x.code = c.toNat := code_of_ok (by decide)

/-- The header of a V slot with the form's fields below it is the word (R76). -/
theorem wordV_eq {w : Word32} {op : Nat} {wd : VWidth} {fs zs : List (Nat × Nat)} (hwd : VWidth.ofCode (fld 21 2 w) = .ok wd)
    (hop : (fld 23 5 w).toNat = op) (hfs : Spells w 18 fs zs) (hz : ∀ z ∈ zs, fld z.1 z.2 w = 0) :
    wordV ⟨fld 28 4 w, wd, VType.ofCode (fld 18 3 w)⟩ op fs = w.toNat := by
  have h18 := mod_eq_field_add w.toNat 18 3
  have h21 := mod_eq_field_add w.toNat 21 2
  rw [toNat_eq_fields w 23 5 rfl, h21, h18, ← hfs hz, ← hop]
  simp only [wordV, place, code_vType, code_vWidth hwd, toNat_fld]

/-! ### What decoding answers -/

/-- If an answer of slot k's decoder is an instruction, that is well formed, stands in the slot, and is spelt by the word. -/
def Reencodes (k : Nat) (w : Word32) (r : Except Reject Instr) : Prop :=
  ∀ i, r = .ok i → encode i = w ∧ i.wf = true ∧ (i = .nop ∨ i.slot = some k)

theorem reencodes_error (k : Nat) (w : Word32) (e : Reject) : Reencodes k w (.error e) := fun _ h => by cases h
theorem reencodes_bind {α : Type} {k : Nat} {w : Word32} (x : Except Reject α) (f : α → Except Reject Instr)
    (h : ∀ a, x = .ok a → Reencodes k w (f a)) : Reencodes k w (x >>= f) := by
  cases x with
  | error e => exact reencodes_error k w e
  | ok a => exact h a rfl
theorem finish_eq_ok {zs : List (Nat × Nat)} {w : Word32} {i j : Instr} (h : finish zs w i = .ok j) :
    (∀ z ∈ zs, fld z.1 z.2 w = 0) ∧ i.wf = true ∧ j = i := by
  unfold finish at h
  split at h
  case isFalse => cases h
  case isTrue hz =>
    split at h
    case isFalse => cases h
    case isTrue hw =>
      cases h
      exact ⟨by simpa using hz, hw, rfl⟩
/-- A form re-encodes when its fields spell the word, given the zeros that it asks for. -/
theorem reencodes_finish {k : Nat} {zs : List (Nat × Nat)} {w : Word32} {i : Instr} (hs : i.slot = some k)
    (he : (∀ z ∈ zs, fld z.1 z.2 w = 0) → encodeNat i = w.toNat) : Reencodes k w (finish zs w i) := by
  intro j h
  obtain ⟨hz, hw, rfl⟩ := finish_eq_ok h
  exact ⟨by rw [encode, he hz, BitVec.ofNat_toNat, BitVec.setWidth_eq], hw, .inr hs⟩
theorem reencodes_nop (k : Nat) (w : Word32) (e : Reject) : Reencodes k w (if w = 0 then .ok .nop else .error e) := by
  split
  case isTrue hw =>
    subst hw
    rintro i ⟨⟩
    exact ⟨rfl, rfl, .inl rfl⟩
  case isFalse => exact reencodes_error k w e

/-! ### The decoders of the slots (R72 to R82) -/

/-- The NOP code of the C slot is NOP, or a hold count and nothing else (R63). -/
theorem reencodes_hold (w : Word32) (hop : (fld 18 6 w).toNat = 0) :
    Reencodes 0 w (if w = 0 then .ok .nop else do let _ ← finish [(0, 18), (28, 4)] w .nop; .ok (.hold (fld 24 4 w))) := by
  split
  case isTrue hw => simpa [hw] using reencodes_nop 0 w .nopBits
  case isFalse hw =>
    refine reencodes_bind _ _ fun j hj => ?_
    rintro i ⟨⟩
    obtain ⟨hz, -, -⟩ := finish_eq_ok hj
    simp only [List.forall_mem_cons, fld_eq_zero_iff] at hz
    have hnat : encodeNat (.hold (fld 24 4 w)) = w.toNat := by
      simp only [encodeNat, toNat_fld] at hop ⊢
      omega
    have hhold : fld 24 4 w ≠ 0 := by
      intro h
      rw [encodeNat, h] at hnat
      exact hw (BitVec.eq_of_toNat_eq hnat.symm)
    exact ⟨by rw [encode, hnat, BitVec.ofNat_toNat, BitVec.setWidth_eq], by simpa [Instr.wf] using hhold, .inr rfl⟩
theorem reencodes_decodeC (w : Word32) : Reencodes 0 w (decodeC w) := by
  unfold decodeC
  dsimp only
  split
  case h_1 hop => exact reencodes_hold w hop
  case h_46 => exact reencodes_error 0 w _
  all_goals next hop => exact reencodes_finish rfl (wordC_eq hop (by simp))
theorem reencodes_decodeS (w : Word32) : Reencodes 1 w (decodeS w) := by
  unfold decodeS
  dsimp only
  split
  case h_1 => exact reencodes_nop 1 w _
  case h_41 => exact reencodes_error 1 w _
  case h_38 hop =>
    exact reencodes_bind _ _ fun fr hfr => reencodes_bind _ _ fun ty hty =>
      reencodes_finish rfl (wordG_eq rfl hop (by simp [code_cvtTy hfr, code_cvtTy hty]))
  all_goals next hop => exact reencodes_finish rfl (wordG_eq rfl hop (by simp))
theorem reencodes_decodeV0 (w : Word32) : Reencodes 2 w (decodeV0 w) := by
  unfold decodeV0
  refine reencodes_bind _ _ fun wd hwd => ?_
  dsimp only
  split
  case h_1 => exact reencodes_nop 2 w _
  case h_32 => exact reencodes_error 2 w _
  case h_24 hop =>
    exact reencodes_bind _ _ fun rm hrm => reencodes_finish rfl (wordV_eq hwd hop (by simp [code_vRm hrm]))
  all_goals next hop => exact reencodes_finish rfl (wordV_eq hwd hop (by simp))
theorem reencodes_decodeV1 (w : Word32) : Reencodes 3 w (decodeV1 w) := by
  unfold decodeV1
  refine reencodes_bind _ _ fun wd hwd => ?_
  dsimp only
  split
  case h_1 => exact reencodes_nop 3 w _
  case h_29 => exact reencodes_error 3 w _
  case h_21 hop =>
    exact reencodes_bind _ _ fun op hsc => reencodes_finish rfl (wordV_eq hwd hop (by simp [code_scanOp hsc]))
  case h_25 hop =>
    exact reencodes_bind _ _ fun rm hrm => reencodes_finish rfl (wordV_eq hwd hop (by simp [code_vRm hrm]))
  all_goals next hop => exact reencodes_finish rfl (wordV_eq hwd hop (by simp))
theorem reencodes_decodeV2 (w : Word32) : Reencodes 4 w (decodeV2 w) := by
  unfold decodeV2
  refine reencodes_bind _ _ fun wd hwd => ?_
  dsimp only
  split
  case h_1 => exact reencodes_nop 4 w _
  case h_26 => exact reencodes_error 4 w _
  case h_9 hop =>
    exact reencodes_bind _ _ fun rm hrm => reencodes_finish rfl (wordV_eq hwd hop (by simp [code_vRm hrm]))
  all_goals next hop => exact reencodes_finish rfl (wordV_eq hwd hop (by simp))
theorem reencodes_decodeX (w : Word32) : Reencodes 5 w (decodeX w) := by
  unfold decodeX
  dsimp only
  split
  case h_1 => exact reencodes_nop 5 w _
  case h_6 => exact reencodes_error 5 w _
  case h_2 hop | h_3 hop =>
    exact reencodes_bind _ _ fun a ha => reencodes_bind _ _ fun b hb => reencodes_bind _ _ fun dr hdr =>
      reencodes_finish rfl (wordG_eq rfl hop (by simp [code_mSrc ha, code_mSrc hb, code_xDrain hdr]))
  case h_4 hop | h_5 hop =>
    exact reencodes_bind _ _ fun dr hdr => reencodes_finish rfl (wordG_eq rfl hop (by simp [code_xDrain hdr]))
theorem reencodes_decodeL (w : Word32) : Reencodes 6 w (decodeL w) := by
  unfold decodeL
  dsimp only
  split
  case h_1 => exact reencodes_nop 6 w _
  case h_15 => exact reencodes_error 6 w _
  case h_10 hop =>
    split
    case h_12 => exact reencodes_error 6 w _
    case h_1 hin =>
      exact reencodes_finish rfl (wordG_eq rfl hop (by simp [spells_gap (BitVec.eq_of_toNat_eq hin)]))
    all_goals next hin =>
      exact reencodes_finish rfl (wordG_eq rfl hop (by simp [spells_const hin]))
  case h_11 hop =>
    split
    case h_6 => exact reencodes_error 6 w _
    case h_1 hin =>
      exact reencodes_finish rfl (wordG_eq rfl hop (by simp [spells_gap (BitVec.eq_of_toNat_eq hin)]))
    all_goals next hin =>
      exact reencodes_finish rfl (wordG_eq rfl hop (by simp [spells_const hin]))
  case h_12 hop =>
    split
    case h_4 => exact reencodes_error 6 w _
    case h_1 hin =>
      exact reencodes_bind _ _ fun sc hsc =>
        reencodes_finish rfl (wordG_eq rfl hop (by simp [code_fScope hsc, spells_gap (BitVec.eq_of_toNat_eq hin)]))
    all_goals next hin =>
      exact reencodes_bind _ _ fun sc hsc =>
        reencodes_finish rfl (wordG_eq rfl hop (by simp [code_fScope hsc, spells_const hin]))
  all_goals next hop => exact reencodes_finish rfl (wordG_eq rfl hop (by simp))
theorem reencodes_decodeQ (w : Word32) : Reencodes 7 w (decodeQ w) := by
  unfold decodeQ
  dsimp only
  split
  case h_1 => exact reencodes_nop 7 w _
  case h_29 => exact reencodes_error 7 w _
  case h_9 hop =>
    split
    case h_4 => exact reencodes_error 7 w _
    case h_1 hin =>
      exact reencodes_finish rfl (wordG_eq rfl hop (by simp [spells_gap (BitVec.eq_of_toNat_eq hin)]))
    all_goals next hin =>
      exact reencodes_finish rfl (wordG_eq rfl hop (by simp [spells_const hin]))
  case h_12 hop =>
    split
    case h_1 hin => exact reencodes_finish rfl (wordG_eq rfl hop (by simp [spells_gap (BitVec.eq_of_toNat_eq hin)]))
    case h_2 hin =>
      have hadd : (fld 8 1 w).toNat = 1 := by
        have := (fld 8 1 w).isLt
        have : (fld 8 1 w).toNat ≠ 0 := hin
        omega
      exact reencodes_finish rfl (wordG_eq rfl hop (by simp [spells_const hadd]))
  case h_26 hop =>
    split
    case h_5 => exact reencodes_error 7 w _
    all_goals next hin => exact reencodes_finish rfl (wordG_eq rfl hop (by simp [spells_const hin]))
  all_goals next hop => exact reencodes_finish rfl (wordG_eq rfl hop (by simp))

/-- Settles O3: in every slot the fields that a form takes, with the zeros that it asks for, spell the word (R57, R83). -/
theorem decodeThenEncode : Obligations.DecodeThenEncode := by
  intro k w i hk h
  have hslot : Reencodes k w (decodeSlot k w) := by
    match k, hk with
    | 0, _ => exact reencodes_decodeC w
    | 1, _ => exact reencodes_decodeS w
    | 2, _ => exact reencodes_decodeV0 w
    | 3, _ => exact reencodes_decodeV1 w
    | 4, _ => exact reencodes_decodeV2 w
    | 5, _ => exact reencodes_decodeX w
    | 6, _ => exact reencodes_decodeL w
    | 7, _ => exact reencodes_decodeQ w
  exact hslot i h

end Sys2Proof

/-!
What the issue of a slot leaves alone (R6, R65, R184, R220): one lemma for each operation that the meanings of the slots are
built from, then each slot's effect as a composition of them.
-/
namespace Sys2Proof.Machine

/-! ### The frame of an issue -/

/-- Only the package's bookkeeping outside its cores and its memory differs, such as accesses, agenda, ports and counters. -/
structure Untouched (s t : State) : Prop where
  focus  : t.focus = s.focus
  cores  : t.cores = s.cores
  mem    : t.mem = s.mem
  poison : t.poison = s.poison

theorem Untouched.refl (s : State) : Untouched s s := ⟨rfl, rfl, rfl, rfl⟩
theorem Untouched.trans {s t u : State} (h : Untouched s t) (g : Untouched t u) : Untouched s u :=
  ⟨g.focus.trans h.focus, g.cores.trans h.cores, g.mem.trans h.mem, g.poison.trans h.poison⟩

/-- What the issue of a slot of the stream in focus leaves alone: every register file, memory, and the other cores, but for the
cycle at which they stop with their group (R43). -/
structure IssueFrame (s t : State) : Prop where
  focus  : t.focus = s.focus
  regs   : SameRegisters s t
  mem    : SameMemory s t
  others : ∀ k : CoreId, k ≠ s.focus.1 → ∃ a b, t.core k = { s.core k with stopAt := a, faultCy := b }

theorem IssueFrame.refl (s : State) : IssueFrame s s :=
  ⟨rfl, SameRegisters.rfl' s, SameMemory.rfl' s, fun _ _ => ⟨_, _, rfl⟩⟩
theorem IssueFrame.trans {s t u : State} (h : IssueFrame s t) (g : IssueFrame t u) : IssueFrame s u := by
  refine ⟨g.focus.trans h.focus, h.regs.trans g.regs, h.mem.trans g.mem, fun k hk => ?_⟩
  obtain ⟨a, b, hst⟩ := h.others k hk
  obtain ⟨c, d, htu⟩ := g.others k (h.focus ▸ hk)
  exact ⟨c, d, by rw [htu, hst]⟩
theorem Untouched.frame {s t : State} (h : Untouched s t) : IssueFrame s t :=
  ⟨h.focus, sameRegisters_of_cores h.cores, sameMemory_of h.cores h.mem h.poison,
    fun _ _ => ⟨_, _, by simp only [State.core, h.cores]; rfl⟩⟩
theorem issueFrame_ite {s t u : State} (c : Prop) [Decidable c] (ht : IssueFrame s t) (hu : IssueFrame s u) :
    IssueFrame s (if c then t else u) := by
  split
  · exact ht
  · exact hu
theorem issueFrame_foldl {α : Type} (g : State → α → State) (hg : ∀ s a, IssueFrame s (g s a)) (xs : List α) (s : State) :
    IssueFrame s (xs.foldl g s) :=
  foldl_keeps IssueFrame IssueFrame.refl IssueFrame.trans g hg xs s

/-! ### Updates of the core and the stream in focus -/

/-- The register files of a stream. -/
def Strm.arch (t : Strm) := (t.x, t.sx, t.p, t.sp, t.v, t.o, t.j, t.m)
/-- The register files of a core's streams, and its scratchpad. -/
def Core.arch (c : Core) := (c.prim.arch, c.comp.arch, c.sp, c.spBad)

theorem sameArch_iff {a b : Strm} : SameArch a b ↔ b.arch = a.arch := by
  simp only [Strm.arch, Prod.mk.injEq]
  constructor
  all_goals
    rintro ⟨hx, hsx, hp, hsp, hv, ho, hj, hm⟩
    exact ⟨hx.symm, hsx.symm, hp.symm, hsp.symm, hv.symm, ho.symm, hj.symm, hm.symm⟩
theorem core_arch_iff {c d : Core} :
    d.arch = c.arch ↔ SameArch c.prim d.prim ∧ SameArch c.comp d.comp ∧ d.sp = c.sp ∧ d.spBad = c.spBad := by
  simp only [Core.arch, Prod.mk.injEq, sameArch_iff]

theorem issueFrame_modCore (s : State) (k : CoreId) (f : Core → Core) (hk : k = s.focus.1) (h : ∀ c, (f c).arch = c.arch) :
    IssueFrame s (s.modCore k f) := by
  refine ⟨rfl, sameRegisters_modCore s k f fun c => ?_, sameMemory_modCore s k f fun c => ?_,
    fun j hj => ⟨_, _, core_modCore_ne s k j f fun e => hj (e.symm.trans hk)⟩⟩
  · obtain ⟨hp, hc, -, -⟩ := core_arch_iff.mp (h c)
    exact ⟨hp, hc⟩
  · obtain ⟨-, -, hsp, hbad⟩ := core_arch_iff.mp (h c)
    exact ⟨hsp, hbad⟩
theorem arch_modStrm (c : Core) (b : Bool) (f : Strm → Strm) (h : ∀ t, (f t).arch = t.arch) : (c.modStrm b f).arch = c.arch := by
  cases b
  · exact congrArg (fun a => (a, c.comp.arch, c.sp, c.spBad)) (h c.prim)
  · exact congrArg (fun a => (c.prim.arch, a, c.sp, c.spBad)) (h c.comp)
theorem issueFrame_modStrm (s : State) (k : CoreId) (b : Bool) (f : Strm → Strm) (hk : k = s.focus.1)
    (h : ∀ t, (f t).arch = t.arch) : IssueFrame s (s.modStrm k b f) :=
  issueFrame_modCore s k _ hk fun c => arch_modStrm c b f h
theorem issueFrame_modCur (s : State) (f : Core → Core) (h : ∀ c, (f c).arch = c.arch) : IssueFrame s (s.modCur f) :=
  issueFrame_modCore s _ f rfl h
/-- A caller whose update is known only from its goal gives the equation as a tactic block, which is elaborated last. -/
theorem issueFrame_modMe (s : State) (f : Strm → Strm) (h : ∀ t, (f t).arch = t.arch) : IssueFrame s (s.modMe f) :=
  issueFrame_modStrm s _ _ f rfl h
theorem issueFrame_draw (s : State) : IssueFrame s s.draw := Untouched.frame ⟨rfl, rfl, rfl, rfl⟩

/-! ### Results in flight, holds and branches -/

theorem issueFrame_later (s : State) (sl n : Nat) (e : Effect) : IssueFrame s (s.later sl n e) := issueFrame_modMe s _ fun _ => rfl
theorem issueFrame_putX (s : State) (sl n : Nat) (r : XReg) (v : Word) : IssueFrame s (s.putX sl n r v) := by
  unfold State.putX
  split
  · split
    · exact .refl s
    · exact issueFrame_later s _ _ _
  · exact issueFrame_later s _ _ _
  · exact .refl s
theorem issueFrame_putP (s : State) (sl n : Nat) (r : PReg) (v : Bool) : IssueFrame s (s.putP sl n r v) := by
  unfold State.putP
  split
  · exact issueFrame_later s _ _ _
  · exact issueFrame_later s _ _ _
  · exact .refl s
theorem issueFrame_putPair (s : State) (sl n : Nat) (r : PReg) (v : Bool) : IssueFrame s (s.putPair sl n r v) :=
  (issueFrame_putP s sl n r v).trans (issueFrame_putP _ sl n _ _)
theorem issueFrame_holdFor (s : State) (n : Nat) : IssueFrame s (s.holdFor n) := issueFrame_modMe s _ fun _ => rfl
theorem issueFrame_goTo (s : State) (a : Word) (n : Nat) : IssueFrame s (s.goTo a n) := issueFrame_modMe s _ fun _ => rfl
theorem issueFrame_branch (s : State) (t : TReg) : IssueFrame s (s.branch t) := issueFrame_goTo s _ _
theorem issueFrame_prepare (s : State) (t : TReg) (a : Word) : IssueFrame s (s.prepare t a) := issueFrame_modMe s _ fun _ => rfl
theorem issueFrame_occupy (s : State) (sh : Shape) : IssueFrame s (s.occupy sh) := by
  have hc : IssueFrame s (s.charge sh.weight) := issueFrame_modCur s _ fun _ => rfl
  unfold State.occupy
  dsimp only
  split
  · exact hc
  · split
    · exact hc.trans (issueFrame_holdFor _ _)
    · split
      · exact hc.trans (issueFrame_modCur _ _ fun _ => rfl)
      · exact hc
theorem issueFrame_fixSegment (s : State) (i : Instr) : IssueFrame s (s.fixSegment i) := by
  unfold State.fixSegment
  split
  · exact issueFrame_modCur s _ fun _ => rfl
  · exact .refl s
theorem issueFrame_placed (s : State) (i : Instr) : IssueFrame s (s.placed i) :=
  (issueFrame_occupy s i.shape).trans (issueFrame_fixSegment _ i)

/-! ### Traps -/

/-- The members of a group learn when they stop, and nothing else of them changes (R43). -/
theorem issueFrame_stopGroup (s : State) (k : CoreId) (f : Nat) : IssueFrame s (s.stopGroup k f) := by
  refine ⟨?_, sameRegisters_stopGroup s k f, sameMemory_stopGroup s k f, fun j _ => ?_⟩
  · exact foldl_keeps (fun s t : State => t.focus = s.focus) (fun _ => rfl) (fun h g => g.trans h)
      (fun s' j => s'.modCore j fun c => c.told (f + s.horizon k) f) (fun _ _ => rfl) _ s
  · rw [core_stopGroup]
    split
    · exact ⟨_, _, rfl⟩
    · exact ⟨_, _, rfl⟩
theorem issueFrame_takeTrap (s : State) (k : CoreId) (b : Bool) (cls cause slot : Nat) (pc npc : BitVec 52) (info : Word)
    (hk : k = s.focus.1) : IssueFrame s (s.takeTrap k b cls cause slot pc npc info) := by
  have hfirst : IssueFrame s ((s.modStrm k b fun t => t.take cls cause slot pc npc info s.cyc).firmware 0 k.val b 0 0) :=
    (issueFrame_modStrm s k b _ hk fun t => sameArch_iff.mp (sameArch_take t cls cause slot pc npc info s.cyc)).trans
      (Untouched.frame ⟨rfl, rfl, rfl, rfl⟩)
  rcases takeTrap_cases s k b cls cause slot pc npc info with h | h | h | h <;> rw [h]
  · exact .refl s
  · exact issueFrame_modStrm s k b _ hk fun t => sameArch_iff.mp (sameArch_retake t cause slot info)
  · exact hfirst
  · exact hfirst.trans (issueFrame_stopGroup _ k _)
theorem issueFrame_issueTrap (s : State) (cause slot : Nat) (info : Word) : IssueFrame s (s.issueTrap cause slot info) :=
  issueFrame_takeTrap s _ _ _ _ _ _ _ _ rfl
theorem issueFrame_execTrap (s : State) (cause slot : Nat) (info : Word) : IssueFrame s (s.execTrap cause slot info) :=
  issueFrame_takeTrap s _ _ _ _ _ _ _ _ rfl
theorem issueFrame_execTrapFree (s : State) (cause slot : Nat) : IssueFrame s (s.execTrapFree cause slot) :=
  (issueFrame_execTrap s cause slot _).trans (issueFrame_draw _)
theorem issueFrame_deferTrap (s : State) (k : CoreId) (b : Bool) (iss cause slot : Nat) (info : Word) (hk : k = s.focus.1) :
    IssueFrame s (s.deferTrap k b iss cause slot info) := by
  unfold State.deferTrap
  dsimp only
  split
  · split
    · exact issueFrame_modStrm s k b _ hk fun _ => rfl
    · exact .refl s
  · have ht := issueFrame_takeTrap s k b 2 cause slot (s.strm k b).last (s.strm k b).pc info hk
    exact ht.trans (issueFrame_modStrm _ k b _ (hk.trans (congrArg Prod.fst ht.focus.symm)) fun _ => rfl)
theorem issueFrame_poisonAt (s : State) (k : CoreId) (b : Bool) (slot iss since : Nat) (pc : BitVec 52) (hk : k = s.focus.1) :
    IssueFrame s (s.poisonAt k b slot iss since pc) := by
  unfold State.poisonAt
  split
  · exact Untouched.frame ⟨rfl, rfl, rfl, rfl⟩
  · exact issueFrame_deferTrap s k b iss _ slot _ hk
theorem issueFrame_meet (s : State) (slot : Nat) (c : Nat × Word) : IssueFrame s (s.meet slot c) := by
  unfold State.meet
  split
  · exact issueFrame_poisonAt s _ _ _ _ _ _ rfl
  · exact issueFrame_execTrap s _ _ _
/-- A slot's causes set AXFLAG, and then it traps or has its effect (R113). -/
theorem issueFrame_arith (s : State) (sl : Nat) (fl : Causes) (lane : Nat) (body : State → State)
    (h : ∀ u, IssueFrame u (body u)) : IssueFrame s (s.arith sl fl lane body) := by
  have hf : IssueFrame s (if fl = 0 then s else s.modMe fun t => { t with axflag := t.axflag ||| fl }) := by
    split
    · exact .refl s
    · exact issueFrame_modMe s _ fun _ => rfl
  unfold State.arith
  dsimp only
  generalize (if fl = 0 then s else s.modMe fun t => { t with axflag := t.axflag ||| fl }) = u at hf ⊢
  split
  · exact hf.trans (h _)
  · exact hf.trans (issueFrame_execTrap _ _ _ _)

/-! ### The audit log, stream registers and tile queues as sources (R71, R409, R469) -/

theorem issueFrame_auditLog (s : State) (k : CoreId) (iss : Nat) (f : AudImage → AudImage) (hk : k = s.focus.1) :
    IssueFrame s (s.auditLog k iss f) := by
  unfold State.auditLog
  split
  · split
    · exact Untouched.frame ⟨rfl, rfl, rfl, rfl⟩
    · exact .refl s
  · exact issueFrame_modCore s k _ hk fun _ => rfl
theorem issueFrame_auditIn (s : State) (tag : Nat × Nat) (r : Row) : IssueFrame s (s.auditIn tag r) := by
  unfold State.auditIn
  split
  · exact .refl s
  · exact issueFrame_auditLog s _ _ _ rfl
theorem issueFrame_auditRes (s : State) (b : Bool) (iss slot : Nat) (v : Word) :
    IssueFrame s (s.auditRes s.focus.1 b iss slot v) := by
  unfold State.auditRes
  split
  · exact .refl s
  · exact issueFrame_auditLog s _ _ _ rfl
theorem issueFrame_consumeQ (s : State) (k : Nat) : IssueFrame s (s.consumeQ k) := by
  unfold State.consumeQ
  dsimp only
  split
  · exact .refl s
  · refine IssueFrame.trans ?_ (issueFrame_modCur _ _ fun _ => rfl)
    split
    · exact issueFrame_auditIn s _ _
    · exact .refl s
theorem issueFrame_consumeTq (s : State) (k : Nat) : IssueFrame s (s.consumeTq k) := by
  unfold State.consumeTq
  dsimp only
  split
  · exact .refl s
  · split
    · exact (issueFrame_auditIn s _ _).trans (issueFrame_modCur _ _ fun _ => rfl)
    · split
      · exact .refl s
      · refine (issueFrame_auditIn s _ _).trans (issueFrame_modCur _ _ fun c => ?_)
        split
        · exact rfl
        · exact rfl
theorem issueFrame_consumeSrc (s : State) (m : MSrc) : IssueFrame s (s.consumeSrc m) := by
  cases m
  · exact issueFrame_consumeQ s _
  · exact issueFrame_consumeTq s _

/-! ### Claims of rows and stream positions (R28, R237) -/

theorem issueFrame_dropCompStore (s : State) (row n : Nat) : IssueFrame s (s.dropCompStore s.focus.1 row n) := by
  unfold State.dropCompStore
  dsimp only
  split
  · exact .refl s
  · have hm (p : Pend → Bool) : IssueFrame s (s.modStrm s.focus.1 true fun t => { t with pend := t.pend.filter p }) :=
      issueFrame_modStrm s _ true _ rfl fun _ => rfl
    split
    · exact (hm _).trans (issueFrame_takeTrap _ _ _ _ _ _ _ _ _ rfl)
    · exact (hm _).trans (issueFrame_takeTrap _ _ _ _ _ _ _ _ _ rfl)
theorem issueFrame_claimRow (s : State) (slot a n : Nat) : IssueFrame s (s.claimRow slot a n).1 := by
  unfold State.claimRow
  dsimp only
  split
  · exact issueFrame_execTrap s _ _ _
  · split
    · split
      · exact issueFrame_execTrap s _ _ _
      · exact issueFrame_dropCompStore s _ _
    · exact .refl s
theorem issueFrame_allotQ (s : State) (k n : Nat) : IssueFrame s (s.allotQ k n).1 := by
  unfold State.allotQ
  dsimp only
  exact issueFrame_modCur s _ fun _ => rfl
theorem issueFrame_claimDst (s : State) (slot n : Nat) (d : VSel) : IssueFrame s (s.claimDst slot n d).1 := by
  unfold State.claimDst
  dsimp only
  split
  · exact .refl s
  · split
    · exact issueFrame_execTrap s _ _ _
    · have hr : IssueFrame s (if (s.cur.unit (d.toNat - 0x38)).kind = 1 then
          s.claimRow slot ((s.cur.unit (d.toNat - 0x38)).addr (s.cur.unit (d.toNat - 0x38)).next) n else (s, true)).1 := by
        split
        · exact issueFrame_claimRow s _ _ _
        · exact .refl s
      generalize (if (s.cur.unit (d.toNat - 0x38)).kind = 1 then
          s.claimRow slot ((s.cur.unit (d.toNat - 0x38)).addr (s.cur.unit (d.toNat - 0x38)).next) n else (s, true)) = r at hr ⊢
      split
      · exact hr.trans (issueFrame_allotQ _ _ _)
      · exact hr

/-! ### V slots (R184, R187, R192) -/

theorem issueFrame_srUse (s : State) (n : Nat) : IssueFrame s (s.srUse s.focus.1 s.focus.2 n) := by
  unfold State.srUse
  split
  · exact .refl s
  · exact issueFrame_modStrm s _ _ _ rfl fun _ => rfl

/-- A V slot reads its operands and puts its result, or a stage that waits for one, in flight; or it traps. -/
theorem issueFrame_vslot (s : State) (stage : Nat) (k : VKind) (h : VHdr) (d a b : VSel) :
    IssueFrame s (s.vslot stage k h d a b) := by
  have hq : ∀ qs : List Nat, IssueFrame s (qs.foldl State.consumeQ s) := fun qs => issueFrame_foldl _ issueFrame_consumeQ qs s
  have hdst : ∀ (u v : State) (n : Nat) (x : Option VDst),
      (if k.isCmp then (u, some (VDst.mask (d.toNat % 16))) else u.claimDst (2 + stage) n d) = (v, x) → IssueFrame u v := by
    intro u v n x he
    split at he
    · cases he
      exact .refl u
    · have := issueFrame_claimDst u (2 + stage) n d
      rwa [he] at this
  unfold State.vslot
  extract_lets slot lat srcs qs bad row va vb vd m up cas casA casB s₁ op lag gone dst n r en s₂
  have hs₁ : IssueFrame s s₁ := hq qs
  have hgone (u : State) : IssueFrame u (gone u) := issueFrame_later u _ _ _
  have hdst' {u v : State} {x : Option VDst} (he : dst u = (v, x)) : IssueFrame u v := hdst u v _ x he
  have hs₂ : IssueFrame s₁ s₂ := by
    refine issueFrame_arith _ _ _ _ _ fun u => ?_
    split
    · next he => exact (hdst' he).trans (hgone _)
    · next he => exact (hdst' he).trans ((issueFrame_srUse _ _).trans (issueFrame_later _ _ _ _))
  clear_value bad gone dst s₂ s₁
  cases bad with
  | cons c cs => exact hs₁.trans ((issueFrame_meet _ _ _).trans (hgone _))
  | nil =>
    dsimp only
    split
    · rcases he : dst s₁ with ⟨v, _ | x⟩
      · exact hs₁.trans ((hdst' he).trans (hgone _))
      · exact hs₁.trans ((hdst' he).trans (issueFrame_later _ _ _ _))
    · split
      · exact hs₁.trans hs₂
      · exact hs₁.trans (hs₂.trans (hgone _))

/-! ### L slots (R228, R245 to R252) -/

theorem issueFrame_submitRow (s : State) (a : XReg) (f : Nat → State) (h : ∀ x, IssueFrame s (f x)) : IssueFrame s (s.submitRow a f) := by
  unfold State.submitRow
  split
  · exact issueFrame_execTrap s _ _ _
  · exact h _
theorem issueFrame_spLoad (s : State) (a : Nat) (xf : LdXf) (v : VSel) : IssueFrame s (s.spLoad a xf v) := by
  unfold State.spLoad
  split
  · exact issueFrame_execTrap s _ _ _
  · exact issueFrame_later s _ _ _
theorem issueFrame_spStore (s : State) (a : Nat) (d : Row) (en : Mask) (whole : Bool) : IssueFrame s (s.spStore a d en whole) := by
  unfold State.spStore
  split
  · exact issueFrame_execTrap s _ _ _
  · dsimp only
    split
    · exact (issueFrame_claimRow s 6 a 2).trans (issueFrame_later _ _ _ _)
    · exact issueFrame_claimRow s 6 a 2
theorem untouched_sendOn (s : State) (a : Access) : Untouched s (s.sendOn a) := by
  unfold State.sendOn
  split
  · exact ⟨rfl, rfl, rfl, rfl⟩
  · exact .refl s
theorem untouched_accs (s : State) (as : List Access) : Untouched s { s with accs := as } := ⟨rfl, rfl, rfl, rfl⟩
theorem untouched_addAccess (s : State) (a : Access) : Untouched s (s.addAccess a) := ⟨rfl, rfl, rfl, rfl⟩
/-- An access that is sent waits at its home: nothing of the cores or of memory changes yet (R250). -/
theorem untouched_send (s : State) (who : Party) (op : AccOp) (pa : Nat) (dst : List PRef) (pos : Nat) (pc : BitVec 52) (lead : Nat) :
    Untouched s (s.send who op pa dst pos pc lead) := by
  unfold State.send
  dsimp only
  split
  · exact untouched_addAccess s _
  · exact (untouched_addAccess s _).trans (untouched_sendOn _ _)
theorem issueFrame_sendUntimed (s : State) (op : AccOp) (pa : Nat) (dst : List PRef) : IssueFrame s (s.sendUntimed op pa dst) := by
  unfold State.sendUntimed
  dsimp only
  exact (untouched_send s _ _ _ _ _ _ _).frame.trans (issueFrame_modMe _ _ fun _ => rfl)
theorem issueFrame_cacheTlb (s : State) (t : Option Tlb) : IssueFrame s (s.cacheTlb s.focus.1 t) := by
  unfold State.cacheTlb
  split
  · exact .refl s
  · exact issueFrame_modCore s _ _ rfl fun _ => rfl
theorem issueFrame_untimed (s : State) (va need : Nat) (f : State → Nat → State) (h : ∀ u pa, IssueFrame u (f u pa)) :
    IssueFrame s (s.untimed va need f) := by
  unfold State.untimed
  split
  · exact issueFrame_execTrap s _ _ _
  · exact (issueFrame_cacheTlb s _).trans (h _ _)
theorem issueFrame_wordAccess (s : State) (a : XReg) (bytes : Nat) (op : AccOp) (dst : List PRef) :
    IssueFrame s (s.wordAccess a bytes op dst) := by
  unfold State.wordAccess
  refine issueFrame_untimed s _ _ _ fun u pa => ?_
  split
  · exact issueFrame_execTrap u _ _ _
  · exact issueFrame_sendUntimed u _ _ _
theorem issueFrame_aop (s : State) (op : Nat) (d a b : XReg) : IssueFrame s (s.aop op d a b) := issueFrame_wordAccess s _ _ _ _
theorem issueFrame_rwl (s : State) (op : Nat) (d a : XReg) (pd : PReg) : IssueFrame s (s.rwl op d a pd) := issueFrame_wordAccess s _ _ _ _
theorem issueFrame_fenceOf (s : State) (kind : Nat) (sc : FScope) : IssueFrame s (s.fenceOf kind sc) := by
  unfold State.fenceOf
  split
  · exact .refl s
  · exact issueFrame_modMe s _ fun _ => rfl

/-! ### X slots (R275 to R293) -/

theorem issueFrame_turnLatch (s : State) (sd : Side) (m : MSrc) (row : Row) : IssueFrame s (s.turnLatch sd m row) := by
  unfold State.turnLatch
  split
  · exact .refl s
  · exact issueFrame_modCur s _ fun _ => rfl
theorem issueFrame_doBeat (s : State) (clear b : Bool) (f : XFmt) (ma mb : MSrc) (si sj : Nat) :
    IssueFrame s (s.doBeat clear b f ma mb si sj) := by
  unfold State.doBeat
  dsimp only
  split
  · exact (issueFrame_modCur s _ (by intro; rfl)).trans ((issueFrame_turnLatch _ _ _ _).trans (issueFrame_later _ _ _ _))
  · exact .refl s
theorem issueFrame_doDrain (s : State) (db clear : Bool) : IssueFrame s (s.doDrain db clear) := by
  have hmx (f : Core → Matrix) : IssueFrame s (s.modCur fun c => { c with mx := f c }) := issueFrame_modCur s _ fun _ => rfl
  unfold State.doDrain
  extract_lets x z w rs bad out cr z₁ z₂ s₀ es rows s₁ s₂ a
  split
  · exact (hmx _).trans (issueFrame_later _ _ _ _)
  · have hs₁ : IssueFrame s s₁ := hmx _
    split
    · exact hs₁.trans (issueFrame_later _ _ _ _)
    · have hs₂ : IssueFrame s₁ s₂ := issueFrame_foldl _ (fun u r => issueFrame_dropCompStore u r 9) rows s₁
      have ha : IssueFrame s₂ a.1 := by
        show IssueFrame s₂ (if bcDkind w = 0 then s₂.allotQ (bcDnum w) (ofmtRows (bcOfmt w)) else (s₂, 0)).1
        split
        · exact issueFrame_allotQ _ _ _
        · exact .refl _
      exact hs₁.trans (hs₂.trans (ha.trans (issueFrame_later _ _ _ _)))
/-- An X slot traps, or its drain, its beat and its clear go in flight while its sources advance. -/
theorem issueFrame_xslot (s : State) (beat : Option (Bool × Bool × XFmt × MSrc × MSrc × Nat × Nat)) (zero : Option Bool)
    (dr : XDrain) (db : Bool) : IssueFrame s (s.xslot beat zero dr db) := by
  have hsrc (srcs : List MSrc) (u : State) : IssueFrame u (srcs.foldl State.consumeSrc u) :=
    issueFrame_foldl _ issueFrame_consumeSrc srcs u
  unfold State.xslot
  extract_lets drain srcs bc dc causes worst s₁ s₂ s₃ s₄
  have h₂ : IssueFrame s s₂ := by
    show IssueFrame s (match drain with | some clear => s.doDrain db clear | none => s)
    cases drain with
    | none => exact .refl s
    | some clear => exact issueFrame_doDrain s db clear
  have h₃ : IssueFrame s₂ s₃ := by
    show IssueFrame s₂ (match beat with | some (cl, b, f, ma, mb, si, sj) => s₂.doBeat cl b f ma mb si sj | none => s₂)
    rcases beat with _ | ⟨cl, b, f, ma, mb, si, sj⟩
    · exact .refl s₂
    · exact issueFrame_doBeat s₂ cl b f ma mb si sj
  have h₄ : IssueFrame s s₄ := h₂.trans (h₃.trans (hsrc srcs s₃))
  clear_value worst s₄
  split
  · exact (hsrc srcs s).trans (issueFrame_execTrapFree _ _ _)
  · rcases worst with _ | ⟨c, _ | info⟩
    · cases zero with
      | none => exact h₄
      | some b => exact h₄.trans ((issueFrame_modCur s₄ _ (by intro; rfl)).trans (issueFrame_later _ _ _ _))
    · exact (hsrc srcs s).trans (issueFrame_execTrapFree _ _ _)
    · exact (hsrc srcs s).trans (issueFrame_meet _ _ _)

/-- A buffer operation takes effect at c+2, or traps (R226). -/
theorem issueFrame_bufOp (s : State) (h : Word) (ok : Bool) (e : BufState) : IssueFrame s (s.bufOp h ok e) := by
  unfold State.bufOp
  split
  · exact issueFrame_later s _ _ _
  · exact issueFrame_execTrap s _ _ _

/-! ### Control slots (R149 to R166) -/

theorem untouched_withSeq (s : State) (q : SeqState) (n : Option Nat) : Untouched s { s.withSeq q with curCtx := n } := ⟨rfl, rfl, rfl, rfl⟩
/-- What is done for another context leaves alone what it leaves alone for the one that is served (R378). -/
theorem untouched_asCtx (s : State) (n : Option Nat) (f : State → State) (h : ∀ u, Untouched u (f u)) : Untouched s (s.asCtx n f) := by
  unfold State.asCtx
  split
  · exact h s
  · next q _ =>
    have hf := (untouched_withSeq s q n).trans (h { s.withSeq q with curCtx := n })
    exact ⟨hf.focus, hf.cores, hf.mem, hf.poison⟩
theorem untouched_modHandle (s : State) (id : Nat) (pre : Bool) (f : HCount → HCount) : Untouched s (s.modHandle id pre f) := by
  unfold State.modHandle
  split
  · exact .refl s
  · exact ⟨rfl, rfl, rfl, rfl⟩
theorem untouched_settleLaunch (s : State) (id : Nat) (pre : Bool) : Untouched s (s.settleLaunch id pre) := by
  unfold State.settleLaunch
  split
  · exact .refl s
  · exact untouched_modHandle s id pre _
/-! ### The seed log and the waits of NMFN and SEEDQ (R353, R445) -/

theorem untouched_vwrite (who : Party) (pt : Word) (f : Nat) : ∀ (s : State) (va n x : Nat), Untouched s (s.vwrite who pt f va n x) := by
  induction f with
  | zero => exact fun s _ _ _ => .refl s
  | succ f ih =>
    intro s va n x
    unfold State.vwrite
    split
    · exact .refl s
    · refine Untouched.trans ?_ (ih _ _ _ _)
      split
      · split
        · exact untouched_send s _ _ _ _ _ _ _
        · exact .refl s
      · exact .refl s
theorem untouched_issueSeed (s : State) (who : Party) (mark : Nat) : Untouched s (s.issueSeed who mark) := by
  unfold State.issueSeed
  have h : Untouched s { s with seedcnt := s.seedcnt + 1 }.draw := ⟨rfl, rfl, rfl, rfl⟩
  exact h.trans (untouched_vwrite _ _ _ _ _ _ _)
theorem issueFrame_seedGive (s : State) (w : NmWait) (hw : w.core = s.focus.1) : IssueFrame s (s.seedGive w) := by
  unfold State.seedGive
  extract_lets n id s₁ s₂
  have h₀ : Untouched s { s with seedWaits := s.seedWaits.erase w } := ⟨rfl, rfl, rfl, rfl⟩
  have h₁ : Untouched s s₁ := h₀.trans (untouched_issueSeed _ _ _)
  have h₂ : Untouched s s₂ := h₁.trans (untouched_accs s₁ _)
  have hk₁ : w.core = s₁.focus.1 := hw.trans (congrArg Prod.fst h₁.focus.symm)
  have hk₂ : w.core = s₂.focus.1 := hw.trans (congrArg Prod.fst h₂.focus.symm)
  exact issueFrame_ite _ (h₁.frame.trans (issueFrame_modStrm s₁ _ _ _ hk₁ fun _ => rfl))
    (h₂.frame.trans (issueFrame_modStrm s₂ _ _ _ hk₂ fun _ => rfl))

/-! ### The issue of a slot -/

/-- To execute the instruction is to issue a slot with an effect that keeps the frame. -/
def IssuesInFrame (i : Instr) : Prop :=
  ∃ body, (∀ s, exec i s = .next (runSlot i s body)) ∧ ∀ u, IssueFrame u (body u)

/-- Whether it waits, traps, is guarded off or goes, an issue keeps the frame when the effect does. -/
theorem issueFrame_runSlot (i : Instr) (s : State) (body : State → State) (h : ∀ u, IssueFrame u (body u)) :
    IssueFrame s (runSlot i s body) := by
  rcases runSlot_cases i s body with hr | ⟨f, -, hr⟩ | hr | ⟨-, hr⟩ <;> rw [hr]
  · exact .refl s
  · split
    · exact (issueFrame_holdFor s _).trans (issueFrame_issueTrap _ _ _ _)
    · exact issueFrame_issueTrap s _ _ _
  · exact issueFrame_placed s i
  · exact (issueFrame_placed s i).trans (h _)

theorem arch_openSegment (c : Core) (inst holdTo ready : Nat) (pc : BitVec 52) :
    (c.openSegment inst holdTo ready pc).arch = c.arch := rfl
theorem issuesInFrame_segb (h : CHdr) : IssuesInFrame (.segb h) := by
  refine ⟨_, fun _ => rfl, fun u => ?_⟩
  extract_lets n t v
  have hv : IssueFrame u v := issueFrame_modCur u _ fun c => arch_openSegment c _ _ _ _
  split
  · exact .refl u
  · split
    · exact hv
    · exact hv.trans (issueFrame_later v _ _ _)
/-- PHEND commits the segment, frees the streams and fixes the selection later, and then leaves the body. -/
theorem issuesInFrame_phend (h : CHdr) : IssuesInFrame (.phend h) := by
  refine ⟨_, fun _ => rfl, fun u => ?_⟩
  extract_lets k body n free v₁ v₂ v₃
  have hlater (c : Prop) [Decidable c] (s : State) (sl d : Nat) (e : Effect) : IssueFrame s (if c then s.later sl d e else s) := by
    split
    · exact issueFrame_later s _ _ _
    · exact .refl s
  have h₁ : IssueFrame u v₁ := hlater _ u _ _ _
  have h₂ : IssueFrame v₁ v₂ := issueFrame_foldl _ (fun s q => hlater _ s _ _ _) _ v₁
  have h₃ : IssueFrame v₂ v₃ := hlater _ v₂ _ _ _
  clear_value v₁ v₂ v₃
  split
  · exact .refl u
  · exact h₁.trans (h₂.trans (h₃.trans (issueFrame_modCur v₃ _ fun _ => rfl)))
/-- TEND counts the tile, and goes on with the next tile of the slice or after its launch. -/
theorem issuesInFrame_tend (h : CHdr) : IssuesInFrame (.tend h) := by
  refine ⟨_, fun _ => rfl, fun u => ?_⟩
  split
  · exact .refl u
  · extract_lets pre cut v₁ v₂ v₃
    have h₁ : IssueFrame u v₁ := (untouched_asCtx u _ _ fun s => untouched_modHandle s _ _ _).frame
    have h₂ : IssueFrame v₁ v₂ := issueFrame_modMe v₁ _ fun _ => rfl
    have htask (n : BitVec 52) : IssueFrame v₂ (v₂.modMe fun t => { t with npc := n }) := issueFrame_modMe v₂ _ fun _ => rfl
    have h₃ : IssueFrame v₂ v₃ := (htask _).trans (issueFrame_modCur _ _ fun _ => rfl)
    clear_value v₁ v₂ v₃
    split
    · exact h₁.trans (h₂.trans ((htask _).trans (issueFrame_later _ _ _ _)))
    · exact h₁.trans (h₂.trans (h₃.trans (untouched_asCtx v₃ _ _ fun s => untouched_settleLaunch s _ _).frame))
theorem issuesInFrame_rdc (h : CHdr) (d : XReg) (n : BitVec 12) : IssuesInFrame (.rdc h d n) := by
  refine ⟨_, fun _ => rfl, fun u => ?_⟩
  dsimp only
  split
  · split
    · split
      · exact .refl u
      · exact issueFrame_later u _ _ _
    · exact issueFrame_later u _ _ _
    · exact .refl u
  · exact (issueFrame_auditRes u _ _ _ _).trans (issueFrame_putX _ _ _ _ _)
theorem issuesInFrame_nmfn (g : PReg) (d a : XReg) : IssuesInFrame (.nmfn g d a) := by
  refine ⟨_, fun _ => rfl, fun u => ?_⟩
  extract_lets ticket id w
  split
  · exact issueFrame_later u _ _ _
  · have hn : IssueFrame u { u with nextId := id + 1, nmWaits := u.nmWaits ++ [w] } := Untouched.frame ⟨rfl, rfl, rfl, rfl⟩
    exact hn.trans (issueFrame_modMe _ _ fun _ => rfl)
theorem issuesInFrame_seedq (g : PReg) (d : XReg) : IssuesInFrame (.seedq g d) := by
  refine ⟨_, fun _ => rfl, fun u => ?_⟩
  extract_lets id w v
  have hn : IssueFrame u { u with nextId := id + 1, seedWaits := u.seedWaits ++ [w] } := Untouched.frame ⟨rfl, rfl, rfl, rfl⟩
  have hv : IssueFrame u v := hn.trans (issueFrame_modMe _ _ fun _ => rfl)
  have hw : w.core = v.focus.1 := rfl
  clear_value v
  split
  · exact hv.trans (issueFrame_seedGive v w hw)
  · exact hv

theorem issuesInFrame_call (h : CHdr) (t : TReg) : IssuesInFrame (.call h t) := by
  refine ⟨_, fun _ => rfl, fun u => ?_⟩
  exact (issueFrame_modMe u _ (by intro; rfl)).trans (issueFrame_branch _ _)
theorem issuesInFrame_ret (h : CHdr) : IssuesInFrame (.ret h) := by
  refine ⟨_, fun _ => rfl, fun u => ?_⟩
  split
  · exact .refl u
  · exact (issueFrame_modMe u _ (by intro; rfl)).trans (issueFrame_goTo _ _ _)
theorem issuesInFrame_brl (h : CHdr) (t : TReg) : IssuesInFrame (.brl h t) := by
  refine ⟨_, fun _ => rfl, fun u => ?_⟩
  extract_lets r v
  have hv : IssueFrame u v := issueFrame_later u _ _ _
  exact hv.trans (issueFrame_ite _ (issueFrame_branch v t) (.refl v))
theorem issuesInFrame_realign (h : CHdr) : IssuesInFrame (.realign h) := by
  refine ⟨_, fun _ => rfl, fun u => ?_⟩
  extract_lets v
  have hv : IssueFrame u v := (issueFrame_modMe u _ (by intro; rfl)).trans (issueFrame_modCur _ _ (by intro; rfl))
  exact hv.trans (Untouched.frame ⟨rfl, rfl, rfl, rfl⟩)
theorem issuesInFrame_sadv (g : PReg) (q : QReg) (n : BitVec 8) : IssuesInFrame (.sadv g q n) := by
  refine ⟨_, fun _ => rfl, fun u => issueFrame_ite _ (issueFrame_execTrap u _ _ _) ?_⟩
  split
  · exact issueFrame_meet u _ _
  · exact issueFrame_modCur u _ fun _ => rfl
theorem issuesInFrame_gls (g : PReg) (gd : GReg) (first : Bool) (va vb : VSel) : IssuesInFrame (.gls g gd first va vb) := by
  refine ⟨_, fun _ => rfl, fun u => issueFrame_ite _ (issueFrame_execTrap u _ _ _) ?_⟩
  split
  · exact issueFrame_execTrap u _ _ _
  · exact issueFrame_later u _ _ _

/-- Every slot instruction issues in the frame: its results are put in flight, and its accesses are sent to their homes. -/
theorem issuesInFrame (i : Instr) (h : i.slot.isSome = true) : IssuesInFrame i := by
  cases i
  case addC | addS | subC | subS | andC | andS | orC | orS | xorC | xorS | andnC | andnS | shlC | shlS | shrC | shrS | sraC |
      sraS | minC | maxC | minuC | maxuC | rol | clz | ctz | popc | liC | liS | addiC | addiS | lihC | lihS | mul | mulh |
      mulhu | sel | movp | xv =>
    exact ⟨_, fun _ => rfl, fun u => issueFrame_putX u _ _ _ _⟩
  case div | divu | rem | remu | fadd | fsub | fmul | ffma | fcvt =>
    exact ⟨_, fun _ => rfl, fun u => issueFrame_arith u _ _ _ _ fun v => issueFrame_putX v _ _ _ _⟩
  case cmpeqC | cmpeqS | cmpltC | cmpltS | cmpltuC | cmpltuS | cmpleC | cmpleS | cmpleuC | cmpleuS | cmpeqi | cmplti =>
    exact ⟨_, fun _ => rfl, fun u => issueFrame_putPair u _ _ _ _⟩
  case pand | por | pxor | pandn | pmov =>
    exact ⟨_, fun _ => rfl, fun u => issueFrame_putP u _ _ _ _⟩
  case vaddV0 | vaddV1 | vaddV2 | vsubV0 | vsubV1 | vsubV2 | vmulV0 | vmulV1 | vmulV2 | vfmaV0 | vfmaV1 | vfmaV2 | vfmsV0 |
      vfmsV1 | vminV0 | vminV1 | vminV2 | vmaxV0 | vmaxV1 | vmaxV2 | vminuV0 | vminuV1 | vmaxuV0 | vmaxuV1 | vandV0 | vandV1 |
      vorV0 | vorV1 | vxorV0 | vxorV1 | vandn | vshl | vshr | vsra | vabsV0 | vabsV1 | vnegV0 | vnegV1 | vmovV0 | vmovV1 |
      vmovV2 | vcmpeqV0 | vcmpeqV1 | vcmpeqV2 | vcmpltV0 | vcmpltV1 | vcmpltV2 | vcmpleV0 | vcmpleV1 | vselV0 | vselV1 |
      vselV2 | vclamp | vcvtV0 | vcvtV1 | vcvtV2 | vrnd | vldexp | vexpo | vmaxexp | vshuf | vrotl | vbcl | vpack | vunpk |
      vraddV1 | vraddV2 | vrmaxV1 | vrmaxV2 | vrmin | vscan | vexp2 | vlog2 | vrcp | vrsq | vsqrt | vtanh | vsigm | vsin |
      vcos | verf =>
    exact ⟨_, fun _ => rfl, fun u => issueFrame_vslot u _ _ _ _ _ _⟩
  case xacc | xaccz | xzero | xdrn =>
    exact ⟨_, fun _ => rfl, fun u => issueFrame_xslot u _ _ _ _⟩
  case ld | ldt | ldb | ldx =>
    exact ⟨_, fun _ => rfl, fun u => issueFrame_spLoad u _ _ _⟩
  case st | stm | stx =>
    exact ⟨_, fun _ => rfl, fun u => issueFrame_spStore u _ _ _ _⟩
  case aopAdd | aopFadd32 | aopMin | aopMax | aopMinu | aopMaxu | aopAnd | aopOr | aopXor | aopXchg | aopCas =>
    exact ⟨_, fun _ => rfl, fun u => issueFrame_aop u _ _ _ _⟩
  case rwlRdacq | rwlRdrel | rwlWracq | rwlWrrel | rwlSetpref =>
    exact ⟨_, fun _ => rfl, fun u => issueFrame_rwl u _ _ _ _⟩
  case fenceAcq | fenceRel | fenceFull =>
    exact ⟨_, fun _ => rfl, fun u => issueFrame_fenceOf u _ _⟩
  case btake | bgive | bpub | bret =>
    exact ⟨_, fun _ => rfl, fun u => issueFrame_bufOp u _ _ _⟩
  case jsub | nmsub | lnch | smpsub =>
    exact ⟨_, fun _ => rfl, fun u => issueFrame_submitRow u _ _ fun _ => issueFrame_later u _ _ _⟩
  case pbr | pbrx =>
    exact ⟨_, fun _ => rfl, fun u => issueFrame_prepare u _ _⟩
  case vx | loop | wrc | rmrg | zld | eld | xmaskFill | xmaskInv | jcan | barmSet | barmAdd | barq | uien | phsel | cancLaunch
      | cancGraph | cancPhase | cancJob =>
    exact ⟨_, fun _ => rfl, fun u => issueFrame_later u _ _ _⟩
  case hold | trap =>
    exact ⟨_, fun _ => rfl, fun u => .refl u⟩
  case sbind | sfree | xcfg | tqbind | phld =>
    exact ⟨_, fun _ => rfl, fun u => issueFrame_ite _ (issueFrame_execTrap u _ _ _) (issueFrame_later u _ _ _)⟩
  case fcmp => exact ⟨_, fun _ => rfl, fun u => issueFrame_arith u _ _ _ _ fun v => issueFrame_putPair v _ _ _ _⟩
  case br => exact ⟨_, fun _ => rfl, fun u => issueFrame_branch u _⟩
  case call => exact issuesInFrame_call _ _
  case ret => exact issuesInFrame_ret _
  case brl => exact issuesInFrame_brl _ _
  case segb => exact issuesInFrame_segb _
  case phend => exact issuesInFrame_phend _
  case tend => exact issuesInFrame_tend _
  case realign => exact issuesInFrame_realign _
  case rdc => exact issuesInFrame_rdc _ _ _
  case ifence => exact ⟨_, fun _ => rfl, fun u => issueFrame_modMe u _ fun _ => rfl⟩
  case uiret => exact ⟨_, fun _ => rfl, fun u => (issueFrame_later u _ _ _).trans (issueFrame_goTo _ _ _)⟩
  case waiti => exact ⟨_, fun _ => rfl, fun u => (issueFrame_modMe u _ (by intro; rfl)).trans (issueFrame_modCur _ _ (by intro; rfl))⟩
  case gld | gst => exact ⟨_, fun _ => rfl, fun u => issueFrame_untimed u _ _ _ fun v _ => issueFrame_sendUntimed v _ _ _⟩
  case sadv => exact issuesInFrame_sadv _ _ _
  case gls => exact issuesInFrame_gls _ _ _ _ _
  case xmaskRow => exact ⟨_, fun _ => rfl, fun u => issueFrame_ite _ (issueFrame_execTrapFree u _ _) (issueFrame_later u _ _ _)⟩
  case tqfl => exact ⟨_, fun _ => rfl, fun u => issueFrame_ite _ (issueFrame_execTrapFree u _ _) (issueFrame_later u _ _ _)⟩
  case nmfn => exact issuesInFrame_nmfn _ _ _
  case seedq => exact issuesInFrame_seedq _ _
  all_goals exact Bool.noConfusion h

/-- Settles O7: every slot issues in the frame, whatever its effect puts in flight (R65, R184, R220, R250). -/
theorem issueWritesNoRegisterOrMemory : Obligations.IssueWritesNoRegisterOrMemory := by
  have hframe (i : Instr) (s t : State) (hi : i.slot.isSome) (ht : exec i s = .next t) : IssueFrame s t := by
    obtain ⟨body, hrun, hbody⟩ := issuesInFrame i hi
    rw [hrun s] at ht
    cases ht
    exact issueFrame_runSlot i s body hbody
  exact ⟨fun i s t hi ht => ⟨(hframe i s t hi ht).regs, (hframe i s t hi ht).mem⟩,
    fun i s t k hi ht hk => (hframe i s t hi ht).others k hk⟩

end Sys2Proof.Machine

/-!
The landing of scalar results (O13, O14; R6, R65, R69): which entry of a core lands next, and what becomes of a core of which one
scalar result of the primary stream is due.
-/
namespace Sys2Proof.Machine

theorem modCore_congr {s : State} {k : CoreId} {f g : Core → Core} (h : f (s.core k) = g (s.core k)) : s.modCore k f = s.modCore k g := by
  unfold State.modCore
  rw [h]

/-! ### The next entry to land -/

theorem filter_due_eq_nil {es : List Pend} {n : Nat} (h : ∀ e ∈ es, n < e.due) : es.filter (fun e => e.due ≤ n) = [] := by
  simpa [List.filter_eq_nil_iff] using h
theorem nextDue_eq_none {c : Core} (hp : ∀ e ∈ c.prim.pend, c.prim.inst < e.due) (hc : ∀ e ∈ c.comp.pend, c.comp.inst < e.due) :
    c.nextDue = none := by
  simp only [Core.nextDue, Core.strm, filter_due_eq_nil hp, filter_due_eq_nil hc, if_true, Bool.false_eq_true, if_false, List.map_nil,
    List.append_nil, List.foldl_nil]
theorem nextDue_eq_some {c : Core} {e : Pend} (hp : c.prim.pend = [e]) (hc : c.comp.pend = []) (hdue : e.due ≤ c.prim.inst) :
    c.nextDue = some (false, e) := by
  simp [Core.nextDue, Core.strm, hp, hc, hdue]

/-! ### One scalar result -/

/-- The core once the one scalar result in flight of its primary stream has landed. -/
def Core.withResult (c : Core) (n : Nat) (v : Word) : Core := { c with prim := { c.prim with pend := [], x := wr c.prim.x n v } }

theorem landOne_scalar {s : State} {k : CoreId} {e : Pend} {n : Nat} {v : Word} (hp : (s.core k).prim.pend = [e])
    (he : e.eff = .x false n v) (hn : n ≠ 0) (hs : (s.core k).seg.snap = none) :
    s.landOne k false e = s.modCore k (·.withResult n v) := by
  simp only [State.landOne, Bool.false_eq_true, if_false, State.landEff, he, State.modStrm, modCore_modCore]
  refine modCore_congr ?_
  simp [Core.modStrm, Core.setStrm, Core.strm, Core.withResult, Strm.setX, hs, hn, hp]
/-- One scalar result of the primary stream that is due lands alone. -/
theorem exec_landing_scalar {s : State} {k : CoreId} {e : Pend} {n : Nat} {v : Word} (hp : (s.core k).prim.pend = [e])
    (hc : (s.core k).comp.pend = []) (he : e.eff = .x false n v) (hdue : e.due ≤ (s.core k).prim.inst) (hn : n ≠ 0)
    (hs : (s.core k).seg.snap = none) :
    exec (.inFlightResultLanding k) s = .next (s.modCore k (·.withResult n v)) := by
  have hnone : ((s.core k).withResult n v).nextDue = none :=
    nextDue_eq_none (by simp [Core.withResult]) (by simp [Core.withResult, hc])
  show Host.Outcome.next (s.landDue k (2 * ((s.core k).prim.pend.length + (s.core k).comp.pend.length))) = _
  simp [hp, hc, State.landDue, nextDue_eq_some hp hc hdue, landOne_scalar hp he hn hs, hnone]
theorem exec_landing_none {s : State} {k : CoreId} (hp : ∀ e ∈ (s.core k).prim.pend, (s.core k).prim.inst < e.due)
    (hc : ∀ e ∈ (s.core k).comp.pend, (s.core k).comp.inst < e.due) : exec (.inFlightResultLanding k) s = .next s := by
  have hfuel (f : Nat) : s.landDue k f = s := by
    cases f with
    | zero => rfl
    | succ f => simp only [State.landDue, nextDue_eq_none hp hc]
  exact congrArg Host.Outcome.next (hfuel _)

/-! ### Constants and names (R61, R69, R140) -/

theorem xRef_zero (c : Core) (b : Bool) : c.xRef b 0 = .x 0 := by cases b <;> simp [Core.xRef]
theorem pRef_zero (c : Core) (b : Bool) : c.pRef b 0 = .p 0 := by cases b <;> simp [Core.pRef]
theorem xRef_of_lt (c : Core) {d : XReg} (hd : d.toNat < 48) : c.xRef false d = .x d.toNat := by
  simp [Core.xRef, Nat.not_le.mpr hd]
/-- A result of the primary stream for a register without a rotated name is on its way there. -/
theorem putX_of_lt {s : State} {d : XReg} (hf : s.focus.2 = false) (h0 : d ≠ 0) (hd : d.toNat < 48) (sl n : Nat) (v : Word) :
    s.putX sl n d v = s.later sl n (.x false d.toNat v) := by
  simp [State.putX, hf, xRef_of_lt s.cur hd, Nat.ne_of_gt (BitVec.toNat_pos_of_ne_zero h0)]

/-- Settles O13: the names of R69, and the landing of one entry (R65). -/
theorem scalarResultsLand : Obligations.ScalarResultsLand := by
  refine ⟨⟨fun s sl n v => ?_, fun s => ?_, fun s => ?_, fun _ => rfl, fun s sl n d v hf h0 hd => putX_of_lt hf h0 hd sl n v⟩,
    fun s k e n v hp hc he hdue hn hs => exec_landing_scalar hp hc he hdue hn hs, fun s k hp hc => exec_landing_none hp hc⟩
  · simp only [State.putX, xRef_zero, if_true]
  · simp only [State.x, xRef_zero, Strm.xAt, if_true]
  · simp only [State.p, pRef_zero, Strm.pAt, if_true]

/-! ### From issue to register (R65) -/

/-- ADD takes its place by its weight alone. -/
theorem placed_addS (s : State) (g : PReg) (d a b : XReg) : s.placed (.addS g d a b) = s.charge 1 := rfl

/-- ADD has been issued, its result v for register n is in flight, and the next instant has come. -/
def Core.sentNext (c : Core) (n : Nat) (v : Word) : Core :=
  { c with
    charge := c.charge + 1
    prim := { c.prim with
      inst := c.prim.inst + 1
      pend := [{ due := c.prim.inst + 1, iss := c.prim.inst, pc := c.prim.pc, slot := 1, eff := .x false n v }] } }
theorem putX_sentNext {s : State} {d : XReg} (hf : s.focus.2 = false) (h0 : d ≠ 0) (hd : d.toNat < 48) (hp : s.cur.prim.pend = [])
    (v : Word) : (((s.charge 1).putX 1 1 d v).modMe fun r => { r with inst := r.inst + 1 }) = s.modCur (·.sentNext d.toNat v) := by
  rw [putX_of_lt (s := s.charge 1) hf h0 hd]
  simp only [State.later, State.charge, State.modMe, State.modStrm, State.modCur, modCore_focus, modCore_modCore, hf]
  refine modCore_congr ?_
  simp [Core.modStrm, Core.setStrm, Core.strm, Core.sentNext, show (s.core s.focus.1).prim.pend = [] from hp]

/-- The result in flight has landed as well. -/
def Core.landedNext (c : Core) (n : Nat) (v : Word) : Core := (c.sentNext n v).withResult n v
/-- A scalar result put in flight from a calm primary stream lands once the stream stands at the next instant. -/
theorem exec_putX_land {s : State} {d : XReg} (hf : s.focus.2 = false) (h0 : d ≠ 0) (hd : d.toNat < 48)
    (hp : s.cur.prim.pend = []) (hc : s.cur.comp.pend = []) (hs : s.cur.seg.snap = none) (v : Word) :
    exec (.inFlightResultLanding s.focus.1) (((s.charge 1).putX 1 1 d v).modMe fun r => { r with inst := r.inst + 1 }) =
      .next (s.modCur (·.landedNext d.toNat v)) := by
  have hcore : (s.modCur (·.sentNext d.toNat v)).core s.focus.1 = s.cur.sentNext d.toNat v := core_modCore s _ _
  rw [putX_sentNext hf h0 hd hp, exec_landing_scalar (congrArg (·.prim.pend) hcore) (by rw [hcore]; exact hc) rfl
    (by rw [hcore]; exact .refl) (Nat.ne_of_gt (BitVec.toNat_pos_of_ne_zero h0)) (by rw [hcore]; exact hs)]
  exact congrArg Host.Outcome.next (modCore_modCore s _ _ _)
/-- A name of the primary stream is a general register, and register d only by its own name. -/
theorem xRef_prim (c : Core) {d : XReg} (hd : d.toNat < 48) (r : XReg) : ∃ m, c.xRef false r = .x m ∧ (r ≠ d → d.toNat ≠ m) := by
  simp only [Core.xRef, Bool.false_eq_true, if_false]
  split
  · exact ⟨_, rfl, fun _ => by omega⟩
  · exact ⟨_, rfl, fun hr h => hr (BitVec.eq_of_toNat_eq h.symm)⟩
theorem x_landedNext_same {s : State} {d : XReg} (hf : s.focus.2 = false) (h0 : d ≠ 0) (hd : d.toNat < 48) (v : Word) :
    (s.modCur (·.landedNext d.toNat v)).x d = v := by
  simp [State.x, State.me, State.strm, State.modCur, State.cur, Core.strm, Core.landedNext, Core.withResult, Core.sentNext, Strm.xAt, hf,
    xRef_of_lt _ hd, Nat.ne_of_gt (BitVec.toNat_pos_of_ne_zero h0), rd_wr_same _ _ _ _ (Nat.lt_trans hd (by decide : 48 < 64))]
theorem x_landedNext_other {s : State} {d r : XReg} (hf : s.focus.2 = false) (hd : d.toNat < 48) (hr : r ≠ d) (v : Word) :
    (s.modCur (·.landedNext d.toNat v)).x r = s.x r := by
  have hname : ((s.core s.focus.1).landedNext d.toNat v).xRef false r = (s.core s.focus.1).xRef false r := rfl
  obtain ⟨m, hm, hne⟩ := xRef_prim (s.core s.focus.1) hd r
  have hread : ((s.core s.focus.1).landedNext d.toNat v).prim.xAt (.x m) = (s.core s.focus.1).prim.xAt (.x m) := by
    simp only [Strm.xAt, Core.landedNext, Core.withResult, Core.sentNext, rd_wr_other _ _ _ _ _ (hne hr)]
  simpa only [State.x, State.me, State.strm, State.modCur, State.cur, modCore_focus, core_modCore, Core.strm, hf, hname, hm,
    Bool.false_eq_true, if_false] using hread

/-- Settles O14: the sum is in flight through the cycle of issue, and then lands alone. -/
theorem addReachesItsRegister : Obligations.AddReachesItsRegister := by
  intro s g d a b hf h0 hd hcalm hc hs hgo
  obtain ⟨hp, -, -⟩ := hcalm
  have hprim : s.cur.prim.pend = [] := by
    rw [State.me, State.strm, hf] at hp
    exact hp
  refine ⟨_, congrArg Host.Outcome.next (runSlot_goes _ _ _ hgo), ?_, _, exec_putX_land hf h0 hd hprim hc hs _, ?_,
    fun r hr => x_landedNext_other hf hd hr _, rfl⟩
  · simp only [putX_of_lt (s := s.placed (.addS g d a b)) hf h0 hd, (sameRegs_later _ _ _ _).xEq, placed_x]
  · rw [x_landedNext_same hf h0 hd, placed_x, placed_x]

end Sys2Proof.Machine

/-!
Host accesses (O55): what is sent for an access within one row (R493), register writes by number (R180, R492), and TLBINV (R495).
-/
namespace Sys2Proof.Machine

/-! ### Accesses within one row (R493) -/

/-- The host's access x, and nothing else of cores and memory, has been added. -/
structure HostSent (s t : State) (x : Access) : Prop where
  accs  : t.accs = s.accs ++ [x]
  who   : x.who = .host
  cores : t.cores = s.cores
  mem   : t.mem = s.mem

theorem sendOn_accs (s : State) (a : Access) : (s.sendOn a).accs = s.accs := by
  unfold State.sendOn
  split
  · rfl
  · rfl
theorem send_host (s : State) (op : AccOp) (pa pos : Nat) :
    ∃ x, HostSent s (s.send .host op pa [] pos) x ∧ x.op = op ∧ x.pa = pa ∧ x.pos = pos := by
  unfold State.send
  extract_lets a wait u
  refine ⟨{ a with out := !wait }, ?_, rfl, rfl, rfl⟩
  have hu : HostSent s u { a with out := !wait } := ⟨rfl, rfl, rfl, rfl⟩
  split
  · exact hu
  · exact ⟨(sendOn_accs u a).trans hu.accs, rfl, (untouched_sendOn u a).cores.trans hu.cores,
      (untouched_sendOn u a).mem.trans hu.mem⟩

/-- An access within one row is one piece. -/
theorem hostPieces_row {pa len : Nat} (h0 : 0 < len) (hrow : pa % 128 + len ≤ 128) : hostPieces pa len = [(0, pa, len)] := by
  have hcount : (pa % 128 + len + 127) / 128 = 1 := by omega
  have hend : min (pa + len) ((pa / 128 + 1) * 128) = pa + len := by omega
  simp [hostPieces, hcount, List.range_succ, hend, Nat.ne_of_gt h0]
theorem hostOpen_iff (s : State) (off len : Nat) : s.hostOpen off len = true ↔ s.startMin = false ∧ off + len ≤ 2 ^ 36 := by
  simp [State.hostOpen]

theorem exec_hostRead_row {s : State} {off len : Nat} (hopen : s.hostOpen off len = true) (h0 : 0 < len)
    (hrow : s.hostPa off % 128 + len ≤ 128) (hb : s.unbacked (s.hostPa off) = false) :
    exec (.hostRead off len) s = .next (s.send .host (.read len) (s.hostPa off) [] off) := by
  show Host.Outcome.next _ = _
  simp only [hopen, hostPieces_row h0 hrow, List.foldl_cons, List.foldl_nil, hb, Bool.not_true, Bool.false_eq_true, if_false, Nat.add_zero]
theorem exec_hostWrite_row {s : State} {off : Nat} {data : List Byte} (hopen : s.hostOpen off data.length = true)
    (h0 : 0 < data.length) (hrow : s.hostPa off % 128 + data.length ≤ 128) (hb : s.unbacked (s.hostPa off) = false) :
    exec (.hostWrite off data) s = .next (s.send .host
      (.write (BitVec.ofNat 1024 (leWord data * 2 ^ (8 * (s.hostPa off % 128))))
        (BitVec.ofNat 128 ((2 ^ data.length - 1) * 2 ^ (s.hostPa off % 128)))) (s.hostPa off - s.hostPa off % 128)) := by
  show Host.Outcome.next _ = _
  simp only [hopen, hostPieces_row h0 hrow, List.foldl_cons, List.foldl_nil, hb, Bool.not_true, Bool.false_eq_true, if_false,
    List.drop_zero, List.take_length]

/-- The aligned word of an atomic lies in the window exactly when its address does. -/
theorem hostOpen_word {s : State} (hmin : s.startMin = false) (off : Nat) (wide : Bool) :
    s.hostOpen (off / (if wide then 8 else 4) * (if wide then 8 else 4)) (if wide then 8 else 4) = decide (off < 2 ^ 36) := by
  rw [Bool.eq_iff_iff, hostOpen_iff, decide_eq_true_iff]
  cases wide <;> simp [hmin] <;> omega
theorem hostAtomic_beyond {s : State} {off : Nat} (hmin : s.startMin = false) (h : 2 ^ 36 ≤ off) (op : Nat) (wide : Bool)
    (v cmp : Word) : s.hostAtomic op off wide v cmp = { s with hostUr := s.hostUr ++ [off] } := by
  simp only [State.hostAtomic, hmin, hostOpen_word hmin, Nat.not_lt.mpr h, decide_false, Bool.not_false, Bool.false_eq_true, if_false,
    if_true, State.hostRefuse]
theorem hostAtomic_within {s : State} {off : Nat} (hmin : s.startMin = false) (h : off < 2 ^ 36)
    (hb : s.unbacked (s.hostPa off) = false) (op : Nat) (wide : Bool) (v cmp : Word) :
    s.hostAtomic op off wide v cmp = s.send .host (.hostAtomic op wide v cmp) (s.hostPa off) [] off := by
  simp only [State.hostAtomic, hmin, hostOpen_word hmin, h, hb, decide_true, Bool.not_true, Bool.false_eq_true, if_false]

theorem exec_hostAtomic {i : Instr} {op off : Nat} {wide : Bool} {v cmp : Word} (hi : i = .hostFetchadd off wide v ∧ op = 0 ∧ cmp = 0 ∨
    i = .hostSwap off wide v ∧ op = 1 ∧ cmp = 0 ∨ i = .hostCas off wide cmp v ∧ op = 2) (s : State) :
    exec i s = .next (s.hostAtomic op off wide v cmp) := by
  rcases hi with ⟨rfl, rfl, rfl⟩ | ⟨rfl, rfl, rfl⟩ | ⟨rfl, rfl⟩
  · rfl
  · rfl
  · rfl

/-! ### Register writes (R180, R492) -/

theorem hostReg_low {n : Nat} (h : n < 0x800) : hostReg n = some (n, false) := if_pos h
theorem hostReg_banked {n : Nat} (h : 0x800 ≤ n) (hb : bankedReg (n - 0x800) = true) : hostReg n = some (n - 0x800, true) := by
  rw [hostReg, if_neg (Nat.not_lt.mpr h), if_pos hb]
theorem hostReg_unassigned {n : Nat} (h : 0x800 ≤ n) (hb : bankedReg (n - 0x800) = false) : hostReg n = none := by
  rw [hostReg, if_neg (Nat.not_lt.mpr h), if_neg (by simp [hb])]

theorem regStore_of_ne {n : Nat} (h : n ≠ 0x224) (s : State) (k : CoreId) (comp host : Bool) (v : Word) :
    s.regStore k comp host n v = s.cwrite k comp n v := if_neg h
theorem regStore_uvctl (s : State) (k : CoreId) (comp host : Bool) (v : Word) : s.regStore k comp host 0x224 v =
    { s.cwrite k comp 0x224 v with health := (s.cwrite k comp 0x224 v).health.putUvctl s.health.uvctl host } := by
  unfold State.regStore
  exact if_pos rfl
theorem exec_registerWrite_low {k : CoreId} {comp : Bool} {n : BitVec 12} {v : Word} {s : State} (hn : n.toNat < 0x800) :
    exec (.registerWrite k comp n v) s = .next (if cAccess n.toNat = none then s else
      let u := if actionOnly n.toNat then s else s.regStore k comp true n.toNat v
      { u with agenda := u.agenda ++ regActions k comp n.toNat v }) := by
  show Host.Outcome.next (s.regWrite k comp true n.toNat v) = _
  rw [State.regWrite, hostReg_low hn]
  simp only [Bool.or_false]

section
variable {k : CoreId} {comp : Bool} {n : BitVec 12} {v : Word} {s : State}

theorem exec_registerWrite_unassigned (hn : 0x800 ≤ n.toNat) (hb : bankedReg (n.toNat - 0x800) = false) :
    exec (.registerWrite k comp n v) s = .next s := by
  show Host.Outcome.next (s.regWrite k comp true n.toNat v) = _
  rw [State.regWrite, hostReg_unassigned hn hb]
/-- A number of a banked register from 0x800 up is the register of the companion. -/
theorem exec_registerWrite_banked (hn : 0x800 ≤ n.toNat) (hb : bankedReg (n.toNat - 0x800) = true) :
    exec (.registerWrite k comp n v) s = exec (.registerWrite k true (n - 0x800) v) s := by
  have hsub : (n - 0x800).toNat = n.toNat - 0x800 := by bv_omega
  show Host.Outcome.next (s.regWrite k comp true n.toNat v) = Host.Outcome.next (s.regWrite k true true (n - 0x800).toNat v)
  rw [State.regWrite, State.regWrite, hostReg_banked hn hb, hsub, hostReg_low (by omega)]
  simp only [Bool.or_true, Bool.or_false]
theorem exec_registerWrite_store (hn : n.toNat < 0x800) (hc : (cAccess n.toNat).isSome = true) (ha : actionOnly n.toNat = false)
    (h224 : n ≠ 0x224) : exec (.registerWrite k comp n v) s =
      .next { s.cwrite k comp n.toNat v with agenda := (s.cwrite k comp n.toNat v).agenda ++ regActions k comp n.toNat v } := by
  have hne : n.toNat ≠ 0x224 := fun h => h224 (BitVec.eq_of_toNat_eq h)
  rw [exec_registerWrite_low hn, if_neg (Option.isSome_iff_ne_none.mp hc), ha, regStore_of_ne hne]
  simp only [Bool.false_eq_true, if_false]
theorem exec_registerWrite_uvctl : exec (.registerWrite k comp 0x224 v) s = .next { s.cwrite k comp 0x224 v with
    health := (s.cwrite k comp 0x224 v).health.putUvctl s.health.uvctl true
    agenda := (s.cwrite k comp 0x224 v).agenda ++ regActions k comp 0x224 v } := by
  have hnum : (0x224 : BitVec 12).toNat = 0x224 := rfl
  have hacc : cAccess 0x224 ≠ none := by decide
  have hact : actionOnly 0x224 = false := by decide
  rw [exec_registerWrite_low (by decide), hnum, if_neg hacc, hact, regStore_uvctl]
  simp only [Bool.false_eq_true, if_false]
theorem exec_registerWrite_action (hn : n.toNat < 0x800) (hc : (cAccess n.toNat).isSome = true) (ha : actionOnly n.toNat = true) :
    exec (.registerWrite k comp n v) s = .next { s with agenda := s.agenda ++ regActions k comp n.toNat v } := by
  rw [exec_registerWrite_low hn, if_neg (Option.isSome_iff_ne_none.mp hc), ha]
  simp only [if_true]

end

/-! ### TLBINV (R495) -/

theorem rd_map {α : Type} {n : Nat} (v : Vector α n) (f : α → α) {i : Nat} (hi : i < n) (d : α) : rd (v.map f) i d = f (rd v i d) := by
  simp [rd, hi]
/-- A cached translation lies outside the range of TLBINV. -/
def State.outsideTlbinv (s : State) (e : Tlb) : Bool :=
  wb s.tlbinv 15 0 ≠ 0 && (decide (e.va + 2 ^ e.size ≤ wb s.tlbinv 51 16 * 65536) ||
    decide (wb s.tlbinv 51 16 * 65536 + wb s.tlbinv 15 0 * 65536 ≤ e.va))
theorem core_dropTlb (s : State) (k : CoreId) : s.dropTlb.core k =
    if (s.core k).tlb.isEmpty || (s.core k).ctx.getD (wb s.tlbinv 59 52) ≠ wb s.tlbinv 59 52 then s.core k
    else { s.core k with tlb := (s.core k).tlb.filter s.outsideTlbinv } :=
  rd_map s.cores _ k.isLt _
theorem sameRegisters_dropTlb (s : State) : SameRegisters s s.dropTlb := by
  intro k b
  unfold State.strm
  rw [core_dropTlb]
  split
  · exact SameArch.rfl' _
  · cases b
    · exact SameArch.rfl' _
    · exact SameArch.rfl' _
theorem sameMemory_dropTlb (s : State) : SameMemory s s.dropTlb := by
  refine ⟨rfl, rfl, fun k => ?_⟩
  rw [core_dropTlb]
  split
  · exact ⟨rfl, rfl⟩
  · exact ⟨rfl, rfl⟩
/-- What a core of the context still holds lies outside the range. -/
theorem outside_of_mem_dropTlb {s : State} {k : CoreId} (hk : (s.core k).ctx = some (wb s.tlbinv 59 52)) {e : Tlb}
    (he : e ∈ (s.dropTlb.core k).tlb) : s.outsideTlbinv e = true := by
  rw [core_dropTlb, hk] at he
  split at he
  · next hempty =>
    have hnil : (s.core k).tlb = [] := by simpa using hempty
    simp [hnil] at he
  · exact (List.mem_filter.mp he).2
theorem outsideTlbinv_iff (s : State) (e : Tlb) : s.outsideTlbinv e = true ↔ s.tlbinv.toNat % 2 ^ 16 ≠ 0 ∧
    (e.va + 2 ^ e.size ≤ s.tlbinv.toNat / 2 ^ 16 % 2 ^ 36 * 2 ^ 16 ∨
      s.tlbinv.toNat / 2 ^ 16 % 2 ^ 36 * 2 ^ 16 + s.tlbinv.toNat % 2 ^ 16 * 65536 ≤ e.va) := by
  have hn : wb s.tlbinv 15 0 = s.tlbinv.toNat % 2 ^ 16 := congrArg (· % 2 ^ 16) (Nat.div_one _)
  have hlo : wb s.tlbinv 51 16 = s.tlbinv.toNat / 2 ^ 16 % 2 ^ 36 := rfl
  rw [State.outsideTlbinv, hn, hlo, Bool.and_eq_true, Bool.or_eq_true]
  exact and_congr decide_eq_true_iff (or_congr decide_eq_true_iff decide_eq_true_iff)

/-! ### The obligation -/

/-- Settles O55: accesses within one row are one piece; a register is found by its number; TLBINV filters what each core caches. -/
theorem hostAccesses : Obligations.HostAccesses := by
  refine ⟨fun s off len => ⟨fun hmin hwin h0 hrow hb => ?_, fun i op wide v cmp hi hmin => ⟨fun h => ?_, fun h hb => ?_⟩, fun hmin => ?_⟩,
    fun s k comp n v hn => ⟨exec_registerWrite_unassigned hn, exec_registerWrite_banked hn⟩,
    fun s k comp n v hn => ⟨fun hc => ?_, exec_registerWrite_store hn, ?_, exec_registerWrite_action hn⟩, fun s v hb => ?_,
    fun s hb => ⟨{ s.dropTlb with tlbBusy := false }, congrArg Host.Outcome.next (if_pos hb), rfl, sameRegisters_dropTlb s,
      sameMemory_dropTlb s, fun k hk e he => (outsideTlbinv_iff s e).mp (outside_of_mem_dropTlb hk he)⟩⟩
  · have hopen : s.hostOpen off len = true := (hostOpen_iff s off len).mpr ⟨hmin, hwin⟩
    refine ⟨?_, fun data hlen => ?_⟩
    · obtain ⟨x, hs, hop, hpa, hpos⟩ := send_host s (.read len) (s.hostPa off) off
      exact ⟨_, x, exec_hostRead_row hopen h0 hrow hb, hs.accs, hop, hpa, hpos, hs.who, hs.cores, hs.mem⟩
    · subst hlen
      obtain ⟨x, hs, hop, hpa, -⟩ := send_host s (.write (BitVec.ofNat 1024 (leWord data * 2 ^ (8 * (s.hostPa off % 128))))
        (BitVec.ofNat 128 ((2 ^ data.length - 1) * 2 ^ (s.hostPa off % 128)))) (s.hostPa off - s.hostPa off % 128) 0
      exact ⟨_, x, exec_hostWrite_row hopen h0 hrow hb, hs.accs, hs.who, hop, hpa, hs.cores, hs.mem⟩
  · rw [exec_hostAtomic hi, hostAtomic_beyond hmin h]
  · obtain ⟨x, hs, hop, hpa, hpos⟩ := send_host s (.hostAtomic op wide v cmp) (s.hostPa off) off
    exact ⟨_, x, (exec_hostAtomic hi s).trans (congrArg _ (hostAtomic_within hmin h hb op wide v cmp)), hs.accs, hop, hpa, hpos, hs.who,
      hs.cores, hs.mem⟩
  · exact ⟨congrArg Host.Outcome.next (if_pos (by simp [State.hostOpen, hmin])),
      fun data => congrArg Host.Outcome.next (if_pos (by simp [State.hostOpen, hmin]))⟩
  · rw [exec_registerWrite_low hn, if_pos hc]
  · rintro rfl
    exact exec_registerWrite_uvctl
  · show Host.Outcome.next _ = _
    simp only [hb, Bool.false_eq_true, if_false]

end Sys2Proof.Machine

/-!
The residue channels (O27, O28): what a cell's channels hold (R124, R125), that crt_decode undoes forward conversion over any
channels (R126), and what rrns_check answers when at most two channels are wrong (R127).
-/
namespace Sys2Proof.Machine

/-! ### The moduli (R124) -/

theorem modulus_bounds (k : Nat) : 1 < modulus k ∧ modulus k ≤ 256 := by
  rcases Nat.lt_or_ge k 7 with h | h
  · revert k
    decide
  · have hm : modulus k = 256 := by simp [modulus, h]
    omega
theorem modulus_pos (k : Nat) : 0 < modulus k := Nat.zero_lt_of_lt (modulus_bounds k).1
theorem modulus_coprime : ∀ j < 7, ∀ k < 7, j ≠ k → Nat.Coprime (modulus j) (modulus k) := by decide

/-- The product of the moduli of some channels. -/
def span (chs : List Nat) : Nat := (chs.map modulus).prod
theorem span_nil : span [] = 1 := rfl
theorem span_cons (k : Nat) (ks : List Nat) : span (k :: ks) = modulus k * span ks := rfl
theorem span_pos (chs : List Nat) : 0 < span chs := by
  induction chs with
  | nil => exact Nat.one_pos
  | cons k ks ih => exact Nat.mul_pos (modulus_pos k) ih
theorem modulus_mul_span_erase {chs : List Nat} {k : Nat} (hk : k ∈ chs) : modulus k * span (chs.erase k) = span chs :=
  ((List.perm_cons_erase hk).map modulus).prod_nat.symm
theorem modulus_dvd_span {chs : List Nat} {k : Nat} (hk : k ∈ chs) : modulus k ∣ span chs :=
  ⟨_, (modulus_mul_span_erase hk).symm⟩
theorem coprime_span {chs : List Nat} {m : Nat} (h : ∀ k ∈ chs, Nat.Coprime (modulus k) m) : Nat.Coprime (span chs) m := by
  induction chs with
  | nil => exact Nat.coprime_one_left m
  | cons k ks ih => exact (h k List.mem_cons_self).mul_left (ih fun j hj => h j (List.mem_cons_of_mem k hj))

/-- Distinct channels of a cell. -/
structure Channels (chs : List Nat) : Prop where
  nodup : chs.Nodup
  lt    : ∀ k ∈ chs, k < 7

theorem Channels.coprime {chs : List Nat} (h : Channels chs) {j k : Nat} (hj : j ∈ chs) (hk : k ∈ chs) (hne : j ≠ k) :
    Nat.Coprime (modulus j) (modulus k) :=
  modulus_coprime j (h.lt j hj) k (h.lt k hk) hne
theorem Channels.coprime_span_erase {chs : List Nat} (h : Channels chs) {k : Nat} (hk : k ∈ chs) :
    Nat.Coprime (span (chs.erase k)) (modulus k) :=
  coprime_span fun j hj => by
    obtain ⟨hne, hmem⟩ := h.nodup.mem_erase_iff.mp hj
    exact h.coprime hmem hk hne
theorem Channels.tail {k : Nat} {ks : List Nat} (h : Channels (k :: ks)) : Channels ks :=
  ⟨(List.nodup_cons.mp h.nodup).2, fun j hj => h.lt j (List.mem_cons_of_mem k hj)⟩
theorem Channels.filter_range (p : Nat → Bool) : Channels ((List.range 7).filter p) :=
  ⟨List.Pairwise.filter p List.nodup_range, fun _ hk => List.mem_range.mp (List.mem_filter.mp hk).1⟩

theorem Channels.span_dvd {chs : List Nat} (h : Channels chs) {n : Nat} (hd : ∀ k ∈ chs, modulus k ∣ n) : span chs ∣ n := by
  induction chs with
  | nil => exact Nat.one_dvd n
  | cons k ks ih =>
    have hco : Nat.Coprime (span ks) (modulus k) := coprime_span fun j hj =>
      h.coprime (List.mem_cons_of_mem k hj) List.mem_cons_self fun e => (List.nodup_cons.mp h.nodup).1 (e ▸ hj)
    exact hco.symm.mul_dvd_of_dvd_of_dvd (hd k List.mem_cons_self) (ih h.tail fun j hj => hd j (List.mem_cons_of_mem k hj))
/-- Integers that are closer than the span of some channels, and have the same residues in them, are equal. -/
theorem Channels.eq_of_residues {chs : List Nat} (h : Channels chs) {x y : Int} (hd : (x - y).natAbs < span chs)
    (hr : ∀ k ∈ chs, x % modulus k = y % modulus k) : x = y := by
  have hdvd : span chs ∣ (x - y).natAbs := h.span_dvd fun k hk =>
    Int.ofNat_dvd_left.mp (Int.dvd_of_emod_eq_zero (Int.emod_eq_emod_iff_emod_sub_eq_zero.mp (hr k hk)))
  have hzero := Nat.eq_zero_of_dvd_of_lt hdvd hd
  omega

/-! ### What a cell holds (R124, R125) -/

theorem packLanes_lane (w : Nat) (xs : List Nat) (k : Nat) : packLanes w xs / 2 ^ (w * k) % 2 ^ w = xs.getD k 0 % 2 ^ w := by
  induction xs generalizing k with
  | nil => simp [packLanes]
  | cons x xs ih =>
    cases k with
    | zero => simp [packLanes]
    | succ k =>
      have hlow : x % 2 ^ w / 2 ^ w = 0 := Nat.div_eq_of_lt (Nat.mod_lt _ (Nat.two_pow_pos w))
      rw [packLanes, Nat.mul_succ, Nat.add_comm (w * k), Nat.pow_add, ← Nat.div_div_eq_div_mul,
        Nat.add_mul_div_left _ _ (Nat.two_pow_pos w), hlow, Nat.zero_add, ih, List.getD_cons_succ]
theorem residueOf_packRes (rs : List Nat) {k : Nat} (hk : k < 7) : residueOf (packRes rs) k = rs.getD k 0 % 256 := by
  have hw : 2 ^ 56 = 2 ^ (8 * k) * 2 ^ (56 - 8 * k) := by
    rw [← Nat.pow_add]
    congr 1
    omega
  have hb : 256 ∣ 2 ^ (56 - 8 * k) := Nat.pow_dvd_pow 2 (show 8 ≤ 56 - 8 * k by omega)
  rw [residueOf, packRes, BitVec.toNat_ofNat, hw, Nat.mod_mul_right_div_self, Nat.mod_mod_of_dvd _ hb]
  exact packLanes_lane 8 rs k
/-- A cell made channel by channel holds in each what was put there. -/
theorem residueOf_packRes_map {f : Nat → Nat} {k : Nat} (hk : k < 7) (hf : f k < modulus k) :
    residueOf (packRes ((List.range 7).map f)) k = f k := by
  have hlt : f k < 256 := Nat.lt_of_lt_of_le hf (modulus_bounds k).2
  rw [residueOf_packRes _ hk, ← Nat.mod_eq_of_lt hlt]
  simp [hk]

theorem toNat_emod_modulus (v : Int) (k : Nat) : ((v % modulus k).toNat : Int) = v % modulus k :=
  Int.toNat_of_nonneg (Int.emod_nonneg v (by have := modulus_pos k; omega))
theorem toNat_emod_modulus_lt (v : Int) (k : Nat) : (v % modulus k).toNat < modulus k := by
  have := Int.emod_lt_of_pos v (Int.natCast_pos.mpr (modulus_pos k))
  have := toNat_emod_modulus v k
  omega
theorem agrees_iff (v : Int) (cell : BitVec 56) (k : Nat) : agrees v cell k = true ↔ v % modulus k = residueOf cell k := by
  rw [agrees, decide_eq_true_iff, ← Int.natCast_inj, toNat_emod_modulus]
theorem residueOf_residues (v : Int) {k : Nat} (hk : k < 7) : residueOf (residues v) k = (v % modulus k).toNat :=
  residueOf_packRes_map (f := fun j => (v % modulus j).toNat) hk (toNat_emod_modulus_lt v k)

/-- One channel of R125: the residue of a sum comes from the residues of its parts. -/
theorem channel_mul_add (v a b : Int) (k : Nat) :
    ((v % modulus k).toNat + (a % modulus k).toNat * (b % modulus k).toNat) % modulus k = ((v + a * b) % modulus k).toNat := by
  rw [← Int.natCast_inj]
  push_cast
  rw [toNat_emod_modulus, toNat_emod_modulus, toNat_emod_modulus, toNat_emod_modulus, Int.emod_add_emod, Int.add_emod, ← Int.mul_emod,
    ← Int.add_emod]
theorem cellAdd_residues (v a b : Int) : cellAdd (residues v) a b = residues (v + a * b) :=
  congrArg packRes <| List.map_congr_left fun k hk => by
    rw [residueOf_residues v (List.mem_range.mp hk)]
    exact channel_mul_add v a b k

/-! ### Decoding (R126) -/

theorem exists_bezout (a b : Nat) : ∃ x y : Int, a * x + b * y = Nat.gcd a b := by
  induction a, b using Nat.gcd.induction with
  | H0 n => exact ⟨0, 1, by simp⟩
  | H1 m n _ ih =>
    obtain ⟨x, y, h⟩ := ih
    have hn : (n : Int) = m * (n / m : Nat) + (n % m : Nat) := by exact_mod_cast (Nat.div_add_mod n m).symm
    refine ⟨y - (n / m : Nat) * x, x, ?_⟩
    rw [Nat.gcd_rec m n, ← h, Int.mul_sub, ← Int.mul_assoc]
    conv => lhs; rw [hn, Int.add_mul]
    omega
theorem exists_mul_mod_eq_one {a m : Nat} (h : Nat.Coprime a m) (hm : 1 < m) : ∃ x < m, a * x % m = 1 := by
  obtain ⟨x, y, hxy⟩ := exists_bezout a m
  have hm0 : (0 : Int) < m := by omega
  have hx : ((x % m).toNat : Int) = x % m := Int.toNat_of_nonneg (Int.emod_nonneg x (by omega))
  have hlt := Int.emod_lt_of_pos x hm0
  refine ⟨(x % m).toNat, by omega, Int.natCast_inj.mp ?_⟩
  rw [Int.natCast_emod, Int.natCast_mul, hx, Int.mul_emod, Int.emod_emod, ← Int.mul_emod, ← Int.add_mul_emod_self_left _ _ y, hxy,
    h.gcd_eq_one]
  exact Int.emod_eq_of_lt (by decide) (by omega)
theorem mul_modInv {a m : Nat} (h : Nat.Coprime a m) (hm : 1 < m) : a * modInv a m % m = 1 := by
  obtain ⟨x, hx, hax⟩ := exists_mul_mod_eq_one h hm
  have hone : 1 % m = 1 := Nat.mod_eq_of_lt hm
  cases hf : (List.range m).find? (fun x => a * x % m = 1 % m) with
  | none => exact absurd (List.find?_eq_none.mp hf x (List.mem_range.mpr hx)) (by simp [hax, hone])
  | some y =>
    rw [modInv, hf, ← hone]
    exact of_decide_eq_true (List.find?_some (p := fun x => decide (a * x % m = 1 % m)) hf)

/-- The term of channel k in the sum X of crt_decode. -/
def crtTerm (cell : BitVec 56) (p k : Nat) : Nat := residueOf cell k * (p / modulus k) * modInv (p / modulus k % modulus k) (modulus k)
/-- The sum X of crt_decode. -/
def crtSum (cell : BitVec 56) (chs : List Nat) : Nat := (chs.map (crtTerm cell (span chs))).sum

theorem foldl_modulus (chs : List Nat) : chs.foldl (fun p k => p * modulus k) 1 = span chs := by
  rw [span, List.prod_eq_foldl, List.foldl_map]
theorem crtDecode_eq (cell : BitVec 56) (chs : List Nat) : crtDecode cell chs =
    if (span chs - 1) / 2 < crtSum cell chs % span chs then ((crtSum cell chs % span chs : Nat) : Int) - span chs
    else ((crtSum cell chs % span chs : Nat) : Int) := by
  have hsum : crtSum cell chs = chs.foldl (fun x k => x + crtTerm cell (span chs) k) 0 := by
    rw [crtSum, List.sum_eq_foldl, List.foldl_map]
  rw [hsum, ← foldl_modulus]
  rfl

theorem natAbs_crtDecode_le (cell : BitVec 56) (chs : List Nat) : (crtDecode cell chs).natAbs ≤ span chs / 2 := by
  have hlt := Nat.mod_lt (crtSum cell chs) (span_pos chs)
  rw [crtDecode_eq]
  split
  · omega
  · omega

theorem span_div_modulus {chs : List Nat} {k : Nat} (hk : k ∈ chs) : span chs / modulus k = span (chs.erase k) :=
  Nat.div_eq_of_eq_mul_right (modulus_pos k) (modulus_mul_span_erase hk).symm
/-- The term of a channel has the channel's residue there, and none in the other channels. -/
theorem Channels.crtTerm_mod_self {chs : List Nat} (h : Channels chs) (cell : BitVec 56) {k : Nat} (hk : k ∈ chs) :
    crtTerm cell (span chs) k % modulus k = residueOf cell k % modulus k := by
  have hco : Nat.Coprime (span (chs.erase k) % modulus k) (modulus k) :=
    (Nat.gcd_rec (modulus k) (span (chs.erase k))).symm.trans (h.coprime_span_erase hk).symm
  have hinv : span (chs.erase k) * modInv (span (chs.erase k) % modulus k) (modulus k) % modulus k = 1 := by
    rw [← Nat.mod_mul_mod, mul_modInv hco (modulus_bounds k).1]
  rw [crtTerm, span_div_modulus hk, Nat.mul_assoc, Nat.mul_mod, hinv, Nat.mul_one, Nat.mod_mod]
theorem modulus_dvd_crtTerm (cell : BitVec 56) {chs : List Nat} {j k : Nat} (hj : j ∈ chs) (hk : k ∈ chs) (hne : j ≠ k) :
    modulus j ∣ crtTerm cell (span chs) k := by
  rw [crtTerm, span_div_modulus hk]
  exact Nat.dvd_mul_right_of_dvd (Nat.dvd_mul_left_of_dvd (modulus_dvd_span ((List.mem_erase_of_ne hne).mpr hj)) _) _
theorem dvd_sum_map {m : Nat} {f : Nat → Nat} {l : List Nat} (h : ∀ x ∈ l, m ∣ f x) : m ∣ (l.map f).sum := by
  induction l with
  | nil => exact Nat.dvd_zero m
  | cons x xs ih => exact Nat.dvd_add (h x List.mem_cons_self) (ih fun y hy => h y (List.mem_cons_of_mem x hy))
theorem Channels.crtSum_mod {chs : List Nat} (h : Channels chs) (cell : BitVec 56) {k : Nat} (hk : k ∈ chs) :
    crtSum cell chs % modulus k = residueOf cell k % modulus k := by
  have hsum : crtSum cell chs = crtTerm cell (span chs) k + ((chs.erase k).map (crtTerm cell (span chs))).sum :=
    ((List.perm_cons_erase hk).map _).sum_nat
  obtain ⟨c, hrest⟩ : modulus k ∣ ((chs.erase k).map (crtTerm cell (span chs))).sum := dvd_sum_map fun j hj => by
    obtain ⟨hne, hmem⟩ := h.nodup.mem_erase_iff.mp hj
    exact modulus_dvd_crtTerm cell hk hmem hne.symm
  rw [hsum, hrest, Nat.add_mul_mod_self_left, h.crtTerm_mod_self cell hk]
/-- The decoded value has the residue of each channel that it was decoded from. -/
theorem Channels.crtDecode_emod {chs : List Nat} (h : Channels chs) (cell : BitVec 56) {k : Nat} (hk : k ∈ chs) :
    crtDecode cell chs % modulus k = ((residueOf cell k % modulus k : Nat) : Int) := by
  have hdvd : modulus k ∣ span chs := modulus_dvd_span hk
  have hX : ((crtSum cell chs % span chs : Nat) : Int) % modulus k = ((residueOf cell k % modulus k : Nat) : Int) := by
    rw [← Int.natCast_emod, Nat.mod_mod_of_dvd _ hdvd, h.crtSum_mod cell hk]
  have hp : (span chs : Int) % modulus k = 0 := Int.emod_eq_zero_of_dvd (Int.natCast_dvd_natCast.mpr hdvd)
  rw [crtDecode_eq]
  split
  · rw [Int.sub_emod, hp, Int.sub_zero, Int.emod_emod, hX]
  · exact hX

/-! ### Values within the half-range (R124, R128) -/

theorem hact_none : hact none = 348820667180 := rfl
/-- Without any two channels the others still span more than the values of the half-range, since both check moduli exceed every
primary (R124). -/
theorem hact_lt_span : ∀ k < 7, ∀ l < 7, 2 * hact none < span ((List.range 7).filter fun j => j ≠ k ∧ j ≠ l) := by decide
/-- Values of the half-range that differ in two channels at most are equal. -/
theorem eq_of_residues_but_two {x y : Int} {k l : Nat} (hx : x.natAbs ≤ hact none) (hy : y.natAbs ≤ hact none) (hk : k < 7) (hl : l < 7)
    (h : ∀ j < 7, j ≠ k → j ≠ l → x % modulus j = y % modulus j) : x = y := by
  refine (Channels.filter_range fun j => j ≠ k ∧ j ≠ l).eq_of_residues ?_ fun j hj => ?_
  · have := hact_lt_span k hk l hl
    omega
  · obtain ⟨hj7, hne⟩ := List.mem_filter.mp hj
    obtain ⟨hjk, hjl⟩ := of_decide_eq_true hne
    exact h j (List.mem_range.mp hj7) hjk hjl

/-- The channels that rrns_check decodes from when it leaves out channel k. -/
def survivors (k : Nat) : List Nat := ((List.range 6).filter (· ≠ k)).take 5
theorem mem_survivors {j k : Nat} (h : j ∈ survivors k) : j < 7 ∧ j ≠ k := by
  obtain ⟨hj, hne⟩ := List.mem_filter.mp (List.mem_of_mem_take h)
  exact ⟨by have := List.mem_range.mp hj; omega, of_decide_eq_true hne⟩
theorem channels_survivors (k : Nat) : Channels (survivors k) :=
  ⟨(List.Pairwise.filter _ List.nodup_range).sublist (List.take_sublist _ _), fun _ h => (mem_survivors h).1⟩
theorem hact_lt_span_survivors : ∀ k < 7, hact none + span (survivors k) / 2 < span (survivors k) := by decide
/-- A value of the half-range is decoded from the channels other than k when the cell holds its residues there. -/
theorem crtDecode_survivors {cell : BitVec 56} {v : Int} {k : Nat} (hv : v.natAbs ≤ hact none) (hk : k < 7)
    (h : ∀ j < 7, j ≠ k → agrees v cell j = true) : crtDecode cell (survivors k) = v := by
  refine (channels_survivors k).eq_of_residues ?_ fun j hj => ?_
  · have := natAbs_crtDecode_le cell (survivors k)
    have := hact_lt_span_survivors k hk
    omega
  · obtain ⟨hj7, hne⟩ := mem_survivors hj
    have hagree := (agrees_iff v cell j).mp (h j hj7 hne)
    rw [(channels_survivors k).crtDecode_emod cell hj, Int.natCast_emod, ← hagree, Int.emod_emod]
/-- The value of the primary channels lies in the half-range. -/
theorem natAbs_crtDecode_primaries (cell : BitVec 56) : (crtDecode cell [0, 1, 2, 3, 4]).natAbs ≤ hact none :=
  natAbs_crtDecode_le cell [0, 1, 2, 3, 4]

/-! ### Checking (R127) -/

/-- What rrns_check finds when it leaves out channel k. -/
def repair (cell : BitVec 56) (k : Nat) : Option (Int × Nat) :=
  let y := crtDecode cell (survivors k)
  if y.natAbs ≤ hact none && ((List.range 7).filter (· ≠ k)).all (agrees y cell) then some (y, k) else none
theorem all_agrees_iff (y : Int) (cell : BitVec 56) (k : Nat) :
    ((List.range 7).filter (· ≠ k)).all (agrees y cell) = true ↔ ∀ j < 7, j ≠ k → agrees y cell j = true := by
  simp only [List.all_eq_true, List.mem_filter, List.mem_range, decide_eq_true_iff]
  exact ⟨fun h j hj hne => h j ⟨hj, hne⟩, fun h j hj => h j hj.1 hj.2⟩
theorem repair_eq_some {cell : BitVec 56} {v : Int} {k : Nat} (hv : v.natAbs ≤ hact none) (hk : k < 7)
    (h : ∀ j < 7, j ≠ k → agrees v cell j = true) : repair cell k = some (v, k) := by
  simp only [repair, crtDecode_survivors hv hk h]
  exact if_pos (Bool.and_eq_true_iff.mpr ⟨decide_eq_true hv, (all_agrees_iff v cell k).mpr h⟩)
/-- A channel is not repaired when another one is wrong. -/
theorem repair_eq_none {cell : BitVec 56} {v : Int} {j k : Nat} (hv : v.natAbs ≤ hact none) (hk : k < 7) (hj : j < 7) (hne : j ≠ k)
    (h : ∀ i < 7, i ≠ k → agrees v cell i = true) (hbad : ¬ agrees v cell k = true) : repair cell j = none := by
  refine if_neg fun hc => hbad ?_
  obtain ⟨hy, hall⟩ := Bool.and_eq_true_iff.mp hc
  rw [all_agrees_iff] at hall
  have hyv : crtDecode cell (survivors j) = v := eq_of_residues_but_two (of_decide_eq_true hy) hv hj hk fun i hi hij hik =>
    ((agrees_iff _ cell i).mp (hall i hi hij)).trans ((agrees_iff v cell i).mp (h i hi hik)).symm
  rw [← hyv]
  exact hall k hk hne.symm

/-- The value of the primaries agrees with both check channels. -/
def Consistent (cell : BitVec 56) : Prop :=
  agrees (crtDecode cell [0, 1, 2, 3, 4]) cell 5 = true ∧ agrees (crtDecode cell [0, 1, 2, 3, 4]) cell 6 = true
theorem rrnsCheck_consistent {cell : BitVec 56} (h : Consistent cell) : rrnsCheck cell none = .ok (crtDecode cell [0, 1, 2, 3, 4]) := by
  unfold rrnsCheck
  extract_lets x
  rw [if_pos (Bool.and_eq_true_iff.mpr h : (agrees x cell 5 && agrees x cell 6) = true)]
/-- The answer OK is given to consistent cells alone. -/
theorem rrnsCheck_ne_ok {cell : BitVec 56} (h : ¬ Consistent cell) (u : Int) : rrnsCheck cell none ≠ .ok u := by
  unfold rrnsCheck
  extract_lets x hits
  rw [if_neg fun hb : (agrees x cell 5 && agrees x cell 6) = true => h (Bool.and_eq_true_iff.mp hb)]
  generalize hits = found
  match found with
  | [] => exact RnsRes.noConfusion
  | [_] => exact RnsRes.noConfusion
  | _ :: _ :: _ => exact RnsRes.noConfusion
/-- An inconsistent cell with one way to repair it is corrected. -/
theorem rrnsCheck_corrected {cell : BitVec 56} {v : Int} {k : Nat} (h : ¬ Consistent cell)
    (hone : (List.range 7).filterMap (repair cell) = [(v, k)]) : rrnsCheck cell none = .corrected v k := by
  unfold rrnsCheck
  extract_lets x hits
  have hhits : hits = [(v, k)] := hone
  rw [if_neg fun hb : (agrees x cell 5 && agrees x cell 6) = true => h (Bool.and_eq_true_iff.mp hb), hhits]

/-- Where f keeps one element of a list only, filterMap leaves what it makes of that one. -/
theorem filterMap_eq_singleton {α β : Type} {f : α → Option β} {l : List α} {a : α} {b : β} (hl : l.Nodup) (ha : a ∈ l)
    (hb : f a = some b) (h : ∀ x ∈ l, x ≠ a → f x = none) : l.filterMap f = [b] := by
  obtain ⟨s, t, rfl⟩ := List.append_of_mem ha
  obtain ⟨-, hat, hdisjoint⟩ := List.nodup_append.mp hl
  obtain ⟨hnot, -⟩ := List.nodup_cons.mp hat
  have hs : s.filterMap f = [] := List.filterMap_eq_nil_iff.mpr fun x hx =>
    h x (List.mem_append_left _ hx) (hdisjoint x hx a List.mem_cons_self)
  have ht : t.filterMap f = [] := List.filterMap_eq_nil_iff.mpr fun x hx =>
    h x (List.mem_append_right _ (List.mem_cons_of_mem a hx)) fun e => hnot (e ▸ hx)
  rw [List.filterMap_append, List.filterMap_cons_some hb, hs, ht, List.nil_append]

/-! ### Cells with wrong channels -/

/-- Every channel of the cell holds a residue of its modulus. -/
def Reduced (cell : BitVec 56) : Prop := ∀ j < 7, residueOf cell j < modulus j
/-- A consistent cell decodes to a value that agrees with all its channels. -/
theorem Consistent.agrees_all {cell : BitVec 56} (h : Consistent cell) (hr : Reduced cell) {j : Nat} (hj : j < 7) :
    agrees (crtDecode cell [0, 1, 2, 3, 4]) cell j = true := by
  obtain ⟨h5, h6⟩ := h
  rcases Nat.lt_or_ge j 5 with hp | hp
  · have hmem : j ∈ survivors 6 := (show ∀ j < 5, j ∈ survivors 6 by decide) j hp
    rw [agrees_iff, ← Nat.mod_eq_of_lt (hr j hj)]
    exact (channels_survivors 6).crtDecode_emod cell hmem
  · obtain rfl | rfl : j = 5 ∨ j = 6 := by omega
    · exact h5
    · exact h6
/-- A cell with one or two wrong channels is inconsistent. -/
theorem not_consistent_of_wrong {cell : BitVec 56} {v : Int} {k l : Nat} (hr : Reduced cell) (hv : v.natAbs ≤ hact none) (hk : k < 7)
    (hl : l < 7) (h : ∀ j < 7, j ≠ k → j ≠ l → agrees v cell j = true) (hbad : ¬ agrees v cell k = true) : ¬ Consistent cell := by
  intro hc
  have hxv : crtDecode cell [0, 1, 2, 3, 4] = v :=
    eq_of_residues_but_two (natAbs_crtDecode_primaries cell) hv hk hl fun j hj hjk hjl =>
      ((agrees_iff _ cell j).mp (hc.agrees_all hr hj)).trans ((agrees_iff v cell j).mp (h j hj hjk hjl)).symm
  exact hbad (hxv ▸ hc.agrees_all hr hk)

theorem reduced_packRes {f : Nat → Nat} (hf : ∀ j < 7, f j < modulus j) : Reduced (packRes ((List.range 7).map f)) := fun j hj => by
  rw [residueOf_packRes_map hj (hf j hj)]
  exact hf j hj
theorem agrees_packRes {f : Nat → Nat} {j : Nat} (hj : j < 7) (hf : f j < modulus j) (v : Int) :
    agrees v (packRes ((List.range 7).map f)) j = true ↔ f j = (v % modulus j).toNat := by
  rw [agrees, decide_eq_true_iff, residueOf_packRes_map hj hf, eq_comm]
theorem agrees_residues (v : Int) {j : Nat} (hj : j < 7) : agrees v (residues v) j = true :=
  decide_eq_true (residueOf_residues v hj).symm

/-- A residue put in place of channel k's leaves every channel with a residue of its modulus. -/
theorem ite_lt_modulus {j k r x : Nat} (hr : r < modulus k) (hx : x < modulus j) : (if j = k then r else x) < modulus j := by
  split
  · next e => exact e ▸ hr
  · exact hx

/-- A cell with one wrong channel is corrected there. -/
theorem rrnsCheck_one_wrong {cell : BitVec 56} {v : Int} {k : Nat} (hr : Reduced cell) (hv : v.natAbs ≤ hact none) (hk : k < 7)
    (h : ∀ j < 7, j ≠ k → agrees v cell j = true) (hbad : ¬ agrees v cell k = true) : rrnsCheck cell none = .corrected v k :=
  rrnsCheck_corrected (not_consistent_of_wrong hr hv hk hk (fun j hj hjk _ => h j hj hjk) hbad) <|
    filterMap_eq_singleton List.nodup_range (List.mem_range.mpr hk) (repair_eq_some hv hk h) fun _ hj hne =>
      repair_eq_none hv hk (List.mem_range.mp hj) hne h hbad

/-! ### The obligations -/

/-- Settles O27: the primaries decode to the value, which both check channels confirm; a product is added channel by channel. -/
theorem residuesExact : Obligations.ResiduesExact := by
  refine ⟨fun v hv => ?_, cellAdd_residues⟩
  have hx : crtDecode (residues v) [0, 1, 2, 3, 4] = v :=
    crtDecode_survivors (k := 6) hv (by decide) fun j hj _ => agrees_residues v hj
  have hc : Consistent (residues v) := by
    rw [Consistent, hx]
    exact ⟨agrees_residues v (by decide), agrees_residues v (by decide)⟩
  rw [rrnsCheck_consistent hc, hx]

/-- Settles O28: two values of the half-range that agree in five channels are equal, so that a cell with one or two wrong channels
is inconsistent, and no removal but that of the one wrong channel makes it consistent. -/
theorem channelErrorsDetected : Obligations.ChannelErrorsDetected := by
  refine ⟨rfl, rfl, hact_none, natAbs_crtDecode_primaries, fun v k r hv hk hr hne => ?_,
    fun v k l r q hv hk hl _ hr hq hne _ u => ?_⟩
  · have hf : ∀ j < 7, (if j = k then r else (v % modulus j).toNat) < modulus j := fun j _ =>
      ite_lt_modulus hr (toNat_emod_modulus_lt v j)
    refine rrnsCheck_one_wrong (reduced_packRes hf) hv hk (fun j hj hjk => ?_) fun hag => ?_
    · exact (agrees_packRes hj (hf j hj) v).mpr (if_neg hjk)
    · exact hne (by simpa using (agrees_packRes hk (hf k hk) v).mp hag)
  · have hf : ∀ j < 7, (if j = k then r else if j = l then q else (v % modulus j).toNat) < modulus j := fun j _ =>
      ite_lt_modulus hr (ite_lt_modulus hq (toNat_emod_modulus_lt v j))
    refine rrnsCheck_ne_ok (not_consistent_of_wrong (reduced_packRes hf) hv hk hl (fun j hj hjk hjl => ?_) fun hag => ?_) u
    · exact (agrees_packRes hj (hf j hj) v).mpr ((if_neg hjk).trans (if_neg hjl))
    · exact hne (by simpa using (agrees_packRes hk (hf k hk) v).mp hag)

end Sys2Proof.Machine

/-!
V slots (O24, O26): the one meaning that their forms share, the slot that waits for the earlier stage of its bundle (R187, R192), and
the landing of a row and of a mask pair (R184, R185, R201).
-/
namespace Sys2Proof.Machine

/-! ### Taking a place leaves what is in flight -/

/-- The stream in focus stands at the same instant with the same entries in flight. -/
structure SameFlight (s t : State) : Prop where
  pend : t.me.pend = s.me.pend
  inst : t.me.inst = s.me.inst

theorem SameFlight.trans {s t u : State} (h : SameFlight s t) (g : SameFlight t u) : SameFlight s u :=
  ⟨g.pend.trans h.pend, g.inst.trans h.inst⟩
theorem sameFlight_modCur (s : State) (f : Core → Core) (h : ∀ c : Core, (f c).prim = c.prim ∧ (f c).comp = c.comp) :
    SameFlight s (s.modCur f) := by
  have hm := me_modCur s f h
  exact ⟨by rw [hm], by rw [hm]⟩
theorem sameFlight_holdFor (s : State) (n : Nat) : SameFlight s (s.holdFor n) :=
  ⟨by simp only [State.holdFor, me_modMe], by simp only [State.holdFor, me_modMe]⟩
theorem sameFlight_occupy (s : State) (sh : Shape) : SameFlight s (s.occupy sh) := by
  have hc : SameFlight s (s.charge sh.weight) := sameFlight_modCur s _ fun _ => ⟨rfl, rfl⟩
  simp only [State.occupy]
  split
  · exact hc
  · split
    · exact hc.trans (sameFlight_holdFor _ _)
    · split
      · exact hc.trans (sameFlight_modCur _ _ fun _ => ⟨rfl, rfl⟩)
      · exact hc
/-- Taking its place changes nothing that is in flight. -/
theorem sameFlight_placed (s : State) (i : Instr) : SameFlight s (s.placed i) := by
  simp only [State.placed, State.fixSegment]
  split
  · exact (sameFlight_occupy s i.shape).trans (sameFlight_modCur _ _ fun _ => ⟨rfl, rfl⟩)
  · exact sameFlight_occupy s i.shape
@[simp] theorem placed_pend (s : State) (i : Instr) : (s.placed i).me.pend = s.me.pend := (sameFlight_placed s i).pend
@[simp] theorem placed_inst (s : State) (i : Instr) : (s.placed i).me.inst = s.me.inst := (sameFlight_placed s i).inst
@[simp] theorem placed_upstream (s : State) (i : Instr) (slot : Nat) : (s.placed i).upstream slot = s.upstream slot := by
  simp only [State.upstream, placed_focus, placed_pend, placed_inst]
@[simp] theorem placed_vDst (s : State) (i : Instr) (d : VSel) : (s.placed i).vDst d = s.vDst d := by
  simp only [State.vDst, Core.vNum, placed_focus, (sameRegs_placed s i).loop]

/-! ### The forms of a V slot -/

/-- Every form runs the one meaning of a V slot, with its stage and its operation; a compare names its mask pair as the destination,
and an operation of one source has 0 for the other. -/
theorem exec_vectorForms (s : State) (h : VHdr) (d a b : VSel) (md : MReg) (rm : VRm) (rmi : Rm) (fr : VType) (kk : BitVec 6)
    (hi zx : Bool) (op : ScanOp) : ∀ f ∈ vectorForms h d a b md rm rmi fr kk hi zx op, exec f.1 s = .next (runSlot f.1 s fun u =>
      u.vslot f.2.1 f.2.2 h (if f.2.2.isCmp then md.setWidth 6 else d) a (if f.2.2.readsB then b else 0)) :=
  List.map_inj_left.mp rfl
theorem srcs_ite_readsB (k : VKind) (a b c : VSel) : k.srcs a (if k.readsB then b else c) = k.srcs a b := by
  unfold VKind.srcs
  split
  · rfl
  · rfl
theorem streams_ite_readsB (k : VKind) (a b c : VSel) : k.streams a (if k.readsB then b else c) = k.streams a b := by
  rw [VKind.streams, srcs_ite_readsB, VKind.streams]

/-! ### A slot fed by the earlier stage (R187, R192) -/

/-- Where a V slot's result goes that goes to no stream. -/
def State.slotDst (s : State) (k : VKind) (d : VSel) : VDst := if k.isCmp then .mask (d.toNat % 16) else s.vDst d
/-- The V slot that waits for the earlier stage: its operands but the one that is fed. -/
def State.fedOp (s : State) (stage : Nat) (k : VKind) (h : VHdr) (d a b : VSel) : VOp where
  stage := stage
  kind := k
  w := h.w
  t := h.t
  m := s.m h.m
  a := s.vin a
  b := if k.readsB then s.vin b else 0
  d := if k.readsDest then s.vin d else 0
  casA := cascadeSel (2 + stage) = some a
  casB := k.readsB && cascadeSel (2 + stage) = some b
  dst := s.slotDst k d

theorem slotDst_mask_ite (s : State) (k : VKind) (md : MReg) (d : VSel) :
    s.slotDst k (if k.isCmp then md.setWidth 6 else d) = if k.isCmp then .mask md.toNat else s.vDst d := by
  cases hc : k.isCmp
  · simp [State.slotDst, hc]
  · simpa [State.slotDst, hc] using md.isLt
theorem fedOp_casB (s : State) (stage : Nat) (k : VKind) (h : VHdr) (d a b : VSel) :
    (s.fedOp stage k h d a b).casB = (k.readsB && decide (cascadeSel (2 + stage) = some b)) := rfl
theorem fedOp_dst (s : State) (stage : Nat) (k : VKind) (h : VHdr) (d a b : VSel) :
    (s.fedOp stage k h d a b).dst = s.slotDst k d := rfl
/-- Some source of the slot is the one fed: the first, or the second where the operation reads it. -/
theorem fed_iff {k : VKind} {a b : VSel} {o : Option VSel} :
    (∃ x ∈ k.srcs a b, o = some x) ↔ (decide (o = some a) || (k.readsB && decide (o = some b))) = true := by
  cases hb : k.readsB
  · simp [VKind.srcs, hb]
  · simp [VKind.srcs, hb]

/-- A slot that the earlier stage feeds, and that names no stream register, waits for that stage's result. -/
theorem vslot_fed {s : State} {stage : Nat} {k : VKind} {d a b : VSel} {e : Pend} (h : VHdr) (hup : s.upstream (2 + stage) = some e)
    (hq : k.streams a b = []) (hfed : ∃ x ∈ k.srcs a b, cascadeSel (2 + stage) = some x) (hd : k.isCmp = true ∨ d.isQ = false) :
    s.vslot stage k h d a b =
      s.later (2 + stage) (e.lands.2 - s.me.inst) (.vop (s.fedOp stage k h d a b) (1 + stage) none) := by
  unfold State.vslot
  extract_lets slot lat srcs qs bad row va vb vd m up cas casA casB s₁ op lag gone dst n r en s₂
  have hqs : qs = [] := hq
  have hbad : bad = [] := by simp only [bad, hqs, List.filterMap_nil, List.mergeSort_nil]
  have hs₁ : s₁ = s := by simp only [s₁, hqs, List.foldl_nil]
  have hA : casA = decide (cascadeSel (2 + stage) = some a) := by simp [casA, cas, up, slot, hup]
  have hB : casB = (k.readsB && decide (cascadeSel (2 + stage) = some b)) := by simp [casB, cas, up, slot, hup]
  have hcas : (casA || casB) = true := by
    rw [hA, hB]
    exact fed_iff.mp hfed
  have hlag : lag = e.lands.2 - s.me.inst := by simp only [lag, hcas, if_true, up, slot, hup, hs₁]
  have hdst : dst s = (s, some (s.slotDst k d)) := by
    rcases hd with hc | hd
    · simp only [dst, State.slotDst, hc, if_true]
    · simp only [dst, State.slotDst, State.claimDst, hd, Bool.not_false, if_true]
      split
      · rfl
      · rfl
  have hop : op (s.slotDst k d) = s.fedOp stage k h d a b := by
    simp only [op, hA, hB]
    rfl
  have hsrc : slot - 1 = 1 + stage := by omega
  clear_value bad s₁ lag dst op casA casB
  subst hbad hs₁
  simp only [hcas, if_true, hdst, hlag, hop, hsrc]
  rfl

/-- Settles O24: every form runs the V slot's one meaning, which waits for the stage that feeds it. -/
theorem vectorCascade : Obligations.VectorCascade := by
  intro s h d a b md rm rmi fr kk hi zx op f hf hgo e hup k hq hfed hd
  have hfed' : ∃ x ∈ k.srcs a (if k.readsB then b else 0), cascadeSel (2 + f.2.1) = some x := by rwa [srcs_ite_readsB]
  have hdst : ((if k.isCmp then md.setWidth 6 else d) : VSel).isQ = false ∨ k.isCmp = true := by
    split
    · next hc => exact .inr hc
    · next hc => exact .inl (hd.resolve_left hc)
  refine ⟨(s.placed f.1).fedOp f.2.1 k h (if k.isCmp then md.setWidth 6 else d) a (if k.readsB then b else 0), ?_, rfl, rfl, rfl,
    placed_m s f.1 h.m, rfl, decide_eq_true_iff, ?_, ?_⟩
  · have hslot := vslot_fed h ((placed_upstream s f.1 _).trans hup) ((streams_ite_readsB k a b 0).trans hq) hfed' hdst.symm
    rw [placed_inst] at hslot
    rw [exec_vectorForms s h d a b md rm rmi fr kk hi zx op f hf, runSlot_goes _ _ _ hgo]
    exact congrArg Host.Outcome.next hslot
  · rw [fedOp_casB, Bool.and_eq_true, decide_eq_true_iff]
    exact and_congr_right fun hb => by rw [if_pos hb]
  · rw [fedOp_dst, slotDst_mask_ite, placed_vDst]

/-! ### Bytes of a merged row (R184) -/

theorem lane_eq_extractLsb' (w : Nat) (r : Row) (i : Nat) : lane w r i = (r.extractLsb' (w * i) w).toNat := by
  rw [lane, BitVec.extractLsb'_toNat, Nat.shiftRight_eq_div_pow]
theorem lane_ofNat {w k : Nat} (n : Nat) (hk : w * k + w ≤ 1024) : lane w (BitVec.ofNat 1024 n) k = n / 2 ^ (w * k) % 2 ^ w := by
  have hbits : (BitVec.ofNat 1024 n).extractLsb' (w * k) w = BitVec.ofNat w (n >>> (w * k)) := by
    refine BitVec.eq_of_getLsbD_eq fun j hj => ?_
    have hlt : w * k + j < 1024 := by omega
    simp only [BitVec.getLsbD_extractLsb', BitVec.getLsbD_ofNat, Nat.testBit_shiftRight, hj, hlt, decide_true, Bool.true_and]
  rw [lane_eq_extractLsb', hbits, BitVec.toNat_ofNat, Nat.shiftRight_eq_div_pow]
/-- Lane k of a row made lane by lane, where it lies within the row. -/
theorem lane_packLanes {w k : Nat} (xs : List Nat) (hk : w * k + w ≤ 1024) :
    lane w (BitVec.ofNat 1024 (packLanes w xs)) k = xs.getD k 0 % 2 ^ w :=
  (lane_ofNat _ hk).trans (packLanes_lane w xs k)
theorem foldr_eq_packLanes {f : Nat → Nat} (hf : ∀ i, f i < 256) (xs : List Nat) :
    xs.foldr (fun i x => f i + 256 * x) 0 = packLanes 8 (xs.map f) := by
  induction xs with
  | nil => rfl
  | cons i xs ih =>
    have hx : f i % 2 ^ 8 = f i := Nat.mod_eq_of_lt (hf i)
    rw [List.foldr_cons, ih, List.map_cons, packLanes]
    exact congrArg (· + 256 * packLanes 8 (xs.map f)) hx.symm
theorem mergeRow_eq (old new : Row) (en : Mask) : mergeRow old new en = (old &&& ~~~spreadMask en) ||| (new &&& spreadMask en) := by
  have hlt (i : Nat) : (if en.getLsbD i then 255 else 0) < 256 := by
    split
    · decide
    · decide
  rw [mergeRow, foldr_eq_packLanes hlt]
  rfl
theorem extractLsb'_spreadMask (en : Mask) {i : Nat} (hi : i < 128) :
    (spreadMask en).extractLsb' (8 * i) 8 = if en.getLsbD i then BitVec.allOnes 8 else 0#8 := by
  apply BitVec.eq_of_toNat_eq
  rw [← lane_eq_extractLsb', spreadMask, lane_packLanes _ (by omega)]
  simp only [List.getD_eq_getElem?_getD, List.getElem?_map, List.getElem?_range hi, Option.map_some, Option.getD_some]
  split
  · rfl
  · rfl
theorem getLsbD_spreadMask (en : Mask) {i j : Nat} (hi : i < 128) (hj : j < 8) :
    (spreadMask en).getLsbD (8 * i + j) = en.getLsbD i := by
  have h := congrArg (·.getLsbD j) (extractLsb'_spreadMask en hi)
  simp only [BitVec.getLsbD_extractLsb', hj, decide_true, Bool.true_and] at h
  rw [h]
  split
  · next he => rw [he, BitVec.getLsbD_allOnes, decide_eq_true hj]
  · next he => rw [BitVec.getLsbD_zero, eq_false_of_ne_true he]
/-- A byte of a merged row is the new row's where the mask enables it, and else the old row's. -/
theorem lane_mergeRow (old new : Row) (en : Mask) {i : Nat} (hi : i < 128) :
    lane 8 (mergeRow old new en) i = if en.getLsbD i then lane 8 new i else lane 8 old i := by
  simp only [lane_eq_extractLsb', ← apply_ite BitVec.toNat]
  congr 1
  refine BitVec.eq_of_getLsbD_eq fun j hj => ?_
  have hlt : 8 * i + j < 1024 := by omega
  simp only [mergeRow_eq, BitVec.getLsbD_extractLsb', BitVec.getLsbD_or, BitVec.getLsbD_and, BitVec.getLsbD_not,
    getLsbD_spreadMask en hi hj, hj, hlt, decide_true, Bool.true_and]
  cases en.getLsbD i
  · simp [hj]
  · simp [hj]

/-! ### One result lands alone (R65) -/

/-- The one entry in flight of a core that is due lands, and nothing follows it. -/
theorem exec_landing_alone {s : State} {k : CoreId} {e : Pend} {f : Strm → Strm} (hp : (s.core k).prim.pend = [e])
    (hc : (s.core k).comp.pend = []) (hdue : e.due ≤ (s.core k).prim.inst) (hland : s.landOne k false e = s.modStrm k false f)
    (hf : (f (s.core k).prim).pend = []) : exec (.inFlightResultLanding k) s = .next (s.modStrm k false f) := by
  have hnone : ((s.core k).modStrm false f).nextDue = none :=
    nextDue_eq_none (by simp [Core.modStrm, Core.setStrm, Core.strm, hf]) (by simp [Core.modStrm, Core.setStrm, hc])
  show Host.Outcome.next (s.landDue k (2 * ((s.core k).prim.pend.length + (s.core k).comp.pend.length))) = _
  simp [hp, hc, State.landDue, nextDue_eq_some hp hc hdue, hland, State.modStrm, hnone]

/-- The stream once the one row in flight has landed in v register n, out of a slot of stage st. -/
def Strm.withRow (t : Strm) (n st : Nat) (r : Row) (en : Mask) : Strm :=
  let x := mergeRow (rd t.v n 0) r en
  { t with pend := [], v := wr t.v n x }.enterJ st x
/-- The stream once the one mask pair in flight has landed. -/
def Strm.withMasks (t : Strm) (n : Nat) (r en : Mask) : Strm := { t with pend := [] }.putMasks n r en

theorem withRow_v (t : Strm) (n st : Nat) (r : Row) (en : Mask) :
    (t.withRow n st r en).v = wr t.v n (mergeRow (rd t.v n 0) r en) := rfl
theorem withRow_j (t : Strm) (n st : Nat) (r : Row) (en : Mask) : (t.withRow n st r en).j =
    wr (wr t.j (2 * st + 1) (rd t.j (2 * st) 0)) (2 * st) (mergeRow (rd t.v n 0) r en) := rfl

theorem landOne_row {s : State} {k : CoreId} {e : Pend} {n st : Nat} {r : Row} {en : Mask} (hp : (s.core k).prim.pend = [e])
    (he : e.eff = .vec (.v n) r en (some st)) (hs : (s.core k).seg.snap = none) :
    s.landOne k false e = s.modStrm k false (·.withRow n st r en) := by
  simp only [State.landOne, Bool.false_eq_true, if_false, State.landEff, he, State.landVec, State.modStrm, modCore_modCore]
  refine modCore_congr ?_
  simp [State.strm, Core.modStrm, Core.setStrm, Core.strm, Strm.withRow, Strm.merged, Strm.putV, hs, hp]
theorem landOne_masks {s : State} {k : CoreId} {e : Pend} {n : Nat} {r en : Mask} (hp : (s.core k).prim.pend = [e])
    (he : e.eff = .mask n r en) (hs : (s.core k).seg.snap = none) :
    s.landOne k false e = s.modStrm k false (·.withMasks n r en) := by
  simp only [State.landOne, Bool.false_eq_true, if_false, State.landEff, he, State.modStrm, modCore_modCore]
  refine modCore_congr ?_
  simp [Core.modStrm, Core.setStrm, Core.strm, Strm.withMasks, hs, hp]

/-! ### What a mask pair becomes (R201) -/

/-- The mask register once a mask has been merged into it lane by lane. -/
def mergeMask (old new en : Mask) : Mask := (old &&& ~~~en) ||| (new &&& en)
theorem getLsbD_mergeMask (old new en : Mask) (i : Nat) :
    (mergeMask old new en).getLsbD i = if en.getLsbD i then new.getLsbD i else old.getLsbD i := by
  rcases Nat.lt_or_ge i 128 with hi | hi
  · simp only [mergeMask, BitVec.getLsbD_or, BitVec.getLsbD_and, BitVec.getLsbD_not, hi]
    cases en.getLsbD i
    · simp
    · simp
  · simp [BitVec.getLsbD_of_ge _ _ hi]
theorem withMasks_m (t : Strm) {n : Nat} (hn : n ≠ 0) (r en : Mask) : (t.withMasks n r en).m =
    wr (wr t.m n (mergeMask (rd t.m n 0) r en)) (n + 1) (mergeMask (rd t.m (n + 1) 0) (~~~r) en) := by
  simp [Strm.withMasks, Strm.putMasks, Strm.setM, hn, mergeMask]
theorem withMasks_pend (t : Strm) (n : Nat) (r en : Mask) : (t.withMasks n r en).pend = [] := by
  simp only [Strm.withMasks, Strm.putMasks, setM_pend]
theorem withMasks_x (t : Strm) (n : Nat) (r en : Mask) : (t.withMasks n r en).x = t.x := by
  simp only [Strm.withMasks, Strm.putMasks, setM_x]
theorem withMasks_v (t : Strm) (n : Nat) (r en : Mask) : (t.withMasks n r en).v = t.v := by
  simp only [Strm.withMasks, Strm.putMasks, setM_v]

/-- Settles O26: the row or the mask pair lands alone, and changes nothing of its stream but its registers. -/
theorem vectorResultLands : Obligations.VectorResultLands := by
  intro s k e n hp hc hdue hs
  have hmem (f : Strm → Strm) : SameMemory s (s.modStrm k false f) := sameMemory_modStrm s k false f
  have hother (f : Strm → Strm) (j : CoreId) (hj : j ≠ k) : (s.modStrm k false f).core j = s.core j :=
    core_modCore_ne s k j _ hj.symm
  refine ⟨fun r en st he hn hst => ?_, fun r en he h0 h15 => ?_⟩
  · refine ⟨_, exec_landing_alone hp hc hdue (landOne_row hp he hs) rfl, ?_⟩
    rw [strm_modStrm]
    refine ⟨fun i hi => ?_, fun i hi => ?_, ?_, ?_, rfl, rfl, rfl, rfl, hother _, hmem _⟩
    · rw [withRow_v, rd_wr_same _ _ _ _ hn, lane_mergeRow _ _ _ hi]
    · rw [withRow_v, rd_wr_other _ _ _ _ _ hi.symm]
    · rw [withRow_v, withRow_j, rd_wr_same _ _ _ _ hn, rd_wr_same _ _ _ _ (by omega)]
    · rw [withRow_j, rd_wr_other _ _ _ _ _ (by omega), rd_wr_same _ _ _ _ (by omega)]
  · have hm := withMasks_m (s.strm k false) (Nat.ne_of_gt h0) r en
    refine ⟨_, exec_landing_alone hp hc hdue (landOne_masks hp he hs) (withMasks_pend _ _ _ _), ?_⟩
    rw [strm_modStrm]
    refine ⟨fun i => ?_, fun i hi => ?_, fun i hi hi' => ?_, withMasks_x _ _ _ _, withMasks_v _ _ _ _, hother _, hmem _⟩
    · rw [hm, rd_wr_other _ _ _ _ _ (by omega), rd_wr_same _ _ _ _ (by omega), getLsbD_mergeMask]
    · rw [hm, rd_wr_same _ _ _ _ (by omega), getLsbD_mergeMask, BitVec.getLsbD_not, decide_eq_true hi, Bool.true_and]
    · rw [hm, rd_wr_other _ _ _ _ _ hi'.symm, rd_wr_other _ _ _ _ _ hi.symm]

end Sys2Proof.Machine
